-- ==== Sys2Proof/Word.lean ====
section
/-!
DEFINITION. The word type, the shapes of register contents, and the plain enumerations that the
syntax, the configuration and the state share (R2, R35, R71, R140, R229, R259).
-/

namespace Sys2Proof

/-- A register lane, an address, a mask: 32 bits (R2). -/
abbrev Word := BitVec 32

/-- A byte of memory (R2). -/
abbrev Byte := BitVec 8

/-- The values of the 32 lanes of a register, lane 0 first (R17). -/
abbrev Lanes := List Word

/-- The contents of a vector register: one of the three shapes (R35). -/
inductive Reg where
  /-- U(x): every lane holds `x`. -/
  | u (x : Word)
  /-- A(b, s): lane i holds `b + i * s`. -/
  | a (b s : Word)
  /-- V: each lane holds its own value. -/
  | v (l : Lanes)
  deriving DecidableEq, Repr

/-- The five windows a generic address can lie in, and none (R140). -/
inductive Space where
  | shared | scratch | spill | aperture
  deriving DecidableEq, Repr

/-- A space of a template address (R186). -/
inductive TSpace where
  | shared | scratch | main
  deriving DecidableEq, Repr

/-- Modes of copy (R186). -/
inductive CopyMode where
  | copy | halo | bin | gather | rscatter | agather | decode
  deriving DecidableEq, Repr

/-- Trap classes 0 to 11 (R229). -/
inductive TrapClass where
  | ill | xlt | arith | shape | queue | mem | range | race | sync | copy | soft | debug
  deriving DecidableEq, Repr

/-- Kinds of trap (R218, R231). -/
inductive TrapKind where
  | issue | wait | access | completed
  deriving DecidableEq, Repr

/-- Race modes, in the order off, report, fault (R225, R259). -/
inductive RaceMode where
  | off | report | fault
  deriving DecidableEq, Repr

/-- Codes of a copy that failed (R202). -/
inductive CopyFail where
  | unmapped | perm | memerr | peerdown | bitstream
  deriving DecidableEq, Repr

/-- The four queue classes (R72). -/
inductive QClass where
  | load | store | copy | tile
  deriving DecidableEq, Repr

/-- The units an instruction can occupy (R103, R209). -/
inductive ExecUnit where
  | uniform | vector | sfu | mask | tensor
  deriving DecidableEq, Repr

/-- The eight special functions (R92). -/
inductive SfuFn where
  | rcp | rsq | sqrt | ex2 | lg2 | sinpi | cospi | tanh
  deriving DecidableEq, Repr

/-- The binary floating-point formats (R47). -/
inductive FFmt where
  | f64 | f32 | f16 | bf16 | e5m2 | e4m3 | e2m1
  deriving DecidableEq, Repr

/-- A partition: its die, its core on the die (16 * CLUS + CORE, 0 to 95) and its number 0 to 15 (R6, R12). -/
structure PartRef where
  die  : Nat
  core : Nat
  part : Nat
  deriving DecidableEq, Repr

/-- A core: its die and its number on the die (R6). -/
structure CoreRef where
  die  : Nat
  core : Nat
  deriving DecidableEq, Repr

/-- A 64 B line of storage, named by what it stores (R264). -/
inductive LineKey where
  /-- Line `line` (physical byte address / 64) of the scratchpad of `die`. -/
  | scratch (die line : Nat)
  /-- Line `line` (block-relative byte address / 64) of the shared memory of block `blk`. -/
  | shared (blk line : Nat)
  /-- Line `line` of the spill area of wave `wave`. -/
  | spill (wave line : Nat)
  /-- The wave-state and register lines of wave `wave`, kept as one snapshot. -/
  | wave (wave : Nat)
  /-- The checkpoint record of block `blk`. -/
  | ckpt (blk : Nat)
  /-- Line `line` (physical byte address / 64) of the HBM of `die`; it has no Felt layer. -/
  | main (die line : Nat)
  deriving DecidableEq, Repr

/-- Registers written through the hub or by the host that have no instruction of their own (R3 and the rules named). -/
inductive HubReg where
  /-- STOP.FLOOR of a cluster (R283). -/
  | stopFloor (cluster : Nat)
  /-- WGTi of a cluster (R286). -/
  | weight (cluster i : Nat)
  /-- CMPADDR, CMPCTL and CMPLAUNCH of comparator `i` of a core (R295). -/
  | cmpAddr (die core i : Nat)
  | cmpCtl (die core i : Nat)
  | cmpLaunch (die core i : Nat)
  /-- Scratchpad region descriptor `i` of an interface on a die (R145). -/
  | region (vi die i : Nat)
  /-- Chanter's read index of an interface's race buffer (R261). -/
  | raceRead (vi : Nat)
  /-- The READ word of the trace buffer of a wave slot (R302). -/
  | traceRead (die core slot : Nat)
  /-- The state word of an interface's message window (R310). -/
  | msgState (vi : Nat)
  /-- An entry of an interface's route table (R314): its ports towards a module. -/
  | route (vi module : Nat)
  /-- Whether a debugger is attached, and its policy for a `brk` tag: nonzero to continue (R227). -/
  | attached
  | brkPolicy (tag : Nat)
  /-- TALLOW, HOTREF, LOCN, STOP.PASS and the other read-only registers: the write is ignored (R3). -/
  | readOnly
  deriving DecidableEq, Repr

/-- Where a page of a process lies that is not its own memory alone (R315). -/
inductive SysPlace where
  /-- A page of main memory, by its 57-bit address. -/
  | main (va : Nat)
  /-- A page of host memory. -/
  | host (addr : Nat)
  deriving DecidableEq, Repr

/-- A run of bytes, lowest address first. -/
abbrev Bytes := List Byte

/-- The resource descriptor of a virtual interface (R311). -/
structure ViDesc where
  cores    : List CoreRef := []
  hbmShare : List Nat := []
  ports    : List Nat := []
  fabric   : List (Nat × Nat) := []
  raceMin  : RaceMode := .off
  raceMax  : RaceMode := .off
  raceDef  : RaceMode := .off
  spslot   : Nat := 0
  hdm      : Nat := 0
  asids    : Nat := 0
  deriving DecidableEq, Repr

/-- A write that a loss of power cuts off: of a Felt slot, with the 80 bytes left in it (R266); or of a value of the
flash's state area, the next leaf index or the slot that the management port selects (R322). -/
inductive Torn where
  | felt (key : LineKey) (slot : Bytes)
  | leaf
  | select (slot : Nat)
  deriving DecidableEq, Repr

/-- A boot image slot of the flash as the boot ROM sees it (R322). -/
structure BootSlot where
  version   : Nat
  rollback  : Nat
  signature : Bytes
  digests   : List Bytes
  content   : List Bytes
  deriving DecidableEq, Repr, Inhabited

/-- What a system core does that is no device call, for the thread that it runs (R10, R149, R315, R316). -/
inductive SysAct where
  /-- It loads `n` bytes of one line at a virtual address of its process, into register `rd` where they fit. -/
  | load (rd va n : Nat)
  /-- It stores bytes in one line. -/
  | store (va : Nat) (data : Bytes)
  /-- It reads LOCN. -/
  | locn (rd : Nat)
  /-- What its own instructions leave in a register, and where they lead. -/
  | reg (rd : Nat) (v : BitVec 64)
  | jump (pc : BitVec 64)
  /-- Chanter places the 4 KB page of a virtual address, or gives it back to the process's own memory. -/
  | page (va : Nat) (place : Option SysPlace)
  /-- Chanter gives the core another thread, or none; it starts a thread of a process. -/
  | run (thread : Option Nat)
  | spawn (proc : Nat) (pc : BitVec 64)
  /-- The process ends with a value. -/
  | exit (value : Nat)
  deriving DecidableEq, Repr

/-- What a debugger write names and writes (R301). -/
inductive DbgWrite where
  | reg (d : BitVec 7) (v : Reg)
  | mask (k : BitVec 4) (v : Word)
  | mode (m : BitVec 16)
  deriving DecidableEq, Repr

/-- Storage an uncorrectable error can hit (R238, R263). -/
inductive ErrTarget where
  /-- A register slot that holds register `d` of wave `w`. -/
  | regSlot (w : Nat) (d : BitVec 7)
  /-- A line of shared memory or scratchpad. -/
  | line (key : LineKey)
  /-- An operand-log entry of wave `w`, named by its access. -/
  | log (acc : Nat)
  /-- A line whose Felt shadow is found bad on restore or by the shadow writer. -/
  | felt (key : LineKey)
  /-- The watermark of a granule. -/
  | watermark (key : LineKey)
  deriving DecidableEq, Repr

/-- A request that arrives from a peer module over the fabric (R313). -/
inductive FabReq where
  /-- A line, or part of one, that a peer's copy writes at a main-memory address. -/
  | write (asid : Nat) (va : Nat) (data : Bytes)
  /-- A line, or part of one, that a peer's copy reads. -/
  | read (asid : Nat) (va n : Nat)
  /-- A peer's copy completes on a counter here: `inc`, note count and failure. -/
  | counter (asid : Nat) (va inc note : Nat) (failed : Bool)
  /-- A peer die has accepted the n-th collective copy of a template index. -/
  | accepted (peer tmpl n : Nat)
  /-- Elements of an ALL-GATHER that a peer delivers into a die's scratchpad. -/
  | deliver (die vi : Nat) (addr : Word) (data : Bytes)
  /-- The source elements a peer contributes to a REDUCE-SCATTER. -/
  | contribute (peer tmpl n : Nat) (data : List Word)
  deriving DecidableEq, Repr

/-- `n` consecutive bits of a number from bit `lo` (R2). -/
def bitsOf (x lo n : Nat) : Nat := (x / 2 ^ lo) % 2 ^ n

end Sys2Proof
end

