-- ==== Sys2Proof/Syntax.lean ====
section
/-!
DEFINITION. The instruction syntax: one constructor for each row of the table of operations and events.
The 204 rows that have a word carry the fields of their format (R64); the 86 event rows carry what the event
names: an access, a copy, a wave, a block or a launch by its index in the state, or what arrives from outside.
-/

namespace Sys2Proof

/-- One row of the opcode table. -/
inductive Instr where
  /-- `nop` (R88). -/
  | nop
  /-- `br.cond target` (R70, R215). -/
  | br (cond : BitVec 5) (off : BitVec 19)
  /-- `jmp vA` (R215). -/
  | jmp (a : BitVec 7)
  /-- `call vD, target` (R215). -/
  | call (d : BitVec 7) (off : BitVec 17)
  /-- `ret vA` (R215). -/
  | ret (a : BitVec 7)
  /-- `exit` (R217). -/
  | exit
  /-- `trap n` (R217). -/
  | trap (n : BitVec 8)
  /-- `sleep n` (R217). -/
  | sleep (n : BitVec 24)
  /-- `mode imm16` (R67). -/
  | mode (m : BitVec 16)
  /-- `sreg vD, idx` (R221). -/
  | sreg (d : BitVec 7) (idx : BitVec 10)
  /-- `sset idx, vA` (R221). -/
  | sset (a : BitVec 7) (idx : BitVec 10)
  /-- `tret` (R219). -/
  | tret
  /-- `retry` (R219). -/
  | retry
  /-- `skip` (R219). -/
  | skip
  /-- `trd vD, n` (R220). -/
  | trd (d : BitVec 7) (n : BitVec 6)
  /-- `add vD, vA, vB` (R106 to R109). -/
  | add (d a b : BitVec 7)
  /-- `sub vD, vA, vB` (R106 to R109). -/
  | sub (d a b : BitVec 7)
  /-- `mul vD, vA, vB` (R106 to R109). -/
  | mul (d a b : BitVec 7)
  /-- `mulhi vD, vA, vB` (R106 to R109). -/
  | mulhi (d a b : BitVec 7)
  /-- `fma vD, vA, vB` (R106 to R109). -/
  | fma (d a b : BitVec 7)
  /-- `fms vD, vA, vB` (R106 to R109). -/
  | fms (d a b : BitVec 7)
  /-- `fnma vD, vA, vB` (R106 to R109). -/
  | fnma (d a b : BitVec 7)
  /-- `min vD, vA, vB` (R106 to R109). -/
  | min (d a b : BitVec 7)
  /-- `max vD, vA, vB` (R106 to R109). -/
  | max (d a b : BitVec 7)
  /-- `abs vD, vA` (R109). -/
  | abs (d a : BitVec 7)
  /-- `neg vD, vA` (R109). -/
  | neg (d a : BitVec 7)
  /-- `and vD, vA, vB` (R110). -/
  | and (d a b : BitVec 7)
  /-- `or vD, vA, vB` (R110). -/
  | or (d a b : BitVec 7)
  /-- `xor vD, vA, vB` (R110). -/
  | xor (d a b : BitVec 7)
  /-- `andn vD, vA, vB` (R110). -/
  | andn (d a b : BitVec 7)
  /-- `not vD, vA` (R110). -/
  | not (d a : BitVec 7)
  /-- `shl vD, vA, vB` (R110). -/
  | shl (d a b : BitVec 7)
  /-- `shr vD, vA, vB` (R110). -/
  | shr (d a b : BitVec 7)
  /-- `sra vD, vA, vB` (R110). -/
  | sra (d a b : BitVec 7)
  /-- `rol vD, vA, vB` (R110). -/
  | rol (d a b : BitVec 7)
  /-- `bfe vD, vA, vB` (R111). -/
  | bfe (d a b : BitVec 7)
  /-- `bfi vD, vA, vB` (R111). -/
  | bfi (d a b : BitVec 7)
  /-- `popc vD, vA` (R112). -/
  | popc (d a : BitVec 7)
  /-- `clz vD, vA` (R112). -/
  | clz (d a : BitVec 7)
  /-- `addi vD, vA, e` (R106). -/
  | addi (d a : BitVec 7) (imm : BitVec 10)
  /-- `andi vD, vA, e` (R110). -/
  | andi (d a : BitVec 7) (imm : BitVec 10)
  /-- `ori vD, vA, e` (R110). -/
  | ori (d a : BitVec 7) (imm : BitVec 10)
  /-- `xori vD, vA, e` (R110). -/
  | xori (d a : BitVec 7) (imm : BitVec 10)
  /-- `li vD, e` (R113). -/
  | li (d : BitVec 7) (imm : BitVec 17)
  /-- `lih vD, e` (R113). -/
  | lih (d : BitVec 7) (imm : BitVec 16)
  /-- `shli vD, vA, e` (R110). -/
  | shli (d a : BitVec 7) (n : BitVec 5)
  /-- `shri vD, vA, e` (R110). -/
  | shri (d a : BitVec 7) (n : BitVec 5)
  /-- `srai vD, vA, e` (R110). -/
  | srai (d a : BitVec 7) (n : BitVec 5)
  /-- `brev vD, vA` (R112). -/
  | brev (d a : BitVec 7)
  /-- `sel vD, vA, vB, km` (R114). -/
  | sel (d a b : BitVec 7) (km : BitVec 3)
  /-- `mov vD, vA` (R114). -/
  | mov (d a : BitVec 7)
  /-- `cmp.eq kD, vA, vB` (R90, R115). -/
  | cmpEq (m : BitVec 4) (a b : BitVec 7)
  /-- `cmp.ne kD, vA, vB` (R90, R115). -/
  | cmpNe (m : BitVec 4) (a b : BitVec 7)
  /-- `cmp.lt kD, vA, vB` (R90, R115). -/
  | cmpLt (m : BitVec 4) (a b : BitVec 7)
  /-- `cmp.le kD, vA, vB` (R90, R115). -/
  | cmpLe (m : BitVec 4) (a b : BitVec 7)
  /-- `cmp.gt kD, vA, vB` (R90, R115). -/
  | cmpGt (m : BitVec 4) (a b : BitVec 7)
  /-- `cmp.ge kD, vA, vB` (R90, R115). -/
  | cmpGe (m : BitVec 4) (a b : BitVec 7)
  /-- `cmp.ord kD, vA, vB` (R90, R115). -/
  | cmpOrd (m : BitVec 4) (a b : BitVec 7)
  /-- `cmp.eq.u kD, vA, vB` (R90, R115). -/
  | cmpEqU (m : BitVec 4) (a b : BitVec 7)
  /-- `cmp.ne.u kD, vA, vB` (R90, R115). -/
  | cmpNeU (m : BitVec 4) (a b : BitVec 7)
  /-- `cmp.lt.u kD, vA, vB` (R90, R115). -/
  | cmpLtU (m : BitVec 4) (a b : BitVec 7)
  /-- `cmp.le.u kD, vA, vB` (R90, R115). -/
  | cmpLeU (m : BitVec 4) (a b : BitVec 7)
  /-- `cmp.gt.u kD, vA, vB` (R90, R115). -/
  | cmpGtU (m : BitVec 4) (a b : BitVec 7)
  /-- `cmp.ge.u kD, vA, vB` (R90, R115). -/
  | cmpGeU (m : BitVec 4) (a b : BitVec 7)
  /-- `cmp.uno kD, vA, vB` (R90, R115). -/
  | cmpUno (m : BitVec 4) (a b : BitVec 7)
  /-- `kand kD, kA, kB` (R117). -/
  | kand (d a b : BitVec 4)
  /-- `kor kD, kA, kB` (R117). -/
  | kor (d a b : BitVec 4)
  /-- `kxor kD, kA, kB` (R117). -/
  | kxor (d a b : BitVec 4)
  /-- `knot kD, kA` (R117). -/
  | knot (d a : BitVec 4)
  /-- `kandn kD, kA, kB` (R117). -/
  | kandn (d a b : BitVec 4)
  /-- `kmov kD, kA` (R117). -/
  | kmov (d a : BitVec 4)
  /-- `kset kD, vA` (R118). -/
  | kset (d : BitVec 4) (v : BitVec 7)
  /-- `kget vA, kA` (R118). -/
  | kget (v : BitVec 7) (a : BitVec 4)
  /-- `kpop vA, kA` (R118). -/
  | kpop (v : BitVec 7) (a : BitVec 4)
  /-- `kfirst vA, kA` (R118). -/
  | kfirst (v : BitVec 7) (a : BitVec 4)
  /-- `ktest kA, kB` (R119). -/
  | ktest (a b : BitVec 4)
  /-- `shape vD, vA` (R120). -/
  | shape (d a : BitVec 7)
  /-- `sassert vA, n` (R120). -/
  | sassert (a : BitVec 7) (n : BitVec 3)
  /-- `sforce vD` (R121). -/
  | sforce (d : BitVec 7)
  /-- `scompact vD` (R38, R121). -/
  | scompact (d : BitVec 7)
  /-- `lane vD` (R122). -/
  | lane (d : BitVec 7)
  /-- `perm vD, vA, vB` (R123). -/
  | perm (d a b : BitVec 7)
  /-- `lmove.lo vD, vA, vB` (R124). -/
  | lmoveLo (d a b : BitVec 7)
  /-- `lmove.hi vD, vA, vB` (R124). -/
  | lmoveHi (d a b : BitVec 7)
  /-- `lmove.flip vD, vA, vB` (R124). -/
  | lmoveFlip (d a b : BitVec 7)
  /-- `lmove.rot vD, vA, vB` (R124). -/
  | lmoveRot (d a b : BitVec 7)
  /-- `bcast vD, vA, vB` (R123). -/
  | bcast (d a b : BitVec 7)
  /-- `qswap.h vD, vA` (R126). -/
  | qswapH (d a : BitVec 7)
  /-- `qswap.v vD, vA` (R126). -/
  | qswapV (d a : BitVec 7)
  /-- `qswap.d vD, vA` (R126). -/
  | qswapD (d a : BitVec 7)
  /-- `helper kA` (R125). -/
  | helper (a : BitVec 4)
  /-- `redux.add vD, vA` (R127). -/
  | reduxAdd (d a : BitVec 7)
  /-- `redux.min vD, vA` (R127). -/
  | reduxMin (d a : BitVec 7)
  /-- `redux.max vD, vA` (R127). -/
  | reduxMax (d a : BitVec 7)
  /-- `redux.addn vD, vA, n + 1` (R129). -/
  | reduxAddn (d a : BitVec 7) (n : BitVec 3)
  /-- `scan.add vD, vA` (R128). -/
  | scanAdd (d a : BitVec 7)
  /-- `scan.addn vD, vA, n + 1` (R129). -/
  | scanAddn (d a : BitVec 7) (n : BitVec 3)
  /-- `rcp vD, vA` (R62, R130). -/
  | rcp (d a : BitVec 7)
  /-- `rsq vD, vA` (R62, R130). -/
  | rsq (d a : BitVec 7)
  /-- `sqrt vD, vA` (R62, R130). -/
  | sqrt (d a : BitVec 7)
  /-- `ex2 vD, vA` (R62, R130). -/
  | ex2 (d a : BitVec 7)
  /-- `lg2 vD, vA` (R62, R130). -/
  | lg2 (d a : BitVec 7)
  /-- `sinpi vD, vA` (R62, R130). -/
  | sinpi (d a : BitVec 7)
  /-- `cospi vD, vA` (R62, R130). -/
  | cospi (d a : BitVec 7)
  /-- `tanh vD, vA` (R62, R130). -/
  | tanh (d a : BitVec 7)
  /-- `cvt.f32.i32 vD, vA` (R131). -/
  | cvtF32I32 (d a : BitVec 7)
  /-- `cvt.f32.u32 vD, vA` (R131). -/
  | cvtF32U32 (d a : BitVec 7)
  /-- `cvt.i32.f32 vD, vA` (R131). -/
  | cvtI32F32 (d a : BitVec 7)
  /-- `cvt.u32.f32 vD, vA` (R131). -/
  | cvtU32F32 (d a : BitVec 7)
  /-- `cvt.f32.f16 vD, vA` (R131). -/
  | cvtF32F16 (d a : BitVec 7)
  /-- `cvt.f32.f16h vD, vA` (R131). -/
  | cvtF32F16h (d a : BitVec 7)
  /-- `cvt.f16x2.f32 vD, vA, vB` (R131). -/
  | cvtF16x2F32 (d a b : BitVec 7)
  /-- `cvt.f64.f32 vD, vA` (R132). -/
  | cvtF64F32 (d a : BitVec 7)
  /-- `cvt.f32.f64 vD, vA` (R132). -/
  | cvtF32F64 (d a : BitVec 7)
  /-- `cvt.f64.i32 vD, vA` (R132). -/
  | cvtF64I32 (d a : BitVec 7)
  /-- `cvt.i32.f64 vD, vA` (R132). -/
  | cvtI32F64 (d a : BitVec 7)
  /-- `cvt.f64.u32 vD, vA` (R132). -/
  | cvtF64U32 (d a : BitVec 7)
  /-- `cvt.u32.f64 vD, vA` (R132). -/
  | cvtU32F64 (d a : BitVec 7)
  /-- `scl vD, vA, vB, s` (R133). -/
  | scl (d a b : BitVec 7) (s : BitVec 2)
  /-- `dot4.i8 vD, vA, vB` (R136). -/
  | dot4I8 (d a b : BitVec 7)
  /-- `dot4.u8 vD, vA, vB` (R136). -/
  | dot4U8 (d a b : BitVec 7)
  /-- `dot8.i4 vD, vA, vB` (R136). -/
  | dot8I4 (d a b : BitVec 7)
  /-- `dot4.f8.pair vD, vA, vB` (R137). -/
  | dot4F8 (d a b : BitVec 7) (p : BitVec 2)
  /-- `dot8.f4 vD, vA, vB` (R137). -/
  | dot8F4 (d a b : BitVec 7)
  /-- `cvt.e4m3.f32 vD, vA, vB` (R134). -/
  | cvtE4m3F32 (d a b : BitVec 7)
  /-- `cvt.e5m2.f32 vD, vA, vB` (R134). -/
  | cvtE5m2F32 (d a b : BitVec 7)
  /-- `cvt.e2m1.f32 vD, vA, vB` (R134). -/
  | cvtE2m1F32 (d a b : BitVec 7)
  /-- `cvt.bf16x2.f32 vD, vA, vB` (R134). -/
  | cvtBf16x2F32 (d a b : BitVec 7)
  /-- `cvt.f32.e4m3 vD, vA, vB` (R135). -/
  | cvtF32E4m3 (d a b : BitVec 7)
  /-- `cvt.f32.e5m2 vD, vA, vB` (R135). -/
  | cvtF32E5m2 (d a b : BitVec 7)
  /-- `cvt.f32.e2m1 vD, vA, vB` (R135). -/
  | cvtF32E2m1 (d a b : BitVec 7)
  /-- `cvt.f32.bf16x2 vD, vA, vB` (R135). -/
  | cvtF32Bf16x2 (d a b : BitVec 7)
  /-- `t3x vD, vA, q` (R138). -/
  | t3x (d a : BitVec 7) (q : BitVec 3)
  /-- `t3pk vD, vA, q` (R139). -/
  | t3pk (d a : BitVec 7) (q : BitVec 3)
  /-- `lds.32 vD, [vA + e]` (R165). -/
  | lds32 (d a : BitVec 7) (imm : BitVec 10)
  /-- `lds.64 vD, [vA + e]` (R165). -/
  | lds64 (d a : BitVec 7) (imm : BitVec 10)
  /-- `lds.8 vD, [vA + e]` (R165). -/
  | lds8 (d a : BitVec 7) (imm : BitVec 10)
  /-- `lds.16 vD, [vA + e]` (R165). -/
  | lds16 (d a : BitVec 7) (imm : BitVec 10)
  /-- `ldx.32 vD, [vA + e]` (R165). -/
  | ldx32 (d a : BitVec 7) (imm : BitVec 10)
  /-- `ldx.64 vD, [vA + e]` (R165). -/
  | ldx64 (d a : BitVec 7) (imm : BitVec 10)
  /-- `ldx.8 vD, [vA + e]` (R165). -/
  | ldx8 (d a : BitVec 7) (imm : BitVec 10)
  /-- `ldx.16 vD, [vA + e]` (R165). -/
  | ldx16 (d a : BitVec 7) (imm : BitVec 10)
  /-- `lds.128 vD, [vA + e]` (R165). -/
  | lds128 (d a : BitVec 7) (imm : BitVec 10)
  /-- `ldx.128 vD, [vA + e]` (R165). -/
  | ldx128 (d a : BitVec 7) (imm : BitVec 10)
  /-- `sts.32 [vA + e], vD` (R165). -/
  | sts32 (d a : BitVec 7) (imm : BitVec 10)
  /-- `sts.64 [vA + e], vD` (R165). -/
  | sts64 (d a : BitVec 7) (imm : BitVec 10)
  /-- `sts.8 [vA + e], vD` (R165). -/
  | sts8 (d a : BitVec 7) (imm : BitVec 10)
  /-- `sts.16 [vA + e], vD` (R165). -/
  | sts16 (d a : BitVec 7) (imm : BitVec 10)
  /-- `stx.32 [vA + e], vD` (R165). -/
  | stx32 (d a : BitVec 7) (imm : BitVec 10)
  /-- `stx.64 [vA + e], vD` (R165). -/
  | stx64 (d a : BitVec 7) (imm : BitVec 10)
  /-- `stx.8 [vA + e], vD` (R165). -/
  | stx8 (d a : BitVec 7) (imm : BitVec 10)
  /-- `stx.16 [vA + e], vD` (R165). -/
  | stx16 (d a : BitVec 7) (imm : BitVec 10)
  /-- `sts.128 [vA + e], vD` (R165). -/
  | sts128 (d a : BitVec 7) (imm : BitVec 10)
  /-- `stx.128 [vA + e], vD` (R165). -/
  | stx128 (d a : BitVec 7) (imm : BitVec 10)
  /-- `spill vD, n` (R169). -/
  | spill (d : BitVec 7) (n : BitVec 9)
  /-- `fill vD, n` (R169). -/
  | fill (d : BitVec 7) (n : BitVec 9)
  /-- `atom.add.scope vD, [vA], vB` (R173). -/
  | atomAdd (d a b : BitVec 7) (sc : BitVec 3)
  /-- `atom.fadd.scope vD, [vA], vB` (R173). -/
  | atomFadd (d a b : BitVec 7) (sc : BitVec 3)
  /-- `atom.min.scope vD, [vA], vB` (R173). -/
  | atomMin (d a b : BitVec 7) (sc : BitVec 3)
  /-- `atom.max.scope vD, [vA], vB` (R173). -/
  | atomMax (d a b : BitVec 7) (sc : BitVec 3)
  /-- `atom.and.scope vD, [vA], vB` (R173). -/
  | atomAnd (d a b : BitVec 7) (sc : BitVec 3)
  /-- `atom.or.scope vD, [vA], vB` (R173). -/
  | atomOr (d a b : BitVec 7) (sc : BitVec 3)
  /-- `atom.xor.scope vD, [vA], vB` (R173). -/
  | atomXor (d a b : BitVec 7) (sc : BitVec 3)
  /-- `atom.xchg.scope vD, [vA], vB` (R173). -/
  | atomXchg (d a b : BitVec 7) (sc : BitVec 3)
  /-- `atom.cas.scope vD, [vA], vB` (R173). -/
  | atomCas (d a b : BitVec 7) (sc : BitVec 3)
  /-- `atom.inc.scope vD, [vA], vB` (R173). -/
  | atomInc (d a b : BitVec 7) (sc : BitVec 3)
  /-- `fence.scope` (R175). -/
  | fence (sc : BitVec 3)
  /-- `pfence.scope` (R181). -/
  | pfence (sc : BitVec 3)
  /-- `pckpt` (R182). -/
  | pckpt
  /-- `meet nbN` (R179). -/
  | meet (nb : BitVec 5)
  /-- `arrive nbN` (R179). -/
  | arrive (nb : BitVec 5)
  /-- `await nbN` (R179). -/
  | await (nb : BitVec 5)
  /-- `waitc.scope [vA], vB` (R177). -/
  | waitc (a b : BitVec 7) (sc : BitVec 3)
  /-- `lds.W.acq.scope vD, [vA]` with width code w (R95, R168). -/
  | ldsAcq (d a : BitVec 7) (w sc : BitVec 3)
  /-- `ldx.W.acq.scope vD, [vA]` with width code w (R95, R168). -/
  | ldxAcq (d a : BitVec 7) (w sc : BitVec 3)
  /-- `wait` with limits (R73). -/
  | wait (ql qs : BitVec 5) (qx : BitVec 4) (qt : BitVec 3)
  /-- `sts.W.rel.scope [vA], vB` with width code w (R95, R168). -/
  | stsRel (w : BitVec 3) (a b : BitVec 7) (sc : BitVec 3)
  /-- `stx.W.rel.scope [vA], vB` with width code w (R95, R168). -/
  | stxRel (w : BitVec 3) (a b : BitVec 7) (sc : BitVec 3)
  /-- `mma.f8.pair vD, vA, vB` (R207). -/
  | mmaF8 (d a b : BitVec 4) (p : BitVec 2)
  /-- `mma.i8.sign vD, vA, vB` (R207). -/
  | mmaI8 (d a b : BitVec 4) (g : BitVec 2)
  /-- `mma.bf16 vD, vA, vB` (R207). -/
  | mmaBf16 (d a b : BitVec 4)
  /-- `mma.f16 vD, vA, vB` (R207). -/
  | mmaF16 (d a b : BitVec 4)
  /-- `mma.mxf8.pair vD, vA, vB, vS, sel` (R206, R207). -/
  | mmaMxf8 (d a b : BitVec 4) (xs : BitVec 7) (sel p : BitVec 2)
  /-- `mma.mxf4 vD, vA, vB, vS, sel` (R206, R207). -/
  | mmaMxf4 (d a b : BitVec 4) (xs : BitVec 7) (sel : BitVec 2)
  /-- `mmz vD` (R211). -/
  | mmz (d : BitVec 4)
  /-- `gmma.pair vD, vB, vS` (R212). -/
  | gmma (d b : BitVec 4) (xs : BitVec 7) (p : BitVec 2)
  /-- `vclaim n` (R223). -/
  | vclaim (n : BitVec 7)
  /-- `vrel n` (R223). -/
  | vrel (n : BitVec 7)
  /-- `launch vD, vA` (R224). -/
  | launch (d a : BitVec 7)
  /-- `rcmode m` (R225). -/
  | rcmode (m : BitVec 2)
  /-- `iinv` (R226). -/
  | iinv
  /-- `brk tag` (R227). -/
  | brk (tag : BitVec 16)
  /-- `trc 0` (R227). -/
  | trcStop
  /-- `trc 1` (R227). -/
  | trcStart
  /-- `trc 2` (R227). -/
  | trcSync
  /-- `rdclk vD` (R222). -/
  | rdclk (d : BitVec 7)
  /-- `xperm`, portable only (R98, R327). -/
  | xperm (d a b : BitVec 7)
  /-- `xbcast`, portable only (R98, R327). -/
  | xbcast (d a b : BitVec 7)
  /-- `xredux.add`, portable only (R98, R327). -/
  | xreduxAdd (d a : BitVec 7)
  /-- `xredux.min`, portable only (R98, R327). -/
  | xreduxMin (d a : BitVec 7)
  /-- `xredux.max`, portable only (R98, R327). -/
  | xreduxMax (d a : BitVec 7)
  /-- `xscan`, portable only (R98, R327). -/
  | xscan (d a : BitVec 7)
  /-- `xballot`, portable only (R98, R327). -/
  | xballot (d : BitVec 7) (k : BitVec 4) (c : BitVec 3)
  /-- `xwidth`, portable only (R98, R327). -/
  | xwidth (d : BitVec 7)
  /-- a wave issues a word that is no instruction (R86). -/
  | illWord (word : Word)
  /-- a wave issues a portable-only word (R98). -/
  | portableOnlyWord (word : Word)
  /-- S2: access `acc` leaves its store queue (R153). -/
  | leave (acc : Nat)
  /-- S3: buffered write `acc` is appended at its home (R153). -/
  | propagate (acc : Nat)
  /-- S4: load `acc` performs (R153). -/
  | load (acc : Nat)
  /-- S5: atomic `acc` performs (R153). -/
  | atomic (acc : Nat)
  /-- S6: the next start of start store `acc` is accepted or refused (R153, R171). -/
  | accept (acc : Nat)
  /-- S7: the k-th line still to be moved of copy `copy` is moved (R153). -/
  | move (copy k : Nat)
  /-- S8: copy `copy` completes (R153, R199). -/
  | complete (copy : Nat)
  /-- S9: the k-th write of the persist buffer of `die` drains (R153). -/
  | drain (die k : Nat)
  /-- tile operation `tile` writes its D block (R209, R211). -/
  | tileComplete (tile : Nat)
  /-- the next block of `launch` is placed on these cores of a cluster (R28). -/
  | placeBlock (launch die cluster : Nat) (cores : List Nat)
  /-- saved block `blk` is placed again (R243). -/
  | restore (blk die cluster : Nat) (cores : List Nat)
  /-- the starved next block of `launch` reserves a cluster (R32). -/
  | reserveMode (launch : Nat)
  /-- the block still unplaced is posted (R34). -/
  | gangStarved (launch : Nat)
  /-- exited wave `w` ends (R25). -/
  | waveEnd (w : Nat)
  /-- block `blk` is committed and ends (R268). -/
  | endCommit (blk : Nat)
  /-- the launch tag is swept and freed (R249). -/
  | tagSweep (die tag : Nat)
  /-- sleeping wave `w` wakes (R217). -/
  | sleepElapsed (w : Nat)
  /-- the head claim of partition `p` is granted (R44). -/
  | claimGrant (p : PartRef)
  /-- the claim-deadlock check of `blk` on `p` (R46). -/
  | claimDeadlock (p : PartRef) (blk : Nat)
  /-- the arrival of wave `w` is counted (R154, R178). -/
  | arrival (w : Nat)
  /-- the checkpoint step of block `blk` (R268). -/
  | checkpoint (blk : Nat)
  /-- Chanter asks for block `blk` to be preempted, for GANG-STARVED or not (R239). -/
  | preempt (blk : Nat) (gang : Bool)
  /-- a DRAIN block is saved instead (R240). -/
  | drainTimeout (blk : Nat)
  /-- stopped block `blk` becomes SAVED (R242). -/
  | save (blk : Nat)
  /-- stopped block `blk` is discarded and queued again (R241). -/
  | flushAndRestart (blk : Nat)
  /-- marked block `blk` is saved and restored on the reserved cores (R245). -/
  | migration (blk cluster : Nat) (cores : List Nat)
  /-- a request to gate a core (R269). -/
  | managedPowerGating (die core : Nat)
  /-- the gated core is shadowed and its power cut (R269). -/
  | gatingCut (die core : Nat)
  /-- the gated core is restored (R269). -/
  | gatingRestore (die core : Nat)
  /-- module power is lost; the slot write of a pending line may be cut off, leaving these slot bytes (R156, R266). -/
  | abruptLoss (torn : Option Torn)
  /-- the next step of the power-up sequence (R321). -/
  | powerUp
  /-- host message START, and the ASID that Chanter gives the process (R273, R310). -/
  | start (vi addr len asid : Nat)
  /-- host message SIGNAL (R310). -/
  | signal (vi proc sig : Nat)
  /-- host message STATUS (R310). -/
  | status (vi proc : Nat)
  /-- host message ATTEST (R310, R323). -/
  | attest (vi target : Nat) (nonce : Bytes)
  /-- host message RECOVERED (R310). -/
  | recovered (vi : Nat)
  /-- system call 0x100 of the thread that a system core runs, as are the calls that follow (R316, R318). -/
  | launchSystemCall (core : Nat)
  /-- system call 0x101 (R316). -/
  | launchWait (core : Nat)
  /-- system call 0x102 (R316, R320). -/
  | launchCancel (core : Nat)
  /-- system call 0x103 (R307). -/
  | launchTime (core : Nat)
  /-- system call 0x104 (R316). -/
  | queueOpen (core : Nat)
  /-- system call 0x105 (R316). -/
  | queueClose (core : Nat)
  /-- system call 0x110 (R326). -/
  | bundleLoad (core : Nat)
  /-- system call 0x111 (R316). -/
  | bundleUnload (core : Nat)
  /-- system call 0x112 (R316). -/
  | kernelFind (core : Nat)
  /-- system call 0x120 (R275). -/
  | map (core : Nat)
  /-- system call 0x121 (R276). -/
  | unmap (core : Nat)
  /-- system call 0x122 (R279). -/
  | discard (core : Nat)
  /-- system call 0x130 (R261). -/
  | raceConfig (core : Nat)
  /-- system call 0x131 (R302). -/
  | traceConfig (core : Nat)
  /-- system call 0x140 (R271). -/
  | requeue (core : Nat)
  /-- Chanter services the k-th posted fault of `die` with a leaf and a frame of bytes, or cannot (R201, R202). -/
  | faultService (die k : Nat) (answer : Option (BitVec 64 × Bytes))
  /-- the k-th TLB entry of a site is invalidated (R278). -/
  | tlbInvalidate (die site k : Nat)
  /-- Chanter evicts the declared host-backed range whose next use is farthest (R280). -/
  | eviction (die : Nat)
  /-- a fabric port goes down (R314). -/
  | linkDown (port : Nat)
  /-- the end of a Bellows window (R285, R287). -/
  | bellowsWindow (cluster : Nat)
  /-- a rail step completes (R281). -/
  | railStep (cluster : Nat)
  /-- a clock step completes (R287). -/
  | clockStep (cluster : Nat)
  /-- the guard step is released (R288). -/
  | guardRelease (cluster : Nat)
  /-- a budget lease arrives (R290, R291). -/
  | budgetLease (lease : Bytes)
  /-- the term of the lease in force ends (R291). -/
  | leaseExpiry
  /-- a stack sensor reads so many hundredths of a degree (R292). -/
  | hbmSensorRead (stack : Nat) (centi : Int)
  /-- a thermal allowance is updated (R293). -/
  | tallowUpdate (die core : Nat) (allow : BitVec 16)
  /-- a debugger stop or Chanter halt (R24). -/
  | halt (w : Nat)
  /-- a halted wave is resumed (R233). -/
  | resume (w : Nat) (skip : Bool)
  /-- a PC comparator matches the next instruction of `w` (R296). -/
  | pcComparatorMatch (w : Nat)
  /-- a single step of a halted wave (R298). -/
  | singleStep (w : Nat)
  /-- a focus step of a halted wave (R299). -/
  | focusStep (w ln : Nat)
  /-- Rolmer reads and clears the pending-path stack (R299). -/
  | pendingPathStack (w : Nat)
  /-- a barrier-phase step of a block (R300). -/
  | barrierPhaseStep (blk : Nat)
  /-- a plain debugger write (R301). -/
  | plainWrite (w : Nat) (d : DbgWrite)
  /-- a forced debugger write (R301). -/
  | forcedWrite (w : Nat) (d : DbgWrite)
  /-- the trace unit writes a SYNC at its interval (R305). -/
  | traceSyncInterval (w : Nat)
  /-- the trace unit writes LOSS and SYNC (R305). -/
  | traceLoss (w : Nat)
  /-- the management port selects a boot slot (R322). -/
  | selectSlot (slot : Nat)
  /-- the management port raises the rollback minimum (R322). -/
  | raiseRollbackMinimum (v : Nat)
  /-- a hub or host write to a register (R3). -/
  | registerWrite (r : HubReg) (v : Nat)
  /-- the occupancy of a unit runs out (R103). -/
  | occupancyEnd (p : PartRef) (u : ExecUnit)
  /-- storage suffers an error it cannot correct (R238). -/
  | uncorrectableError (t : ErrTarget)
  /-- a request arrives from a peer module (R313). -/
  | fabricRequest (r : FabReq)
  /-- a system core acts for the thread that it runs: it loads or stores (R149), or what else `SysAct` names. -/
  | systemCoreAccess (core : Nat) (act : SysAct)
  /-- the host writes or reads CXL.mem (R309). -/
  | cxlMemRequest (vi off : Nat) (data : Option Bytes) (n : Nat)
  /-- the timeout of a launch_wait expires (R316). -/
  | launchWaitTimeout (thread : Nat)
  /-- the physical function asks for a descriptor change (R311). -/
  | resourceDescriptorRequest (vi : Nat) (desc : ViDesc)
  deriving DecidableEq, Repr, Inhabited

end Sys2Proof
end

