-- ==== Sys2Proof/WellFormed.lean ====
section
/-!
DEFINITION. Which terms of the syntax are instructions: the values the range tables list (R86 to R97), the
register alignments that hold whatever MODE holds (R66, R99), and for the events the bounds of the module (R6).
-/

namespace Sys2Proof

/-- An even register (R99). -/
def even7 (d : BitVec 7) : Bool := d.toNat % 2 == 0
/-- A register that is a multiple of four (R99). -/
def quad7 (d : BitVec 7) : Bool := d.toNat % 4 == 0
/-- A scope 0 to 4 (R71). -/
def scopeOk (sc : BitVec 3) : Bool := decide (sc.toNat ≤ 4)
/-- A width code 0 to 4 (R95). -/
def widthOk (w : BitVec 3) : Bool := decide (w.toNat ≤ 4)
/-- The alignment a width code asks of its data register (R99). -/
def alignedTo (w : BitVec 3) (d : BitVec 7) : Bool :=
  if w.toNat = 3 then even7 d else if w.toNat = 4 then quad7 d else true
/-- A `mode` immediate that R67 allows. -/
def modeImmOk (m : BitVec 16) : Bool := decide (m.toNat < 4096) && decide (bitsOf m.toNat 4 3 ≠ 7)
/-- The indices R221 lists. -/
def sregListed (i : Nat) : Bool :=
  decide (i ≤ 0x00A) || (decide (0x010 ≤ i) && decide (i ≤ 0x01B)) || (decide (0x020 ≤ i) && decide (i ≤ 0x025))
/-- The partitions of the module (R6, R12). -/
def partOk (p : PartRef) : Bool := decide (p.die < 2) && decide (p.core < 96) && decide (p.part < 16)

/-- The instruction is well formed. -/
def Instr.wellFormed : Instr → Bool
  | .nop => true
  | .br cond _ => decide (cond.toNat ≤ 12)
  | .jmp _ => true
  | .call _ _ => true
  | .ret _ => true
  | .exit => true
  | .trap _ => true
  | .sleep _ => true
  | .mode m => modeImmOk m
  | .sreg _ idx => sregListed idx.toNat
  | .sset _ idx => sregListed idx.toNat
  | .tret => true
  | .retry => true
  | .skip => true
  | .trd _ _ => true
  | .add _ _ _ => true
  | .sub _ _ _ => true
  | .mul _ _ _ => true
  | .mulhi _ _ _ => true
  | .fma _ _ _ => true
  | .fms _ _ _ => true
  | .fnma _ _ _ => true
  | .min _ _ _ => true
  | .max _ _ _ => true
  | .abs _ _ => true
  | .neg _ _ => true
  | .and _ _ _ => true
  | .or _ _ _ => true
  | .xor _ _ _ => true
  | .andn _ _ _ => true
  | .not _ _ => true
  | .shl _ _ _ => true
  | .shr _ _ _ => true
  | .sra _ _ _ => true
  | .rol _ _ _ => true
  | .bfe _ _ _ => true
  | .bfi _ _ _ => true
  | .popc _ _ => true
  | .clz _ _ => true
  | .addi _ _ _ => true
  | .andi _ _ _ => true
  | .ori _ _ _ => true
  | .xori _ _ _ => true
  | .li _ _ => true
  | .lih _ _ => true
  | .shli _ _ _ => true
  | .shri _ _ _ => true
  | .srai _ _ _ => true
  | .brev _ _ => true
  | .sel _ _ _ _ => true
  | .mov _ _ => true
  | .cmpEq _ _ _ => true
  | .cmpNe _ _ _ => true
  | .cmpLt _ _ _ => true
  | .cmpLe _ _ _ => true
  | .cmpGt _ _ _ => true
  | .cmpGe _ _ _ => true
  | .cmpOrd _ _ _ => true
  | .cmpEqU _ _ _ => true
  | .cmpNeU _ _ _ => true
  | .cmpLtU _ _ _ => true
  | .cmpLeU _ _ _ => true
  | .cmpGtU _ _ _ => true
  | .cmpGeU _ _ _ => true
  | .cmpUno _ _ _ => true
  | .kand _ _ _ => true
  | .kor _ _ _ => true
  | .kxor _ _ _ => true
  | .knot _ _ => true
  | .kandn _ _ _ => true
  | .kmov _ _ => true
  | .kset _ _ => true
  | .kget _ _ => true
  | .kpop _ _ => true
  | .kfirst _ _ => true
  | .ktest _ _ => true
  | .shape _ _ => true
  | .sassert _ n => decide (n.toNat ≤ 2)
  | .sforce _ => true
  | .scompact _ => true
  | .lane _ => true
  | .perm _ _ _ => true
  | .lmoveLo _ _ _ => true
  | .lmoveHi _ _ _ => true
  | .lmoveFlip _ _ _ => true
  | .lmoveRot _ _ _ => true
  | .bcast _ _ _ => true
  | .qswapH _ _ => true
  | .qswapV _ _ => true
  | .qswapD _ _ => true
  | .helper _ => true
  | .reduxAdd _ _ => true
  | .reduxMin _ _ => true
  | .reduxMax _ _ => true
  | .reduxAddn _ a n => decide (a.toNat + n.toNat ≤ 127)
  | .scanAdd _ _ => true
  | .scanAddn d a n => decide (a.toNat + n.toNat ≤ 127) && decide (d.toNat + n.toNat ≤ 127)
  | .rcp _ _ => true
  | .rsq _ _ => true
  | .sqrt _ _ => true
  | .ex2 _ _ => true
  | .lg2 _ _ => true
  | .sinpi _ _ => true
  | .cospi _ _ => true
  | .tanh _ _ => true
  | .cvtF32I32 _ _ => true
  | .cvtF32U32 _ _ => true
  | .cvtI32F32 _ _ => true
  | .cvtU32F32 _ _ => true
  | .cvtF32F16 _ _ => true
  | .cvtF32F16h _ _ => true
  | .cvtF16x2F32 _ _ _ => true
  | .cvtF64F32 d _ => even7 d
  | .cvtF32F64 _ a => even7 a
  | .cvtF64I32 d _ => even7 d
  | .cvtI32F64 _ a => even7 a
  | .cvtF64U32 d _ => even7 d
  | .cvtU32F64 _ a => even7 a
  | .scl _ _ _ _ => true
  | .dot4I8 _ _ _ => true
  | .dot4U8 _ _ _ => true
  | .dot8I4 _ _ _ => true
  | .dot4F8 _ _ _ _ => true
  | .dot8F4 _ _ _ => true
  | .cvtE4m3F32 _ _ _ => true
  | .cvtE5m2F32 _ _ _ => true
  | .cvtE2m1F32 _ _ _ => true
  | .cvtBf16x2F32 _ _ _ => true
  | .cvtF32E4m3 _ _ _ => true
  | .cvtF32E5m2 _ _ _ => true
  | .cvtF32E2m1 _ _ _ => true
  | .cvtF32Bf16x2 _ _ _ => true
  | .t3x _ _ q => decide (q.toNat ≤ 4)
  | .t3pk _ _ q => decide (q.toNat ≤ 4)
  | .lds32 _ _ _ => true
  | .lds64 d _ _ => even7 d
  | .lds8 _ _ _ => true
  | .lds16 _ _ _ => true
  | .ldx32 _ _ _ => true
  | .ldx64 d _ _ => even7 d
  | .ldx8 _ _ _ => true
  | .ldx16 _ _ _ => true
  | .lds128 d _ _ => quad7 d
  | .ldx128 d _ _ => quad7 d
  | .sts32 _ _ _ => true
  | .sts64 d _ _ => even7 d
  | .sts8 _ _ _ => true
  | .sts16 _ _ _ => true
  | .stx32 _ _ _ => true
  | .stx64 d _ _ => even7 d
  | .stx8 _ _ _ => true
  | .stx16 _ _ _ => true
  | .sts128 d _ _ => quad7 d
  | .stx128 d _ _ => quad7 d
  | .spill _ _ => true
  | .fill _ _ => true
  | .atomAdd _ _ _ sc => scopeOk sc
  | .atomFadd _ _ _ sc => scopeOk sc
  | .atomMin _ _ _ sc => scopeOk sc
  | .atomMax _ _ _ sc => scopeOk sc
  | .atomAnd _ _ _ sc => scopeOk sc
  | .atomOr _ _ _ sc => scopeOk sc
  | .atomXor _ _ _ sc => scopeOk sc
  | .atomXchg _ _ _ sc => scopeOk sc
  | .atomCas _ _ _ sc => scopeOk sc
  | .atomInc _ _ _ sc => scopeOk sc
  | .fence sc => scopeOk sc
  | .pfence sc => decide (sc.toNat ≤ 2)
  | .pckpt => true
  | .meet _ => true
  | .arrive _ => true
  | .await _ => true
  | .waitc _ b sc => scopeOk sc && even7 b
  | .ldsAcq d _ w sc => scopeOk sc && widthOk w && alignedTo w d
  | .ldxAcq d _ w sc => scopeOk sc && widthOk w && alignedTo w d
  | .wait _ _ _ _ => true
  | .stsRel w _ b sc => scopeOk sc && widthOk w && alignedTo w b
  | .stxRel w _ b sc => scopeOk sc && widthOk w && alignedTo w b
  | .mmaF8 _ _ _ _ => true
  | .mmaI8 _ _ _ _ => true
  | .mmaBf16 _ _ _ => true
  | .mmaF16 _ _ _ => true
  | .mmaMxf8 _ _ _ xs _ _ => even7 xs
  | .mmaMxf4 _ _ _ xs _ => even7 xs
  | .mmz _ => true
  | .gmma _ _ _ _ => true
  | .vclaim _ => true
  | .vrel _ => true
  | .launch _ _ => true
  | .rcmode m => decide (m ≠ 0)
  | .iinv => true
  | .brk _ => true
  | .trcStop => true
  | .trcStart => true
  | .trcSync => true
  | .rdclk d => even7 d
  | .xperm _ _ _ => true
  | .xbcast _ _ _ => true
  | .xreduxAdd _ _ => true
  | .xreduxMin _ _ => true
  | .xreduxMax _ _ => true
  | .xscan _ _ => true
  | .xballot _ _ _ => true
  | .xwidth _ => true
  | .leave _ => true
  | .propagate _ => true
  | .load _ => true
  | .atomic _ => true
  | .accept _ => true
  | .move _ _ => true
  | .complete _ => true
  | .drain die _ => decide (die < 2)
  | .tileComplete _ => true
  | .placeBlock _ die cluster cores => decide (die < 2) && decide (cluster < 6) && cores.all (· < 16) && cores.Nodup
  | .restore _ die cluster cores => decide (die < 2) && decide (cluster < 6) && cores.all (· < 16) && cores.Nodup
  | .reserveMode _ => true
  | .gangStarved _ => true
  | .waveEnd _ => true
  | .endCommit _ => true
  | .tagSweep die tag => decide (die < 2) && decide (tag < 32)
  | .sleepElapsed _ => true
  | .claimGrant p => partOk p
  | .claimDeadlock p _ => partOk p
  | .arrival _ => true
  | .checkpoint _ => true
  | .preempt _ _ => true
  | .drainTimeout _ => true
  | .save _ => true
  | .flushAndRestart _ => true
  | .migration _ cluster cores => decide (cluster < 12) && cores.all (· < 16) && cores.Nodup
  | .managedPowerGating die core => decide (die < 2) && decide (core < 96)
  | .gatingCut die core => decide (die < 2) && decide (core < 96)
  | .gatingRestore die core => decide (die < 2) && decide (core < 96)
  | .abruptLoss _ => true
  | .powerUp => true
  | .start vi _ _ asid => decide (vi < 65) && decide (asid < 4096)
  | .signal vi _ _ => decide (vi < 65)
  | .status vi _ => decide (vi < 65)
  | .attest vi target nonce => decide (vi < 65) && decide (target < 64) && decide (nonce.length = 32)
  | .recovered vi => decide (vi < 65)
  | .launchSystemCall core => decide (core < 24)
  | .launchWait core => decide (core < 24)
  | .launchCancel core => decide (core < 24)
  | .launchTime core => decide (core < 24)
  | .queueOpen core => decide (core < 24)
  | .queueClose core => decide (core < 24)
  | .bundleLoad core => decide (core < 24)
  | .bundleUnload core => decide (core < 24)
  | .kernelFind core => decide (core < 24)
  | .map core => decide (core < 24)
  | .unmap core => decide (core < 24)
  | .discard core => decide (core < 24)
  | .raceConfig core => decide (core < 24)
  | .traceConfig core => decide (core < 24)
  | .requeue core => decide (core < 24)
  | .faultService die _ _ => decide (die < 2)
  | .tlbInvalidate die site _ => decide (die < 2) && decide (site < 4)
  | .eviction die => decide (die < 2)
  | .linkDown port => decide (port < 72)
  | .bellowsWindow cluster => decide (cluster < 12)
  | .railStep cluster => decide (cluster < 12)
  | .clockStep cluster => decide (cluster < 12)
  | .guardRelease cluster => decide (cluster < 12)
  | .budgetLease lease => decide (lease.length = 16)
  | .leaseExpiry => true
  | .hbmSensorRead stack _ => decide (stack < 8)
  | .tallowUpdate die core _ => decide (die < 2) && decide (core < 96)
  | .halt _ => true
  | .resume _ _ => true
  | .pcComparatorMatch _ => true
  | .singleStep _ => true
  | .focusStep _ ln => decide (ln < 32)
  | .pendingPathStack _ => true
  | .barrierPhaseStep _ => true
  | .plainWrite _ _ => true
  | .forcedWrite _ _ => true
  | .traceSyncInterval _ => true
  | .traceLoss _ => true
  | .selectSlot slot => decide (slot < 2)
  | .raiseRollbackMinimum _ => true
  | .registerWrite _ _ => true
  | .illWord _ => true
  | .portableOnlyWord _ => true
  | .occupancyEnd p _ => partOk p
  | .uncorrectableError _ => true
  | .fabricRequest _ => true
  | .systemCoreAccess core _ => decide (core < 24)
  | .cxlMemRequest vi _ _ _ => decide (vi < 64)
  | .launchWaitTimeout _ => true
  | .resourceDescriptorRequest vi _ => decide (vi < 64)

/-- The rows that are instruction words. The other rows are events, and the two rows for words that are no
instruction are met only when such a word issues. -/
def Instr.hasWord : Instr → Bool
  | .nop => true
  | .br _ _ => true
  | .jmp _ => true
  | .call _ _ => true
  | .ret _ => true
  | .exit => true
  | .trap _ => true
  | .sleep _ => true
  | .mode _ => true
  | .sreg _ _ => true
  | .sset _ _ => true
  | .tret => true
  | .retry => true
  | .skip => true
  | .trd _ _ => true
  | .add _ _ _ => true
  | .sub _ _ _ => true
  | .mul _ _ _ => true
  | .mulhi _ _ _ => true
  | .fma _ _ _ => true
  | .fms _ _ _ => true
  | .fnma _ _ _ => true
  | .min _ _ _ => true
  | .max _ _ _ => true
  | .abs _ _ => true
  | .neg _ _ => true
  | .and _ _ _ => true
  | .or _ _ _ => true
  | .xor _ _ _ => true
  | .andn _ _ _ => true
  | .not _ _ => true
  | .shl _ _ _ => true
  | .shr _ _ _ => true
  | .sra _ _ _ => true
  | .rol _ _ _ => true
  | .bfe _ _ _ => true
  | .bfi _ _ _ => true
  | .popc _ _ => true
  | .clz _ _ => true
  | .addi _ _ _ => true
  | .andi _ _ _ => true
  | .ori _ _ _ => true
  | .xori _ _ _ => true
  | .li _ _ => true
  | .lih _ _ => true
  | .shli _ _ _ => true
  | .shri _ _ _ => true
  | .srai _ _ _ => true
  | .brev _ _ => true
  | .sel _ _ _ _ => true
  | .mov _ _ => true
  | .cmpEq _ _ _ => true
  | .cmpNe _ _ _ => true
  | .cmpLt _ _ _ => true
  | .cmpLe _ _ _ => true
  | .cmpGt _ _ _ => true
  | .cmpGe _ _ _ => true
  | .cmpOrd _ _ _ => true
  | .cmpEqU _ _ _ => true
  | .cmpNeU _ _ _ => true
  | .cmpLtU _ _ _ => true
  | .cmpLeU _ _ _ => true
  | .cmpGtU _ _ _ => true
  | .cmpGeU _ _ _ => true
  | .cmpUno _ _ _ => true
  | .kand _ _ _ => true
  | .kor _ _ _ => true
  | .kxor _ _ _ => true
  | .knot _ _ => true
  | .kandn _ _ _ => true
  | .kmov _ _ => true
  | .kset _ _ => true
  | .kget _ _ => true
  | .kpop _ _ => true
  | .kfirst _ _ => true
  | .ktest _ _ => true
  | .shape _ _ => true
  | .sassert _ _ => true
  | .sforce _ => true
  | .scompact _ => true
  | .lane _ => true
  | .perm _ _ _ => true
  | .lmoveLo _ _ _ => true
  | .lmoveHi _ _ _ => true
  | .lmoveFlip _ _ _ => true
  | .lmoveRot _ _ _ => true
  | .bcast _ _ _ => true
  | .qswapH _ _ => true
  | .qswapV _ _ => true
  | .qswapD _ _ => true
  | .helper _ => true
  | .reduxAdd _ _ => true
  | .reduxMin _ _ => true
  | .reduxMax _ _ => true
  | .reduxAddn _ _ _ => true
  | .scanAdd _ _ => true
  | .scanAddn _ _ _ => true
  | .rcp _ _ => true
  | .rsq _ _ => true
  | .sqrt _ _ => true
  | .ex2 _ _ => true
  | .lg2 _ _ => true
  | .sinpi _ _ => true
  | .cospi _ _ => true
  | .tanh _ _ => true
  | .cvtF32I32 _ _ => true
  | .cvtF32U32 _ _ => true
  | .cvtI32F32 _ _ => true
  | .cvtU32F32 _ _ => true
  | .cvtF32F16 _ _ => true
  | .cvtF32F16h _ _ => true
  | .cvtF16x2F32 _ _ _ => true
  | .cvtF64F32 _ _ => true
  | .cvtF32F64 _ _ => true
  | .cvtF64I32 _ _ => true
  | .cvtI32F64 _ _ => true
  | .cvtF64U32 _ _ => true
  | .cvtU32F64 _ _ => true
  | .scl _ _ _ _ => true
  | .dot4I8 _ _ _ => true
  | .dot4U8 _ _ _ => true
  | .dot8I4 _ _ _ => true
  | .dot4F8 _ _ _ _ => true
  | .dot8F4 _ _ _ => true
  | .cvtE4m3F32 _ _ _ => true
  | .cvtE5m2F32 _ _ _ => true
  | .cvtE2m1F32 _ _ _ => true
  | .cvtBf16x2F32 _ _ _ => true
  | .cvtF32E4m3 _ _ _ => true
  | .cvtF32E5m2 _ _ _ => true
  | .cvtF32E2m1 _ _ _ => true
  | .cvtF32Bf16x2 _ _ _ => true
  | .t3x _ _ _ => true
  | .t3pk _ _ _ => true
  | .lds32 _ _ _ => true
  | .lds64 _ _ _ => true
  | .lds8 _ _ _ => true
  | .lds16 _ _ _ => true
  | .ldx32 _ _ _ => true
  | .ldx64 _ _ _ => true
  | .ldx8 _ _ _ => true
  | .ldx16 _ _ _ => true
  | .lds128 _ _ _ => true
  | .ldx128 _ _ _ => true
  | .sts32 _ _ _ => true
  | .sts64 _ _ _ => true
  | .sts8 _ _ _ => true
  | .sts16 _ _ _ => true
  | .stx32 _ _ _ => true
  | .stx64 _ _ _ => true
  | .stx8 _ _ _ => true
  | .stx16 _ _ _ => true
  | .sts128 _ _ _ => true
  | .stx128 _ _ _ => true
  | .spill _ _ => true
  | .fill _ _ => true
  | .atomAdd _ _ _ _ => true
  | .atomFadd _ _ _ _ => true
  | .atomMin _ _ _ _ => true
  | .atomMax _ _ _ _ => true
  | .atomAnd _ _ _ _ => true
  | .atomOr _ _ _ _ => true
  | .atomXor _ _ _ _ => true
  | .atomXchg _ _ _ _ => true
  | .atomCas _ _ _ _ => true
  | .atomInc _ _ _ _ => true
  | .fence _ => true
  | .pfence _ => true
  | .pckpt => true
  | .meet _ => true
  | .arrive _ => true
  | .await _ => true
  | .waitc _ _ _ => true
  | .ldsAcq _ _ _ _ => true
  | .ldxAcq _ _ _ _ => true
  | .wait _ _ _ _ => true
  | .stsRel _ _ _ _ => true
  | .stxRel _ _ _ _ => true
  | .mmaF8 _ _ _ _ => true
  | .mmaI8 _ _ _ _ => true
  | .mmaBf16 _ _ _ => true
  | .mmaF16 _ _ _ => true
  | .mmaMxf8 _ _ _ _ _ _ => true
  | .mmaMxf4 _ _ _ _ _ => true
  | .mmz _ => true
  | .gmma _ _ _ _ => true
  | .vclaim _ => true
  | .vrel _ => true
  | .launch _ _ => true
  | .rcmode _ => true
  | .iinv => true
  | .brk _ => true
  | .trcStop => true
  | .trcStart => true
  | .trcSync => true
  | .rdclk _ => true
  | .xperm _ _ _ => true
  | .xbcast _ _ _ => true
  | .xreduxAdd _ _ => true
  | .xreduxMin _ _ => true
  | .xreduxMax _ _ => true
  | .xscan _ _ => true
  | .xballot _ _ _ => true
  | .xwidth _ => true
  | .leave _ => false
  | .propagate _ => false
  | .load _ => false
  | .atomic _ => false
  | .accept _ => false
  | .move _ _ => false
  | .complete _ => false
  | .drain _ _ => false
  | .tileComplete _ => false
  | .placeBlock _ _ _ _ => false
  | .restore _ _ _ _ => false
  | .reserveMode _ => false
  | .gangStarved _ => false
  | .waveEnd _ => false
  | .endCommit _ => false
  | .tagSweep _ _ => false
  | .sleepElapsed _ => false
  | .claimGrant _ => false
  | .claimDeadlock _ _ => false
  | .arrival _ => false
  | .checkpoint _ => false
  | .preempt _ _ => false
  | .drainTimeout _ => false
  | .save _ => false
  | .flushAndRestart _ => false
  | .migration _ _ _ => false
  | .managedPowerGating _ _ => false
  | .gatingCut _ _ => false
  | .gatingRestore _ _ => false
  | .abruptLoss _ => false
  | .powerUp => false
  | .start _ _ _ _ => false
  | .signal _ _ _ => false
  | .status _ _ => false
  | .attest _ _ _ => false
  | .recovered _ => false
  | .launchSystemCall _ => false
  | .launchWait _ => false
  | .launchCancel _ => false
  | .launchTime _ => false
  | .queueOpen _ => false
  | .queueClose _ => false
  | .bundleLoad _ => false
  | .bundleUnload _ => false
  | .kernelFind _ => false
  | .map _ => false
  | .unmap _ => false
  | .discard _ => false
  | .raceConfig _ => false
  | .traceConfig _ => false
  | .requeue _ => false
  | .faultService _ _ _ => false
  | .tlbInvalidate _ _ _ => false
  | .eviction _ => false
  | .linkDown _ => false
  | .bellowsWindow _ => false
  | .railStep _ => false
  | .clockStep _ => false
  | .guardRelease _ => false
  | .budgetLease _ => false
  | .leaseExpiry => false
  | .hbmSensorRead _ _ => false
  | .tallowUpdate _ _ _ => false
  | .halt _ => false
  | .resume _ _ => false
  | .pcComparatorMatch _ => false
  | .singleStep _ => false
  | .focusStep _ _ => false
  | .pendingPathStack _ => false
  | .barrierPhaseStep _ => false
  | .plainWrite _ _ => false
  | .forcedWrite _ _ => false
  | .traceSyncInterval _ => false
  | .traceLoss _ => false
  | .selectSlot _ => false
  | .raiseRollbackMinimum _ => false
  | .registerWrite _ _ => false
  | .illWord _ => false
  | .portableOnlyWord _ => false
  | .occupancyEnd _ _ => false
  | .uncorrectableError _ => false
  | .fabricRequest _ => false
  | .systemCoreAccess _ _ => false
  | .cxlMemRequest _ _ _ _ => false
  | .launchWaitTimeout _ => false
  | .resourceDescriptorRequest _ _ => false

/-- The rows that another agent than an issuing wave performs. DESIGN CHOICE, log 75. -/
def Instr.isEvent : Instr → Bool
  | .illWord _ => false
  | .portableOnlyWord _ => false
  | i => !i.hasWord

end Sys2Proof
end

