-- ==== Sys2Proof/Decode.lean ====
section
/-!
DEFINITION. The decoder and the encoder of instruction words (R63 to R66, R85 to R99).
Decoding is total on words: it answers an instruction, or the lowest code of R86 that the word alone decides.
-/

namespace Sys2Proof

/-- Why a word is no instruction (R86). -/
inductive DecodeError where
  | opcode | subop | zero | align | modeimm | portable
  deriving DecidableEq, Repr

/-! ### Fields (R64) -/

/-- OP, bits [31:24]. -/
def opOf (w : Word) : BitVec 8 := w.extractLsb' 24 8
/-- D of formats R, J and I. -/
def fD (w : Word) : BitVec 7 := w.extractLsb' 17 7
/-- A of formats R and J. -/
def fA (w : Word) : BitVec 7 := w.extractLsb' 10 7
/-- B of format R. -/
def fB (w : Word) : BitVec 7 := w.extractLsb' 3 7
/-- F of formats R and X. -/
def fF (w : Word) : BitVec 3 := w.extractLsb' 0 3
/-- KD and XD. -/
def kD (w : Word) : BitVec 4 := w.extractLsb' 20 4
/-- KA and XA. -/
def kA (w : Word) : BitVec 4 := w.extractLsb' 16 4
/-- KB and XB. -/
def kB (w : Word) : BitVec 4 := w.extractLsb' 12 4
/-- A7 and XS. -/
def kA7 (w : Word) : BitVec 7 := w.extractLsb' 5 7
/-- COND and OFF19 of format B. -/
def cond (w : Word) : BitVec 5 := w.extractLsb' 19 5
def off19 (w : Word) : BitVec 19 := w.extractLsb' 0 19
/-- IMM10, IMM17 and IMM24. -/
def imm10 (w : Word) : BitVec 10 := w.extractLsb' 0 10
def imm17 (w : Word) : BitVec 17 := w.extractLsb' 0 17
def imm24 (w : Word) : BitVec 24 := w.extractLsb' 0 24

/-- The lowest code that applies, or the instruction (R87). -/
def chk (sub zero align : Bool) (i : Instr) : Except DecodeError Instr :=
  if sub then .error .subop else if zero then .error .zero else if align then .error .align else .ok i
/-- A three-register word whose F must be zero. -/
def r3 (w : Word) (mk : BitVec 7 → BitVec 7 → BitVec 7 → Instr) : Except DecodeError Instr :=
  chk (fF w != 0) false false (mk (fD w) (fA w) (fB w))
/-- A two-register word whose F and B must be zero. -/
def r2 (w : Word) (mk : BitVec 7 → BitVec 7 → Instr) : Except DecodeError Instr :=
  chk (fF w != 0) (fB w != 0) false (mk (fD w) (fA w))
/-- An ordered load: width code in B[2:0], space in B[3], B[6:4] zero (R95). -/
def ordLoad (w : Word) (i : Instr) : Except DecodeError Instr :=
  chk (!scopeOk (fF w) || !widthOk (w.extractLsb' 3 3)) (w.extractLsb' 7 3 != 0) (!alignedTo (w.extractLsb' 3 3) (fD w)) i
/-- An ordered store: width code in D[2:0], space in D[3], D[6:4] zero (R95). -/
def ordStore (w : Word) (i : Instr) : Except DecodeError Instr :=
  chk (!scopeOk (fF w) || !widthOk (w.extractLsb' 17 3)) (w.extractLsb' 21 3 != 0) (!alignedTo (w.extractLsb' 17 3) (fB w)) i

/-- Words of control and system, 0x00 to 0x0F (R88). -/
def decodeControl (w : Word) (op : Nat) : Except DecodeError Instr :=
  match op with
  | 0x01 => chk false (imm24 w != 0) false .nop
  | 0x02 => chk (decide (12 < (cond w).toNat)) false false (.br (cond w) (off19 w))
  | 0x03 => chk (fF w != 0) (fD w != 0 || fB w != 0) false (.jmp (fA w))
  | 0x04 => .ok (.call (fD w) (imm17 w))
  | 0x05 => chk (fF w != 0) (fD w != 0 || fB w != 0) false (.ret (fA w))
  | 0x06 => chk false (imm24 w != 0) false .exit
  | 0x07 => chk false (w.extractLsb' 8 16 != 0) false (.trap (w.extractLsb' 0 8))
  | 0x08 => .ok (.sleep (imm24 w))
  | 0x09 => if w.extractLsb' 16 8 != 0 then .error .zero else if modeImmOk (w.extractLsb' 0 16) then .ok (.mode (w.extractLsb' 0 16)) else .error .modeimm
  | 0x0A => chk (!sregListed (imm10 w).toNat) (fA w != 0) false (.sreg (fD w) (imm10 w))
  | 0x0B => chk (!sregListed (imm10 w).toNat) (fD w != 0) false (.sset (fA w) (imm10 w))
  | 0x0C => chk false (imm24 w != 0) false .tret
  | 0x0D => chk false (imm24 w != 0) false .retry
  | 0x0E => chk false (imm24 w != 0) false .skip
  | 0x0F => chk false (fA w != 0 || w.extractLsb' 6 4 != 0) false (.trd (fD w) (w.extractLsb' 0 6))
  | _ => .error .opcode

/-- Words of lane arithmetic, 0x10 to 0x1F (R89). -/
def decodeArith (w : Word) (op : Nat) : Except DecodeError Instr :=
  match op with
  | 0x10 => r3 w .add
  | 0x11 => r3 w .sub
  | 0x12 => r3 w .mul
  | 0x13 => r3 w .mulhi
  | 0x14 => r3 w .fma
  | 0x15 => r3 w .fms
  | 0x16 => r3 w .fnma
  | 0x17 => r3 w .min
  | 0x18 => r3 w .max
  | 0x19 => r2 w .abs
  | 0x1A => r2 w .neg
  | 0x1B => r3 w .and
  | 0x1C => r3 w .or
  | 0x1D => r3 w .xor
  | 0x1E => r3 w .andn
  | 0x1F => r2 w .not
  | _ => .error .opcode

/-- Words of shifts, bit fields, immediates and moves, 0x20 to 0x33 (R89). -/
def decodeLogic (w : Word) (op : Nat) : Except DecodeError Instr :=
  match op with
  | 0x20 => r3 w .shl
  | 0x21 => r3 w .shr
  | 0x22 => r3 w .sra
  | 0x23 => r3 w .rol
  | 0x24 => r3 w .bfe
  | 0x25 => r3 w .bfi
  | 0x26 => r2 w .popc
  | 0x27 => r2 w .clz
  | 0x28 => .ok (.addi (fD w) (fA w) (imm10 w))
  | 0x29 => .ok (.andi (fD w) (fA w) (imm10 w))
  | 0x2A => .ok (.ori (fD w) (fA w) (imm10 w))
  | 0x2B => .ok (.xori (fD w) (fA w) (imm10 w))
  | 0x2C => .ok (.li (fD w) (imm17 w))
  | 0x2D => chk false (w.extractLsb' 16 1 != 0) false (.lih (fD w) (w.extractLsb' 0 16))
  | 0x2E => chk false (w.extractLsb' 5 5 != 0) false (.shli (fD w) (fA w) (w.extractLsb' 0 5))
  | 0x2F => chk false (w.extractLsb' 5 5 != 0) false (.shri (fD w) (fA w) (w.extractLsb' 0 5))
  | 0x30 => chk false (w.extractLsb' 5 5 != 0) false (.srai (fD w) (fA w) (w.extractLsb' 0 5))
  | 0x31 => r2 w .brev
  | 0x32 => .ok (.sel (fD w) (fA w) (fB w) (fF w))
  | 0x33 => r2 w .mov
  | _ => .error .opcode

/-- Words of compares and masks, 0x50 to 0x5F (R90). -/
def decodeMask (w : Word) (op : Nat) : Except DecodeError Instr :=
  match op with
  | 0x50 => match (fF w).toNat with | 0 => chk false (w.extractLsb' 21 3 != 0) false (.cmpEq (w.extractLsb' 17 4) (fA w) (fB w)) | 1 => chk false (w.extractLsb' 21 3 != 0) false (.cmpNe (w.extractLsb' 17 4) (fA w) (fB w)) | 2 => chk false (w.extractLsb' 21 3 != 0) false (.cmpLt (w.extractLsb' 17 4) (fA w) (fB w)) | 3 => chk false (w.extractLsb' 21 3 != 0) false (.cmpLe (w.extractLsb' 17 4) (fA w) (fB w)) | 4 => chk false (w.extractLsb' 21 3 != 0) false (.cmpGt (w.extractLsb' 17 4) (fA w) (fB w)) | 5 => chk false (w.extractLsb' 21 3 != 0) false (.cmpGe (w.extractLsb' 17 4) (fA w) (fB w)) | 6 => chk false (w.extractLsb' 21 3 != 0) false (.cmpOrd (w.extractLsb' 17 4) (fA w) (fB w)) | _ => .error .subop
  | 0x51 => match (fF w).toNat with | 0 => chk false (w.extractLsb' 21 3 != 0) false (.cmpEqU (w.extractLsb' 17 4) (fA w) (fB w)) | 1 => chk false (w.extractLsb' 21 3 != 0) false (.cmpNeU (w.extractLsb' 17 4) (fA w) (fB w)) | 2 => chk false (w.extractLsb' 21 3 != 0) false (.cmpLtU (w.extractLsb' 17 4) (fA w) (fB w)) | 3 => chk false (w.extractLsb' 21 3 != 0) false (.cmpLeU (w.extractLsb' 17 4) (fA w) (fB w)) | 4 => chk false (w.extractLsb' 21 3 != 0) false (.cmpGtU (w.extractLsb' 17 4) (fA w) (fB w)) | 5 => chk false (w.extractLsb' 21 3 != 0) false (.cmpGeU (w.extractLsb' 17 4) (fA w) (fB w)) | 6 => chk false (w.extractLsb' 21 3 != 0) false (.cmpUno (w.extractLsb' 17 4) (fA w) (fB w)) | _ => .error .subop
  | 0x52 => chk (w.extractLsb' 2 3 != 0) (kA7 w != 0 || w.extractLsb' 0 2 != 0) false (.kand (kD w) (kA w) (kB w))
  | 0x53 => chk (w.extractLsb' 2 3 != 0) (kA7 w != 0 || w.extractLsb' 0 2 != 0) false (.kor (kD w) (kA w) (kB w))
  | 0x54 => chk (w.extractLsb' 2 3 != 0) (kA7 w != 0 || w.extractLsb' 0 2 != 0) false (.kxor (kD w) (kA w) (kB w))
  | 0x56 => chk (w.extractLsb' 2 3 != 0) (kA7 w != 0 || w.extractLsb' 0 2 != 0) false (.kandn (kD w) (kA w) (kB w))
  | 0x55 => chk (w.extractLsb' 2 3 != 0) (kB w != 0 || kA7 w != 0 || w.extractLsb' 0 2 != 0) false (.knot (kD w) (kA w))
  | 0x57 => chk (w.extractLsb' 2 3 != 0) (kB w != 0 || kA7 w != 0 || w.extractLsb' 0 2 != 0) false (.kmov (kD w) (kA w))
  | 0x58 => chk (w.extractLsb' 2 3 != 0) (kA w != 0 || kB w != 0 || w.extractLsb' 0 2 != 0) false (.kset (kD w) (kA7 w))
  | 0x59 => chk (w.extractLsb' 2 3 != 0) (kD w != 0 || kB w != 0 || w.extractLsb' 0 2 != 0) false (.kget (kA7 w) (kA w))
  | 0x5A => chk (w.extractLsb' 2 3 != 0) (kD w != 0 || kB w != 0 || w.extractLsb' 0 2 != 0) false (.kpop (kA7 w) (kA w))
  | 0x5B => chk (w.extractLsb' 2 3 != 0) (kD w != 0 || kB w != 0 || w.extractLsb' 0 2 != 0) false (.kfirst (kA7 w) (kA w))
  | 0x5C => chk (w.extractLsb' 2 3 != 0) (kD w != 0 || kA7 w != 0 || w.extractLsb' 0 2 != 0) false (.ktest (kA w) (kB w))
  | _ => .error .opcode

/-- Words of shapes, permutes, reductions, 0x60 to 0x6F (R91). -/
def decodeLane (w : Word) (op : Nat) : Except DecodeError Instr :=
  match op with
  | 0x60 => r2 w .shape
  | 0x61 => chk (decide (2 < (fF w).toNat)) (fD w != 0 || fB w != 0) false (.sassert (fA w) (fF w))
  | 0x62 => chk (fF w != 0) (fA w != 0 || fB w != 0) false (.sforce (fD w))
  | 0x63 => chk (fF w != 0) (fA w != 0 || fB w != 0) false (.scompact (fD w))
  | 0x64 => chk (fF w != 0) (fA w != 0 || fB w != 0) false (.lane (fD w))
  | 0x65 => r3 w .perm
  | 0x66 => match (fF w).toNat with | 0 => .ok (.lmoveLo (fD w) (fA w) (fB w)) | 1 => .ok (.lmoveHi (fD w) (fA w) (fB w)) | 2 => .ok (.lmoveFlip (fD w) (fA w) (fB w)) | 3 => .ok (.lmoveRot (fD w) (fA w) (fB w)) | _ => .error .subop
  | 0x67 => r3 w .bcast
  | 0x68 => match (fF w).toNat with | 0 => chk false (fB w != 0) false (.qswapH (fD w) (fA w)) | 1 => chk false (fB w != 0) false (.qswapV (fD w) (fA w)) | 2 => chk false (fB w != 0) false (.qswapD (fD w) (fA w)) | _ => .error .subop
  | 0x69 => chk (w.extractLsb' 2 3 != 0) (kD w != 0 || kB w != 0 || kA7 w != 0 || w.extractLsb' 0 2 != 0) false (.helper (kA w))
  | 0x6A => match (fF w).toNat with | 0 => chk false (fB w != 0) false (.reduxAdd (fD w) (fA w)) | 1 => chk false (fB w != 0) false (.reduxMin (fD w) (fA w)) | 2 => chk false (fB w != 0) false (.reduxMax (fD w) (fA w)) | 3 => chk false (w.extractLsb' 6 4 != 0) (!Instr.wellFormed (.reduxAddn (fD w) (fA w) (w.extractLsb' 3 3))) (.reduxAddn (fD w) (fA w) (w.extractLsb' 3 3)) | _ => .error .subop
  | 0x6B => match (fF w).toNat with | 0 => chk false (fB w != 0) false (.scanAdd (fD w) (fA w)) | 1 => chk false (w.extractLsb' 6 4 != 0) (!Instr.wellFormed (.scanAddn (fD w) (fA w) (w.extractLsb' 3 3))) (.scanAddn (fD w) (fA w) (w.extractLsb' 3 3)) | _ => .error .subop
  | _ => .error .opcode

/-- Words of special functions, conversions and narrow formats, 0x70 to 0x8F (R92, R93). -/
def decodeCvt (w : Word) (op : Nat) : Except DecodeError Instr :=
  match op with
  | 0x70 => match (fF w).toNat with | 0 => chk false (fB w != 0) false (.rcp (fD w) (fA w)) | 1 => chk false (fB w != 0) false (.rsq (fD w) (fA w)) | 2 => chk false (fB w != 0) false (.sqrt (fD w) (fA w)) | 3 => chk false (fB w != 0) false (.ex2 (fD w) (fA w)) | 4 => chk false (fB w != 0) false (.lg2 (fD w) (fA w)) | 5 => chk false (fB w != 0) false (.sinpi (fD w) (fA w)) | 6 => chk false (fB w != 0) false (.cospi (fD w) (fA w)) | 7 => chk false (fB w != 0) false (.tanh (fD w) (fA w)) | _ => .error .subop
  | 0x71 => match (fF w).toNat with | 0 => chk false (fB w != 0) false (.cvtF32I32 (fD w) (fA w)) | 1 => chk false (fB w != 0) false (.cvtF32U32 (fD w) (fA w)) | 2 => chk false (fB w != 0) false (.cvtI32F32 (fD w) (fA w)) | 3 => chk false (fB w != 0) false (.cvtU32F32 (fD w) (fA w)) | 4 => chk false (fB w != 0) false (.cvtF32F16 (fD w) (fA w)) | 5 => chk false (fB w != 0) false (.cvtF32F16h (fD w) (fA w)) | 6 => .ok (.cvtF16x2F32 (fD w) (fA w) (fB w)) | _ => .error .subop
  | 0x72 => match (fF w).toNat with | 0 => chk false (fB w != 0) (!Instr.wellFormed (.cvtF64F32 (fD w) (fA w))) (.cvtF64F32 (fD w) (fA w)) | 1 => chk false (fB w != 0) (!Instr.wellFormed (.cvtF32F64 (fD w) (fA w))) (.cvtF32F64 (fD w) (fA w)) | 2 => chk false (fB w != 0) (!Instr.wellFormed (.cvtF64I32 (fD w) (fA w))) (.cvtF64I32 (fD w) (fA w)) | 3 => chk false (fB w != 0) (!Instr.wellFormed (.cvtI32F64 (fD w) (fA w))) (.cvtI32F64 (fD w) (fA w)) | 4 => chk false (fB w != 0) (!Instr.wellFormed (.cvtF64U32 (fD w) (fA w))) (.cvtF64U32 (fD w) (fA w)) | 5 => chk false (fB w != 0) (!Instr.wellFormed (.cvtU32F64 (fD w) (fA w))) (.cvtU32F64 (fD w) (fA w)) | _ => .error .subop
  | 0x73 => chk (w.extractLsb' 2 1 != 0) false false (.scl (fD w) (fA w) (fB w) (w.extractLsb' 0 2))
  | 0x80 => match (fF w).toNat with | 0 => .ok (.dot4I8 (fD w) (fA w) (fB w)) | 1 => .ok (.dot4U8 (fD w) (fA w) (fB w)) | 2 => .ok (.dot8I4 (fD w) (fA w) (fB w)) | _ => .error .subop
  | 0x81 => chk (w.extractLsb' 2 1 != 0) false false (.dot4F8 (fD w) (fA w) (fB w) (w.extractLsb' 0 2))
  | 0x82 => r3 w .dot8F4
  | 0x83 => match (fF w).toNat with | 0 => .ok (.cvtE4m3F32 (fD w) (fA w) (fB w)) | 1 => .ok (.cvtE5m2F32 (fD w) (fA w) (fB w)) | 2 => .ok (.cvtE2m1F32 (fD w) (fA w) (fB w)) | 3 => .ok (.cvtBf16x2F32 (fD w) (fA w) (fB w)) | _ => .error .subop
  | 0x84 => match (fF w).toNat with | 0 => .ok (.cvtF32E4m3 (fD w) (fA w) (fB w)) | 1 => .ok (.cvtF32E5m2 (fD w) (fA w) (fB w)) | 2 => .ok (.cvtF32E2m1 (fD w) (fA w) (fB w)) | 3 => .ok (.cvtF32Bf16x2 (fD w) (fA w) (fB w)) | _ => .error .subop
  | 0x85 => chk (decide (4 < (fF w).toNat)) (fB w != 0) false (.t3x (fD w) (fA w) (fF w))
  | 0x86 => chk (decide (4 < (fF w).toNat)) (fB w != 0) false (.t3pk (fD w) (fA w) (fF w))
  | _ => .error .opcode

/-- Words of memory and atomics, 0x90 to 0xAF (R94). -/
def decodeMem (w : Word) (op : Nat) : Except DecodeError Instr :=
  match op with
  | 0x90 => .ok (.lds32 (fD w) (fA w) (imm10 w))
  | 0x91 => chk false false (!Instr.wellFormed (.lds64 (fD w) (fA w) (imm10 w))) (.lds64 (fD w) (fA w) (imm10 w))
  | 0x92 => .ok (.lds8 (fD w) (fA w) (imm10 w))
  | 0x93 => .ok (.lds16 (fD w) (fA w) (imm10 w))
  | 0x94 => .ok (.ldx32 (fD w) (fA w) (imm10 w))
  | 0x95 => chk false false (!Instr.wellFormed (.ldx64 (fD w) (fA w) (imm10 w))) (.ldx64 (fD w) (fA w) (imm10 w))
  | 0x96 => .ok (.ldx8 (fD w) (fA w) (imm10 w))
  | 0x97 => .ok (.ldx16 (fD w) (fA w) (imm10 w))
  | 0x98 => chk false false (!Instr.wellFormed (.lds128 (fD w) (fA w) (imm10 w))) (.lds128 (fD w) (fA w) (imm10 w))
  | 0x99 => chk false false (!Instr.wellFormed (.ldx128 (fD w) (fA w) (imm10 w))) (.ldx128 (fD w) (fA w) (imm10 w))
  | 0x9A => .ok (.sts32 (fD w) (fA w) (imm10 w))
  | 0x9B => chk false false (!Instr.wellFormed (.sts64 (fD w) (fA w) (imm10 w))) (.sts64 (fD w) (fA w) (imm10 w))
  | 0x9C => .ok (.sts8 (fD w) (fA w) (imm10 w))
  | 0x9D => .ok (.sts16 (fD w) (fA w) (imm10 w))
  | 0x9E => .ok (.stx32 (fD w) (fA w) (imm10 w))
  | 0x9F => chk false false (!Instr.wellFormed (.stx64 (fD w) (fA w) (imm10 w))) (.stx64 (fD w) (fA w) (imm10 w))
  | 0xA0 => .ok (.stx8 (fD w) (fA w) (imm10 w))
  | 0xA1 => .ok (.stx16 (fD w) (fA w) (imm10 w))
  | 0xA2 => chk false false (!Instr.wellFormed (.sts128 (fD w) (fA w) (imm10 w))) (.sts128 (fD w) (fA w) (imm10 w))
  | 0xA3 => chk false false (!Instr.wellFormed (.stx128 (fD w) (fA w) (imm10 w))) (.stx128 (fD w) (fA w) (imm10 w))
  | 0xA4 => chk false (fA w != 0 || w.extractLsb' 9 1 != 0) false (.spill (fD w) (w.extractLsb' 0 9))
  | 0xA5 => chk false (fA w != 0 || w.extractLsb' 9 1 != 0) false (.fill (fD w) (w.extractLsb' 0 9))
  | 0xA6 => chk (!scopeOk (fF w)) false false (.atomAdd (fD w) (fA w) (fB w) (fF w))
  | 0xA7 => chk (!scopeOk (fF w)) false false (.atomFadd (fD w) (fA w) (fB w) (fF w))
  | 0xA8 => chk (!scopeOk (fF w)) false false (.atomMin (fD w) (fA w) (fB w) (fF w))
  | 0xA9 => chk (!scopeOk (fF w)) false false (.atomMax (fD w) (fA w) (fB w) (fF w))
  | 0xAA => chk (!scopeOk (fF w)) false false (.atomAnd (fD w) (fA w) (fB w) (fF w))
  | 0xAB => chk (!scopeOk (fF w)) false false (.atomOr (fD w) (fA w) (fB w) (fF w))
  | 0xAC => chk (!scopeOk (fF w)) false false (.atomXor (fD w) (fA w) (fB w) (fF w))
  | 0xAD => chk (!scopeOk (fF w)) false false (.atomXchg (fD w) (fA w) (fB w) (fF w))
  | 0xAE => chk (!scopeOk (fF w)) false false (.atomCas (fD w) (fA w) (fB w) (fF w))
  | 0xAF => chk (!scopeOk (fF w)) false false (.atomInc (fD w) (fA w) (fB w) (fF w))
  | _ => .error .opcode

/-- Words of synchronisation, 0xB0 to 0xBF (R95). -/
def decodeSync (w : Word) (op : Nat) : Except DecodeError Instr :=
  match op with
  | 0xB0 => chk (!scopeOk (fF w)) (fD w != 0 || fA w != 0 || fB w != 0) false (.fence (fF w))
  | 0xB1 => chk (decide (2 < (fF w).toNat)) (fD w != 0 || fA w != 0 || fB w != 0) false (.pfence (fF w))
  | 0xB2 => chk false (imm24 w != 0) false .pckpt
  | 0xB3 => chk false (w.extractLsb' 5 19 != 0) false (.meet (w.extractLsb' 0 5))
  | 0xB4 => chk false (w.extractLsb' 5 19 != 0) false (.arrive (w.extractLsb' 0 5))
  | 0xB5 => chk false (w.extractLsb' 5 19 != 0) false (.await (w.extractLsb' 0 5))
  | 0xB6 => chk (!scopeOk (fF w)) (fD w != 0) (!even7 (fB w)) (.waitc (fA w) (fB w) (fF w))
  | 0xB7 => ordLoad w (if w.extractLsb' 6 1 = 0 then .ldsAcq (fD w) (fA w) (w.extractLsb' 3 3) (fF w) else .ldxAcq (fD w) (fA w) (w.extractLsb' 3 3) (fF w))
  | 0xB8 => chk false (w.extractLsb' 0 7 != 0) false (.wait (w.extractLsb' 19 5) (w.extractLsb' 14 5) (w.extractLsb' 10 4) (w.extractLsb' 7 3))
  | 0xB9 => ordStore w (if w.extractLsb' 20 1 = 0 then .stsRel (w.extractLsb' 17 3) (fA w) (fB w) (fF w) else .stxRel (w.extractLsb' 17 3) (fA w) (fB w) (fF w))
  | _ => .error .opcode

/-- Words of matrix, pool, launch, race control, debug and trace, 0xC0 to 0xDF (R96, R97). -/
def decodeMatrix (w : Word) (op : Nat) : Except DecodeError Instr :=
  match op with
  | 0xC0 => chk (w.extractLsb' 2 1 != 0) (w.extractLsb' 3 9 != 0) false (.mmaF8 (kD w) (kA w) (kB w) (w.extractLsb' 0 2))
  | 0xC1 => chk (w.extractLsb' 2 1 != 0) (w.extractLsb' 3 9 != 0) false (.mmaI8 (kD w) (kA w) (kB w) (w.extractLsb' 0 2))
  | 0xC2 => chk (fF w != 0) (w.extractLsb' 3 9 != 0) false (.mmaBf16 (kD w) (kA w) (kB w))
  | 0xC3 => chk (fF w != 0) (w.extractLsb' 3 9 != 0) false (.mmaF16 (kD w) (kA w) (kB w))
  | 0xC4 => chk (w.extractLsb' 2 1 != 0) false (!even7 (kA7 w)) (.mmaMxf8 (kD w) (kA w) (kB w) (kA7 w) (w.extractLsb' 3 2) (w.extractLsb' 0 2))
  | 0xC5 => chk (fF w != 0) false (!even7 (kA7 w)) (.mmaMxf4 (kD w) (kA w) (kB w) (kA7 w) (w.extractLsb' 3 2))
  | 0xC6 => chk (fF w != 0) (w.extractLsb' 3 17 != 0) false (.mmz (kD w))
  | 0xC7 => chk (w.extractLsb' 2 1 != 0) (kA w != 0 || w.extractLsb' 3 2 != 0) false (.gmma (kD w) (kB w) (kA7 w) (w.extractLsb' 0 2))
  | 0xD0 => chk false (w.extractLsb' 7 17 != 0) false (.vclaim (w.extractLsb' 0 7))
  | 0xD1 => chk false (w.extractLsb' 7 17 != 0) false (.vrel (w.extractLsb' 0 7))
  | 0xD2 => r2 w .launch
  | 0xD3 => chk (w.extractLsb' 0 2 = (0 : BitVec 2)) (w.extractLsb' 2 22 != 0) false (.rcmode (w.extractLsb' 0 2))
  | 0xD4 => chk false (imm24 w != 0) false .iinv
  | 0xD5 => chk false (w.extractLsb' 16 8 != 0) false (.brk (w.extractLsb' 0 16))
  | 0xD6 => match (w.extractLsb' 0 2).toNat with | 0 => chk false (w.extractLsb' 2 22 != 0) false .trcStop | 1 => chk false (w.extractLsb' 2 22 != 0) false .trcStart | 2 => chk false (w.extractLsb' 2 22 != 0) false .trcSync | _ => .error .subop
  | 0xD7 => chk (fF w != 0) (fA w != 0 || fB w != 0) (!even7 (fD w)) (.rdclk (fD w))
  | _ => .error .opcode

/-- Words of the portable-only opcodes, 0xF0 to 0xF7 (R98). -/
def decodePortable (w : Word) (op : Nat) : Except DecodeError Instr :=
  match op with
  | 0xF0 => if fF w = 0 then .ok (.xperm (fD w) (fA w) (fB w)) else .error .portable
  | 0xF1 => if fF w = 0 then .ok (.xbcast (fD w) (fA w) (fB w)) else .error .portable
  | 0xF2 => if fB w = 0 then (match (fF w).toNat with | 0 => .ok (.xreduxAdd (fD w) (fA w)) | 1 => .ok (.xreduxMin (fD w) (fA w)) | 2 => .ok (.xreduxMax (fD w) (fA w)) | _ => .error .portable) else .error .portable
  | 0xF3 => if fB w = 0 ∧ fF w = 0 then .ok (.xscan (fD w) (fA w)) else .error .portable
  | 0xF4 => if fB w = 0 ∧ w.extractLsb' 14 3 = (0 : BitVec 3) then .ok (.xballot (fD w) (w.extractLsb' 10 4) (fF w)) else .error .portable
  | 0xF5 => if w.extractLsb' 0 17 = (0 : BitVec 17) then .ok (.xwidth (fD w)) else .error .portable
  | 0xF6 => .error .portable
  | 0xF7 => .error .portable
  | _ => .error .opcode

/-- The decoder: OP alone chooses the entry (R63, R85). -/
def decode (w : Word) : Except DecodeError Instr :=
  let op := (opOf w).toNat
  if op ≤ 0x0F then decodeControl w op
  else if op ≤ 0x1F then decodeArith w op
  else if op ≤ 0x4F then decodeLogic w op
  else if op ≤ 0x5F then decodeMask w op
  else if op ≤ 0x6F then decodeLane w op
  else if op ≤ 0x8F then decodeCvt w op
  else if op ≤ 0xAF then decodeMem w op
  else if op ≤ 0xBF then decodeSync w op
  else if op ≤ 0xDF then decodeMatrix w op
  else decodePortable w op

/-! ### Encoder: the formats of R63, most significant field first -/

def packR (op : BitVec 8) (d a b : BitVec 7) (f : BitVec 3) : Word := op ++ d ++ a ++ b ++ f
def packJ (op : BitVec 8) (d a : BitVec 7) (imm : BitVec 10) : Word := op ++ d ++ a ++ imm
def packI (op : BitVec 8) (d : BitVec 7) (imm : BitVec 17) : Word := op ++ d ++ imm
def packB (op : BitVec 8) (c : BitVec 5) (off : BitVec 19) : Word := op ++ c ++ off
def packK (op : BitVec 8) (kd ka kb : BitVec 4) (a7 : BitVec 7) (f3 : BitVec 3) (pad : BitVec 2) : Word := op ++ kd ++ ka ++ kb ++ a7 ++ f3 ++ pad
def packX (op : BitVec 8) (xd xa xb : BitVec 4) (xs : BitVec 7) (sel : BitVec 2) (f : BitVec 3) : Word := op ++ xd ++ xa ++ xb ++ xs ++ sel ++ f
def packW (op : BitVec 8) (ql qs : BitVec 5) (qx : BitVec 4) (qt : BitVec 3) (pad : BitVec 7) : Word := op ++ ql ++ qs ++ qx ++ qt ++ pad
def packS (op : BitVec 8) (imm : BitVec 24) : Word := op ++ imm

/-- The word of an instruction row, written from R88 to R98; an event row has none. -/
def encode : Instr → Option Word
  | .nop => some (packS 0x01 0)
  | .br cond off => some (packB 0x02 cond off)
  | .jmp a => some (packR 0x03 0 a 0 0)
  | .call d off => some (packI 0x04 d off)
  | .ret a => some (packR 0x05 0 a 0 0)
  | .exit => some (packS 0x06 0)
  | .trap n => some (packS 0x07 (n.zeroExtend 24))
  | .sleep n => some (packS 0x08 n)
  | .mode m => some (packS 0x09 (m.zeroExtend 24))
  | .sreg d idx => some (packJ 0x0A d 0 idx)
  | .sset a idx => some (packJ 0x0B 0 a idx)
  | .tret => some (packS 0x0C 0)
  | .retry => some (packS 0x0D 0)
  | .skip => some (packS 0x0E 0)
  | .trd d n => some (packJ 0x0F d 0 (n.zeroExtend 10))
  | .add d a b => some (packR 0x10 d a b 0)
  | .sub d a b => some (packR 0x11 d a b 0)
  | .mul d a b => some (packR 0x12 d a b 0)
  | .mulhi d a b => some (packR 0x13 d a b 0)
  | .fma d a b => some (packR 0x14 d a b 0)
  | .fms d a b => some (packR 0x15 d a b 0)
  | .fnma d a b => some (packR 0x16 d a b 0)
  | .min d a b => some (packR 0x17 d a b 0)
  | .max d a b => some (packR 0x18 d a b 0)
  | .abs d a => some (packR 0x19 d a 0 0)
  | .neg d a => some (packR 0x1A d a 0 0)
  | .and d a b => some (packR 0x1B d a b 0)
  | .or d a b => some (packR 0x1C d a b 0)
  | .xor d a b => some (packR 0x1D d a b 0)
  | .andn d a b => some (packR 0x1E d a b 0)
  | .not d a => some (packR 0x1F d a 0 0)
  | .shl d a b => some (packR 0x20 d a b 0)
  | .shr d a b => some (packR 0x21 d a b 0)
  | .sra d a b => some (packR 0x22 d a b 0)
  | .rol d a b => some (packR 0x23 d a b 0)
  | .bfe d a b => some (packR 0x24 d a b 0)
  | .bfi d a b => some (packR 0x25 d a b 0)
  | .popc d a => some (packR 0x26 d a 0 0)
  | .clz d a => some (packR 0x27 d a 0 0)
  | .addi d a imm => some (packJ 0x28 d a imm)
  | .andi d a imm => some (packJ 0x29 d a imm)
  | .ori d a imm => some (packJ 0x2A d a imm)
  | .xori d a imm => some (packJ 0x2B d a imm)
  | .li d imm => some (packI 0x2C d imm)
  | .lih d imm => some (packI 0x2D d (imm.zeroExtend 17))
  | .shli d a n => some (packJ 0x2E d a (n.zeroExtend 10))
  | .shri d a n => some (packJ 0x2F d a (n.zeroExtend 10))
  | .srai d a n => some (packJ 0x30 d a (n.zeroExtend 10))
  | .brev d a => some (packR 0x31 d a 0 0)
  | .sel d a b km => some (packR 0x32 d a b km)
  | .mov d a => some (packR 0x33 d a 0 0)
  | .cmpEq m a b => some (packR 0x50 (m.zeroExtend 7) a b 0)
  | .cmpNe m a b => some (packR 0x50 (m.zeroExtend 7) a b 1)
  | .cmpLt m a b => some (packR 0x50 (m.zeroExtend 7) a b 2)
  | .cmpLe m a b => some (packR 0x50 (m.zeroExtend 7) a b 3)
  | .cmpGt m a b => some (packR 0x50 (m.zeroExtend 7) a b 4)
  | .cmpGe m a b => some (packR 0x50 (m.zeroExtend 7) a b 5)
  | .cmpOrd m a b => some (packR 0x50 (m.zeroExtend 7) a b 6)
  | .cmpEqU m a b => some (packR 0x51 (m.zeroExtend 7) a b 0)
  | .cmpNeU m a b => some (packR 0x51 (m.zeroExtend 7) a b 1)
  | .cmpLtU m a b => some (packR 0x51 (m.zeroExtend 7) a b 2)
  | .cmpLeU m a b => some (packR 0x51 (m.zeroExtend 7) a b 3)
  | .cmpGtU m a b => some (packR 0x51 (m.zeroExtend 7) a b 4)
  | .cmpGeU m a b => some (packR 0x51 (m.zeroExtend 7) a b 5)
  | .cmpUno m a b => some (packR 0x51 (m.zeroExtend 7) a b 6)
  | .kand d a b => some (packK 0x52 d a b 0 0 0)
  | .kor d a b => some (packK 0x53 d a b 0 0 0)
  | .kxor d a b => some (packK 0x54 d a b 0 0 0)
  | .knot d a => some (packK 0x55 d a 0 0 0 0)
  | .kandn d a b => some (packK 0x56 d a b 0 0 0)
  | .kmov d a => some (packK 0x57 d a 0 0 0 0)
  | .kset d v => some (packK 0x58 d 0 0 v 0 0)
  | .kget v a => some (packK 0x59 0 a 0 v 0 0)
  | .kpop v a => some (packK 0x5A 0 a 0 v 0 0)
  | .kfirst v a => some (packK 0x5B 0 a 0 v 0 0)
  | .ktest a b => some (packK 0x5C 0 a b 0 0 0)
  | .shape d a => some (packR 0x60 d a 0 0)
  | .sassert a n => some (packR 0x61 0 a 0 n)
  | .sforce d => some (packR 0x62 d 0 0 0)
  | .scompact d => some (packR 0x63 d 0 0 0)
  | .lane d => some (packR 0x64 d 0 0 0)
  | .perm d a b => some (packR 0x65 d a b 0)
  | .lmoveLo d a b => some (packR 0x66 d a b 0)
  | .lmoveHi d a b => some (packR 0x66 d a b 1)
  | .lmoveFlip d a b => some (packR 0x66 d a b 2)
  | .lmoveRot d a b => some (packR 0x66 d a b 3)
  | .bcast d a b => some (packR 0x67 d a b 0)
  | .qswapH d a => some (packR 0x68 d a 0 0)
  | .qswapV d a => some (packR 0x68 d a 0 1)
  | .qswapD d a => some (packR 0x68 d a 0 2)
  | .helper a => some (packK 0x69 0 a 0 0 0 0)
  | .reduxAdd d a => some (packR 0x6A d a 0 0)
  | .reduxMin d a => some (packR 0x6A d a 0 1)
  | .reduxMax d a => some (packR 0x6A d a 0 2)
  | .reduxAddn d a n => some (packR 0x6A d a (n.zeroExtend 7) 3)
  | .scanAdd d a => some (packR 0x6B d a 0 0)
  | .scanAddn d a n => some (packR 0x6B d a (n.zeroExtend 7) 1)
  | .rcp d a => some (packR 0x70 d a 0 0)
  | .rsq d a => some (packR 0x70 d a 0 1)
  | .sqrt d a => some (packR 0x70 d a 0 2)
  | .ex2 d a => some (packR 0x70 d a 0 3)
  | .lg2 d a => some (packR 0x70 d a 0 4)
  | .sinpi d a => some (packR 0x70 d a 0 5)
  | .cospi d a => some (packR 0x70 d a 0 6)
  | .tanh d a => some (packR 0x70 d a 0 7)
  | .cvtF32I32 d a => some (packR 0x71 d a 0 0)
  | .cvtF32U32 d a => some (packR 0x71 d a 0 1)
  | .cvtI32F32 d a => some (packR 0x71 d a 0 2)
  | .cvtU32F32 d a => some (packR 0x71 d a 0 3)
  | .cvtF32F16 d a => some (packR 0x71 d a 0 4)
  | .cvtF32F16h d a => some (packR 0x71 d a 0 5)
  | .cvtF16x2F32 d a b => some (packR 0x71 d a b 6)
  | .cvtF64F32 d a => some (packR 0x72 d a 0 0)
  | .cvtF32F64 d a => some (packR 0x72 d a 0 1)
  | .cvtF64I32 d a => some (packR 0x72 d a 0 2)
  | .cvtI32F64 d a => some (packR 0x72 d a 0 3)
  | .cvtF64U32 d a => some (packR 0x72 d a 0 4)
  | .cvtU32F64 d a => some (packR 0x72 d a 0 5)
  | .scl d a b s => some (packR 0x73 d a b (s.zeroExtend 3))
  | .dot4I8 d a b => some (packR 0x80 d a b 0)
  | .dot4U8 d a b => some (packR 0x80 d a b 1)
  | .dot8I4 d a b => some (packR 0x80 d a b 2)
  | .dot4F8 d a b p => some (packR 0x81 d a b (p.zeroExtend 3))
  | .dot8F4 d a b => some (packR 0x82 d a b 0)
  | .cvtE4m3F32 d a b => some (packR 0x83 d a b 0)
  | .cvtE5m2F32 d a b => some (packR 0x83 d a b 1)
  | .cvtE2m1F32 d a b => some (packR 0x83 d a b 2)
  | .cvtBf16x2F32 d a b => some (packR 0x83 d a b 3)
  | .cvtF32E4m3 d a b => some (packR 0x84 d a b 0)
  | .cvtF32E5m2 d a b => some (packR 0x84 d a b 1)
  | .cvtF32E2m1 d a b => some (packR 0x84 d a b 2)
  | .cvtF32Bf16x2 d a b => some (packR 0x84 d a b 3)
  | .t3x d a q => some (packR 0x85 d a 0 q)
  | .t3pk d a q => some (packR 0x86 d a 0 q)
  | .lds32 d a imm => some (packJ 0x90 d a imm)
  | .lds64 d a imm => some (packJ 0x91 d a imm)
  | .lds8 d a imm => some (packJ 0x92 d a imm)
  | .lds16 d a imm => some (packJ 0x93 d a imm)
  | .ldx32 d a imm => some (packJ 0x94 d a imm)
  | .ldx64 d a imm => some (packJ 0x95 d a imm)
  | .ldx8 d a imm => some (packJ 0x96 d a imm)
  | .ldx16 d a imm => some (packJ 0x97 d a imm)
  | .lds128 d a imm => some (packJ 0x98 d a imm)
  | .ldx128 d a imm => some (packJ 0x99 d a imm)
  | .sts32 d a imm => some (packJ 0x9A d a imm)
  | .sts64 d a imm => some (packJ 0x9B d a imm)
  | .sts8 d a imm => some (packJ 0x9C d a imm)
  | .sts16 d a imm => some (packJ 0x9D d a imm)
  | .stx32 d a imm => some (packJ 0x9E d a imm)
  | .stx64 d a imm => some (packJ 0x9F d a imm)
  | .stx8 d a imm => some (packJ 0xA0 d a imm)
  | .stx16 d a imm => some (packJ 0xA1 d a imm)
  | .sts128 d a imm => some (packJ 0xA2 d a imm)
  | .stx128 d a imm => some (packJ 0xA3 d a imm)
  | .spill d n => some (packJ 0xA4 d 0 (n.zeroExtend 10))
  | .fill d n => some (packJ 0xA5 d 0 (n.zeroExtend 10))
  | .atomAdd d a b sc => some (packR 0xA6 d a b sc)
  | .atomFadd d a b sc => some (packR 0xA7 d a b sc)
  | .atomMin d a b sc => some (packR 0xA8 d a b sc)
  | .atomMax d a b sc => some (packR 0xA9 d a b sc)
  | .atomAnd d a b sc => some (packR 0xAA d a b sc)
  | .atomOr d a b sc => some (packR 0xAB d a b sc)
  | .atomXor d a b sc => some (packR 0xAC d a b sc)
  | .atomXchg d a b sc => some (packR 0xAD d a b sc)
  | .atomCas d a b sc => some (packR 0xAE d a b sc)
  | .atomInc d a b sc => some (packR 0xAF d a b sc)
  | .fence sc => some (packR 0xB0 0 0 0 sc)
  | .pfence sc => some (packR 0xB1 0 0 0 sc)
  | .pckpt => some (packS 0xB2 0)
  | .meet nb => some (packS 0xB3 (nb.zeroExtend 24))
  | .arrive nb => some (packS 0xB4 (nb.zeroExtend 24))
  | .await nb => some (packS 0xB5 (nb.zeroExtend 24))
  | .waitc a b sc => some (packR 0xB6 0 a b sc)
  | .ldsAcq d a w sc => some (packR 0xB7 d a (w.zeroExtend 7) sc)
  | .ldxAcq d a w sc => some (packR 0xB7 d a (0#3 ++ 1#1 ++ w) sc)
  | .wait ql qs qx qt => some (packW 0xB8 ql qs qx qt 0)
  | .stsRel w a b sc => some (packR 0xB9 (w.zeroExtend 7) a b sc)
  | .stxRel w a b sc => some (packR 0xB9 (0#3 ++ 1#1 ++ w) a b sc)
  | .mmaF8 d a b p => some (packX 0xC0 d a b 0 0 (p.zeroExtend 3))
  | .mmaI8 d a b g => some (packX 0xC1 d a b 0 0 (g.zeroExtend 3))
  | .mmaBf16 d a b => some (packX 0xC2 d a b 0 0 0)
  | .mmaF16 d a b => some (packX 0xC3 d a b 0 0 0)
  | .mmaMxf8 d a b xs sel p => some (packX 0xC4 d a b xs sel (p.zeroExtend 3))
  | .mmaMxf4 d a b xs sel => some (packX 0xC5 d a b xs sel 0)
  | .mmz d => some (packX 0xC6 d 0 0 0 0 0)
  | .gmma d b xs p => some (packX 0xC7 d 0 b xs 0 (p.zeroExtend 3))
  | .vclaim n => some (packS 0xD0 (n.zeroExtend 24))
  | .vrel n => some (packS 0xD1 (n.zeroExtend 24))
  | .launch d a => some (packR 0xD2 d a 0 0)
  | .rcmode m => some (packS 0xD3 (m.zeroExtend 24))
  | .iinv => some (packS 0xD4 0)
  | .brk tag => some (packS 0xD5 (tag.zeroExtend 24))
  | .trcStop => some (packS 0xD6 0)
  | .trcStart => some (packS 0xD6 1)
  | .trcSync => some (packS 0xD6 2)
  | .rdclk d => some (packR 0xD7 d 0 0 0)
  | .xperm d a b => some (packR 0xF0 d a b 0)
  | .xbcast d a b => some (packR 0xF1 d a b 0)
  | .xreduxAdd d a => some (packR 0xF2 d a 0 0)
  | .xreduxMin d a => some (packR 0xF2 d a 0 1)
  | .xreduxMax d a => some (packR 0xF2 d a 0 2)
  | .xscan d a => some (packR 0xF3 d a 0 0)
  | .xballot d k c => some (packR 0xF4 d (k.zeroExtend 7) 0 c)
  | .xwidth d => some (packR 0xF5 d 0 0 0)
  | .leave _ => none
  | .propagate _ => none
  | .load _ => none
  | .atomic _ => none
  | .accept _ => none
  | .move _ _ => none
  | .complete _ => none
  | .drain _ _ => none
  | .tileComplete _ => none
  | .placeBlock _ _ _ _ => none
  | .restore _ _ _ _ => none
  | .reserveMode _ => none
  | .gangStarved _ => none
  | .waveEnd _ => none
  | .endCommit _ => none
  | .tagSweep _ _ => none
  | .sleepElapsed _ => none
  | .claimGrant _ => none
  | .claimDeadlock _ _ => none
  | .arrival _ => none
  | .checkpoint _ => none
  | .preempt _ _ => none
  | .drainTimeout _ => none
  | .save _ => none
  | .flushAndRestart _ => none
  | .migration _ _ _ => none
  | .managedPowerGating _ _ => none
  | .gatingCut _ _ => none
  | .gatingRestore _ _ => none
  | .abruptLoss _ => none
  | .powerUp => none
  | .start _ _ _ _ => none
  | .signal _ _ _ => none
  | .status _ _ => none
  | .attest _ _ _ => none
  | .recovered _ => none
  | .launchSystemCall _ => none
  | .launchWait _ => none
  | .launchCancel _ => none
  | .launchTime _ => none
  | .queueOpen _ => none
  | .queueClose _ => none
  | .bundleLoad _ => none
  | .bundleUnload _ => none
  | .kernelFind _ => none
  | .map _ => none
  | .unmap _ => none
  | .discard _ => none
  | .raceConfig _ => none
  | .traceConfig _ => none
  | .requeue _ => none
  | .faultService _ _ _ => none
  | .tlbInvalidate _ _ _ => none
  | .eviction _ => none
  | .linkDown _ => none
  | .bellowsWindow _ => none
  | .railStep _ => none
  | .clockStep _ => none
  | .guardRelease _ => none
  | .budgetLease _ => none
  | .leaseExpiry => none
  | .hbmSensorRead _ _ => none
  | .tallowUpdate _ _ _ => none
  | .halt _ => none
  | .resume _ _ => none
  | .pcComparatorMatch _ => none
  | .singleStep _ => none
  | .focusStep _ _ => none
  | .pendingPathStack _ => none
  | .barrierPhaseStep _ => none
  | .plainWrite _ _ => none
  | .forcedWrite _ _ => none
  | .traceSyncInterval _ => none
  | .traceLoss _ => none
  | .selectSlot _ => none
  | .raiseRollbackMinimum _ => none
  | .registerWrite _ _ => none
  | .illWord _ => none
  | .portableOnlyWord _ => none
  | .occupancyEnd _ _ => none
  | .uncorrectableError _ => none
  | .fabricRequest _ => none
  | .systemCoreAccess _ _ => none
  | .cxlMemRequest _ _ _ _ => none
  | .launchWaitTimeout _ => none
  | .resourceDescriptorRequest _ _ => none

/-- The instruction the decoder reads from a table word (R63): the one word of 32 bits the table numbers so. -/
def decodeTableWord (nbits w : Nat) : Option Instr :=
  if nbits = 32 then
    match decode (BitVec.ofNat 32 w) with
    | .ok i => some i
    | .error _ => none
  else none

end Sys2Proof
end

