-- ==== Sys2Proof/Config.lean ====
section
/-!
DEFINITION. What the module fixes and what the manual leaves open.
The numbers the manual states are plain definitions. A free value is an opaque constant with no body: nothing can
be proved of it but what holds of every value.
-/

namespace Sys2Proof

/-- One move of one agent. Event rows are moves of their own; an issue is a clock of one partition (R30). -/
inductive Move where
  | issue (p : PartRef)
  | event (i : Instr)
  deriving DecidableEq, Repr, Inhabited

/-- A move and the tenths of a nanosecond that pass before it (a 1.0 GHz tick of R222 is ten of them). -/
structure Turn where
  dt   : Nat
  move : Move
  deriving DecidableEq, Repr, Inhabited

/-- What a decode channel makes of one coded unit (R198): a profile violation, no frame, or a frame with its
luma width and height, its bit depth and its samples, plane by plane. -/
inductive Decoded where
  | violation
  | none
  | frame (width height depth : Nat) (y cb cr : List Nat)
  deriving DecidableEq, Repr, Inhabited

/-- A Nelnath kernel translated (R328): its registers, its handler, the wave sets that its exchange area serves, its code,
and where each of its source words begins in it. -/
structure Translated where
  vregs  : Nat
  hbase  : Nat
  sets   : Nat
  code   : Bytes
  places : List Nat
  deriving DecidableEq, Repr, Inhabited

/-- What a peer module answers to a request of a copy (R202, R313). -/
inductive PeerAnswer where
  | ok | wait | unmapped | perm
  deriving DecidableEq, Repr, Inhabited

namespace Config

/-! ### Numbers the manual states -/

/-- Lanes of a wave (R17). -/
def lanes : Nat := 32
/-- Register slots of a partition (R44). -/
def poolSlots : Nat := 512
/-- Wave slots of a partition (R12). -/
def waveSlots : Nat := 8
/-- Partitions of a core (R12). -/
def partitions : Nat := 16
/-- Cores of a cluster and clusters of a die (R6). -/
def coresPerCluster : Nat := 16
def clustersPerDie : Nat := 6
/-- Bytes of shared memory of a core (R12). -/
def sharedBytes : Nat := 524288
/-- Bytes of a scratchpad slice (R12). -/
def sliceBytes : Nat := 1048576
/-- Queue depths (R72). -/
def depth : QClass → Nat
  | .load => 24
  | .store => 16
  | .copy => 8
  | .tile => 4
/-- System cores of the hub die (R6, R12). -/
def systemCores : Nat := 24
/-- Records of a launch queue (R318). -/
def queueRecords : Nat := 4096
/-- Leaves of the module's two-level HSS key of two height-10 trees (R322, R323). -/
def hssLeaves : Nat := 1048576
/-- The greatest VMIN code of each clock step, by step number 14 to 20 in units of 100 MHz (R282). -/
def vminCap (step : Nat) : Nat := 2 * (step - 10)

/-! ### Free values -/

/-- The move that comes next once the agenda is empty: R153 lets the machine take, in any order, any step whose
conditions hold. DESIGN CHOICE, log 1. -/
opaque schedule : Nat → Turn
/-- Which neighbour a faithful function delivers for an input (R62, R130): the upper when true. DEDUCED, log 11. -/
opaque sfuUpper : SfuFn → FFmt → Nat → Bool
/-- Whether a fetch block whose bytes were stored while it sat in a fetch buffer is executed with its new bytes
(R150). DESIGN CHOICE, log 12. -/
opaque fetchNew : Nat → Bool
/-- What an absent lane of a destination takes from a full write by a load or an atomic, which makes no access for
it (R39, R165, R172), by the step and the lane. DESIGN CHOICE, log 9. -/
opaque absentLane : Nat → Nat → Word
/-- The fused VMIN code of a clock step (R282); the value used never exceeds `vminCap`. DESIGN CHOICE, log 13. -/
opaque fusedVmin : Nat → Nat
/-- The fused default of a weight (R286). DESIGN CHOICE, log 13. -/
opaque fusedWeight : Nat → Nat
/-- The fused leakage table by VCODE and temperature band, and the band in force (R285). -/
opaque staticPower : Nat → Nat → Nat
opaque tempBand : Nat → Nat
/-- The activity that a core adds in a window, by step, core and event: the table of R285 groups the events and does not
say what an occurrence of each is. DESIGN CHOICE, log 14. -/
opaque activity : Nat → Nat → Nat → Nat
/-- The fused safe budget and the fused uncore allowance, in watts (R290). -/
opaque safew : Nat
opaque uncore : Nat
/-- The decoder: codec, coded unit and the step of decoding, which stands for the reference frames that the context then
holds, give what the unit makes ready (R198). The largest frame, width and height, that a context allows.
DESIGN CHOICE, log 15. -/
opaque decodeUnit : Nat → Bytes → Nat → Decoded
opaque maxFrame : Nat → Nat × Nat
/-- What another module answers to a request for a main-memory address of its own, and the bytes it holds there, by
step and address (R313). DESIGN CHOICE, log 10. -/
opaque peerAnswer : Nat → Nat → PeerAnswer
opaque peerByte : Nat → Nat → Byte
/-- Which of a route's ports the requests to a line take: the port is chosen from the line address (R314).
DESIGN CHOICE, log 73. -/
opaque portPick : Nat → Nat
/-- SHA-256 of a run of bytes (R322, R323; the published standard). DEDUCED, log 79. -/
opaque sha256 : Bytes → Bytes
/-- Whether the header signature of a boot slot verifies against the fused key digest (R322). -/
opaque bootVerify : BootSlot → Bool
/-- The signature the module's own key makes with a leaf (R323). -/
opaque hssSign : Nat → Bytes → Bytes
/-- The module's number in its scale-up domain, which Chanter writes at boot (R10, R321). -/
opaque moduleNo : Nat
/-- The module serial number (R323). -/
opaque serial : Bytes
/-- The group width of a Nelnath kernel, by its descriptor and name: R80 gives `.width` no field (R327).
DESIGN CHOICE, log 16. -/
opaque nelnathWidth : Bytes → Nat
/-- Ovholt's own translation of a Nelnath kernel: the width, its registers, its handler and its code (R328).
DESIGN CHOICE, log 16. -/
opaque translate : Nat → Nat → Nat → Bytes → Translated
/-- Where Ovholt places a bundle's code: the number of a 1 GB frame of a die, by die and bundle (R150, R326).
DESIGN CHOICE, log 17. -/
opaque codeFrame : Nat → Nat → Nat
/-- The fused minimum rollback counter the module was shipped with (R322). DESIGN CHOICE, log 7. -/
opaque fusedRollback : Nat
/-- The image slots the flash was shipped with (R322). DESIGN CHOICE, log 7. -/
opaque flashSlot : Nat → BootSlot

end Config

end Sys2Proof
end

