-- ==== Sys2Proof/Machine/State.lean ====
section
/-!
DEFINITION. The state of the machine: everything the manual gives the module, as plain data.
Waves, blocks, launches, memory operations, accesses, tiles and copies stand in lists that only grow, and are named
by their positions there; one that has ended keeps its place and says so in its status.
-/

namespace Sys2Proof.Machine

/-- Why a step stops. Safe: the machine stops where the hardware has no such situation. -/
inductive Fault where
  /-- Raised by the meaning of an instruction word when no wave is issuing (`State.cur` is none). `step` never calls
  a meaning so. Safe. -/
  | noIssuingWave
  deriving DecidableEq, Repr

/-- An instruction that has no meaning in the model. -/
inductive Refusal where
  /-- Raised by an arm of `exec` that is not written yet. Safe. -/
  | notModelled (mnemonic : String)
  deriving DecidableEq, Repr

/-! ### Memory -/

/-- Bytes by address, addresses rising, no zero byte listed: an unlisted address reads as zero. -/
abbrev Memory := List Host.Cell

/-! ### Race state (R247 to R256) -/

/-- A knowledge entry: a party with its clock, or a block handle with its generation (R250). -/
inductive Know where
  | party (rid clock : Nat)
  | block (handle gen : Nat)
  deriving DecidableEq, Repr

/-- A sync record (R251). -/
structure SyncRec where
  rid : Nat
  clock : Nat
  handle : Nat
  pg : Nat
  more : List Know
  trunc : Bool
  /-- The step that wrote it at its granule: the least recently written record is replaced. -/
  at_ : Nat := 0
  deriving DecidableEq, Repr

/-- The ST field of a watermark (R254). -/
inductive WmState where
  | fresh | plain | sync | lost
  deriving DecidableEq, Repr

/-- A watermark (R254); the defaults are its reset values. -/
structure Watermark where
  wid : Nat := 0
  wclk : Nat := 0
  rdr : Nat := 0xFFFFF
  rclk : Nat := 0
  wgen : Nat := 0
  wspl : Bool := false
  rgen : Nat := 0
  rspl : Bool := false
  rsyn : Bool := false
  st : WmState := .fresh
  deriving DecidableEq, Repr

/-! ### Waves -/

/-- What a wave is stopped on (R23): `run` is READY, ISSUED or TRAP. -/
inductive Stop where
  | run
  /-- WAIT, until each counter is at or below its limit (R73). -/
  | wait (ql qs qx qt : Nat)
  /-- PARK on an absent line of the access (R147). -/
  | line (acc : Nat)
  /-- PARK on a counter, which the access loads (R177). -/
  | waitc (acc target : Nat)
  /-- PARK in sleep, until this arithmetic clock of the cluster (R217). -/
  | sleep (until_ : Nat)
  /-- PARK in sleep while not resident, with this many clocks left (R217). -/
  | asleep (left : Nat)
  /-- BAR at `meet`, or at `await`, of a barrier (R179). -/
  | bar (nb : Nat) (await : Bool)
  /-- BAR at `pckpt` (R182). -/
  | pckpt
  /-- CLAIM (R44). -/
  | claim (n : Nat)
  deriving DecidableEq, Repr

/-- The states of R23, and `ended`. -/
inductive WaveState where
  | ready | issued | wait | park | bar | claim | trap | halt | saved | ended
  deriving DecidableEq, Repr

/-- A slot of a wave's list: its physical number and the register that holds it (R41, R43). -/
structure Slot where
  phys : Nat
  reg : Option (BitVec 7)
  deriving DecidableEq, Repr

/-- A condition that no later instruction of the wave issues before (R146, R154, R181). -/
inductive Hold where
  /-- `fence` at this scope, over operations issued before memory operation `op`. -/
  | fence (scope op : Nat)
  /-- An SC access of memory operation `op` (R146). -/
  | sc (op : Nat)
  /-- `pfence` at this scope, over operations before `op` and writes appended before the numbered one. -/
  | pfence (scope op seq : Nat)
  /-- An operation of more than four full-vector entries (R162). -/
  | log (op : Nat)
  /-- `launch` in progress: destination, record address and the operation that reads the record (R224). -/
  | launch (d : BitVec 7) (addr : Word) (op : Nat)
  deriving DecidableEq, Repr

/-- What an access or completed trap needs for its resolution (R218, R219). -/
inductive TrapWhat where
  | none
  | access (acc : Nat)
  | tile (tile : Nat)
  | start (acc : Nat)
  deriving DecidableEq, Repr

/-- A run of instructions on the pending-path stack (R299). -/
structure PathRun where
  first : Word
  last : Word
  acting : Word
  count : Nat
  deriving DecidableEq, Repr

/-- The trace state of a wave (R303 to R305). -/
structure Trace where
  on : Bool := false
  /-- SYNC must be the next packet. -/
  needSync : Bool := false
  /-- A TS must precede the next packet (R304). -/
  needTs : Bool := false
  refs : List Word := []
  /-- Branch outcomes held, oldest first. -/
  held : List Bool := []
  packets : Nat := 0
  clkSync : Nat := 0
  tickLast : Nat := 0
  deriving DecidableEq, Repr

/-- The state of a wave (R21 and the rules named at each field). -/
structure Wave where
  blk : Nat
  /-- Wave index in the block (R18). -/
  idx : Nat
  slice : Nat
  /-- Where it is resident (R28). -/
  part : PartRef
  slot : Nat
  pc : Word
  pm : Word
  k : List Word
  mode : BitVec 16
  z : Bool := false
  n : Bool := false
  c : Bool := false
  v : Bool := false
  mz : Bool := false
  mf : Bool := false
  ql : Nat := 0
  qs : Nat := 0
  qx : Nat := 0
  qt : Nat := 0
  pri : Nat := 0
  qv : Nat := 0
  /-- Quota (R43) and placement share (R44). -/
  qw : Nat := 0
  share : Nat := 0
  regs : List Reg
  slots : List Slot := []
  fstat : Word := 0
  /-- Helper mask (R125). -/
  hm : Word := 0
  args : List Word
  /-- Registers whose pending bit is set (R74). -/
  pend : List (BitVec 7) := []
  stop : Stop := .run
  /-- It has issued, and its next instruction could not issue when last tried (R23, R24). -/
  issued : Bool := false
  halted : Bool := false
  saved : Bool := false
  exited : Bool := false
  ended : Bool := false
  trapMode : Bool := false
  /-- Halted by a trap that is resolved on resume (R233). -/
  trapHalt : Bool := false
  /-- Wait count (R30). -/
  w : Nat := 0
  /-- Side-buffer entry, 64 words (R231, R232). -/
  sb : List Word
  what : TrapWhat := .none
  /-- Operations issued before trap mode was entered have a lower number (R235). -/
  trapOp : Nat := 0
  /-- Accesses, starts and tiles that failed while the wave was in trap mode, oldest first (R235). -/
  heldAcc : List TrapWhat := []
  /-- A trap that waits for the wave's resumption, or for the restore of its gated core (R234, R269). -/
  trapDue : Bool := false
  /-- Operation that took each of the 40 log entries, and each full-vector entry (R162). -/
  log : List (Option Nat)
  full : List (Option Nat)
  holds : List Hold := []
  /-- Holds set before trap entry, which bind again when trap mode ends. -/
  holdsOut : List Hold := []
  /-- A wait that a trap interrupted, with the PC at which it is taken up again (R234). -/
  suspended : Option (Word × Stop) := none
  /-- Arrival tokens: barrier and the phase recorded (R178, R179). -/
  tokens : List (Nat × Nat) := []
  /-- Arrivals whose release condition does not hold yet: barrier (32 for `pckpt`) and the operation count at issue. -/
  arriving : List (Nat × Nat) := []
  /-- Race state (R250). -/
  rid : Nat := 0
  rc : Nat := 0
  clk0 : Nat := 0
  pg : Nat := 0
  know : List Know := []
  lossy : Bool := false
  race : RaceMode := .off
  gatecnt : Word := 0
  spill : Memory := []
  trace : Trace := {}
  /-- PC and comparator pairs that have matched: that comparator does not match again there until the wave has issued the
  instruction (R296). -/
  cmpSkip : List (Word × Nat) := []
  /-- A data comparator matched: halt before the next issue (R296). -/
  haltDue : Bool := false
  /-- A single step or a focus step in progress (R298, R299). -/
  stepping : Bool := false
  focus : Option Nat := none
  path : List PathRun := []
  /-- The newest run is still going on. -/
  pathOpen : Bool := false
  pathOvf : Bool := false
  /-- The generation at which the block's checkpoint completed while this wave waited at `pckpt` (R252). -/
  ckptDone : Option Nat := none
  /-- The last instruction that it tried failed a check of R75: it has not issued. -/
  unissued : Bool := false
  /-- Guard and MODE read when the instruction that stopped it issued (R68). -/
  stopGuard : Word := 0
  stopMode : BitVec 16 := 0
  /-- A `skip` was asked for when the wave was resumed while saved (R233, R244). -/
  resumeDue : Option Bool := none
  /-- It retired `launch` or `pckpt` (R239). -/
  noFlush : Bool := false
  /-- Registers whose slot suffered an uncorrectable error, with its SOFT code (R238). -/
  badRegs : List (BitVec 7 × Nat) := []
  /-- Log entries whose operands suffered one. -/
  badOps : List Nat := []
  deriving DecidableEq, Repr

/-! ### Memory operations and accesses -/

/-- What an access does at its home. -/
inductive AccKind where
  | load | store | atomic
  /-- A store to argument words (R170). -/
  | arg
  /-- One start of a start store (R171): the lanes that address one start word. -/
  | start
  /-- The counter load of `waitc` (R177). -/
  | counter
  /-- The rows of a `gmma` (R213). -/
  | gather | scatter
  /-- The record read of `launch` (R224). -/
  | record
  /-- A write or counter update of a copy in transit to another die or module (R152). -/
  | engine
  deriving DecidableEq, Repr

/-- Where an access stands (R152). -/
inductive AccState where
  | queued | block | module_ | accepting
  /-- Performed at S1; the destinations are still to be written (R144, R164). -/
  | arrived
  | held | trapped | withdrawn | done | dropped
  deriving DecidableEq, Repr

/-- One lane of an access: its number, its address and the bytes it stores or its operands. -/
structure LaneAcc where
  lane : Nat
  addr : Nat
  data : Bytes := []
  deriving DecidableEq, Repr

/-- An access: the lanes of one instruction that address one space (R159). -/
structure Acc where
  op : Nat
  wave : Nat
  kind : AccKind
  space : Space
  width : Nat
  lanes : List LaneAcc
  st : AccState := .queued
  /-- The load has parked on an absent line. -/
  sync : Option SyncRec := none
  /-- Lines in a region of persist mode CUT at issue (R145). -/
  cuts : List Nat := []
  /-- Release clock, block generation and split at issue (R250, R252, R254). -/
  clk : Nat := 0
  gen : Nat := 0
  split : Bool := false
  /-- It has left its store queue, and when it entered its buffer. -/
  left : Bool := false
  entered : Nat := 0
  /-- A start made again with QX at its depth: it is counted when it is accepted (R72, R163). -/
  late : Bool := false
  /-- The trap it raised when it failed at its home: class, code, lanes and details (R163, R235). -/
  fail : Option (TrapClass × Nat × Word × List Nat) := none
  /-- For an engine write: the copy, the space and the die of its home. -/
  copy : Nat := 0
  dest : TSpace := .main
  die : Nat := 0
  /-- A counter update in transit (R152, R199): INC, the note count, and whether its copy failed. -/
  bump : Option (Nat × Nat × Bool) := none
  deriving DecidableEq, Repr

/-- One instruction's queue and log entry (R72, R162). -/
structure MemOp where
  wave : Nat
  word : Word
  pc : Word
  guard : Word
  mode : BitVec 16
  race : RaceMode
  cls : Option QClass
  /-- Acquire, release or atomic scope, where it is ordered. -/
  acq : Option Nat := none
  rel : Option Nat := none
  atom : Option Nat := none
  /-- Function code of the atomic: 0 add to 9 inc, in opcode order (R173). -/
  fn : Nat := 0
  /-- SC access (R146). -/
  sc : Bool := false
  dst : List (BitVec 7) := []
  uniform : Bool := false
  /-- Destination writes that a forced write has voided (R301). -/
  voided : Bool := false
  /-- Bytes received, by lane. -/
  got : List (Nat × Bytes) := []
  /-- Still counted in its class, and how many accesses are still to reach the point where the count falls. -/
  counted : Nat := 0
  logIx : Option Nat := none
  fullIx : List Nat := []
  deriving DecidableEq, Repr

/-! ### Tiles -/

/-- What a tile computes (R207, R211, R212). -/
inductive TileFn where
  | f8 (p : Nat) | i8 (g : Nat) | bf16 | f16 | mxf8 (p sel : Nat) | mxf4 (sel : Nat) | zero | gmma (p : Nat)
  deriving DecidableEq, Repr

/-- Where a tile stands (R209). -/
inductive TileState where
  | gathering | staged
  /-- Made again, and waiting for the input stage (R209, R210). -/
  | rerun
  | running (until_ : Nat) | due (at_ : Nat) | scattering | trapped | done | dropped
  deriving DecidableEq, Repr

structure Tile where
  wave : Nat
  op : Nat
  part : PartRef
  fn : TileFn
  d : Nat
  a : List Lanes := []
  b : List Lanes := []
  c : List Lanes := []
  xa : Lanes := []
  xb : Lanes := []
  st : TileState
  passes : Nat := 1
  voided : Bool := false
  deriving DecidableEq, Repr

/-! ### Templates and copies (R184 to R203) -/

structure Template where
  ctrl : Nat := 0
  mask : Nat := 0
  src : Nat := 0
  dst : Nat := 0
  count : List Nat := []
  sstride : List Int := []
  dstride : List Int := []
  inc : Nat := 0
  cnt : Nat := 0
  aux : List Nat := []
  holes : List Nat := []
  deriving DecidableEq, Repr

/-- A span of 64 B lines in one store: the space, and for shared memory the block. -/
structure Span where
  space : TSpace
  blk : Nat := 0
  lo : Nat
  hi : Nat
  deriving DecidableEq, Repr

/-- Where a copy stands: moving lines, updating its counter (R199), or complete. -/
inductive CopyState where
  | active | counting | done
  deriving DecidableEq, Repr

structure Copy where
  wave : Nat
  /-- The operation whose QX count it holds. -/
  op : Nat
  blk : Nat
  launch : Nat
  vi : Nat
  asid : Nat
  die : Nat
  core : Nat
  chan : Nat
  tix : Nat
  t : Template
  st : CopyState := .active
  /-- Its failure: code and faulting address (R202). -/
  fail : Option (CopyFail × Nat) := none
  pc : Word
  race : RaceMode
  /-- Spans that it reads and writes, main memory included (R148, R184). -/
  srcs : List Span := []
  dsts : List Span := []
  /-- Range locks held. -/
  rlocks : List Span := []
  wlocks : List Span := []
  /-- Destination lines still to be moved: slice, row or participant, and line number. -/
  todo : List (Nat × Nat) := []
  /-- BIN: rows not yet binned, and the destination row of each row placed (R194). -/
  bumps : List Nat := []
  placed : List (Nat × Nat) := []
  /-- Multicast deliveries to slices without their image yet: slice, line and the writes (R191). -/
  held : List (Nat × Nat × List LaneAcc) := []
  /-- Destination lines appended so far at its own die's homes (R147). -/
  wrote : List Nat := []
  /-- GATHER: rows counted in the note word (R193). -/
  zeroed : List Nat := []
  note : Nat := 0
  /-- Pages whose translation fault holds a move (R201); held for a peer (R196, R307). -/
  heldOn : List Nat := []
  peerWait : Bool := false
  /-- HALO: the barrier and the phase whose completion starts it (R192). -/
  halo : Option (Nat × Nat) := none
  /-- DECODE: the unit, once decoded; a channel is taken (R198). -/
  decoded : Option Decoded := none
  /-- Collectives: the die's count of copies with this template index before it, the peer list as ring positions, and
  the words that each position has supplied (R196, R197). -/
  nth : Nat := 0
  ring : List Nat := []
  supplied : List (Nat × List Word) := []
  rid : Nat := 0
  clk : Nat := 0
  know : List Know := []
  lossy : Bool := false
  pg : Nat := 0
  deriving DecidableEq, Repr

/-! ### Blocks and launches -/

inductive BlockState where
  | unstarted | placed | saved | ended | reported | discarded
  deriving DecidableEq, Repr

inductive PreemptMode where
  | save | drain (since : Nat) | flush
  deriving DecidableEq, Repr

structure Block where
  launch : Nat
  /-- Linear index in the grid (R20). -/
  lin : Nat
  st : BlockState := .unstarted
  waves : List Nat := []
  die : Nat := 0
  cluster : Nat := 0
  /-- Die-physical core of each slice (R28). -/
  cores : List Nat := []
  /-- When it was first placed, moved on by the time it was not resident (R239); when it was saved or flushed. -/
  firstPlaced : Option Nat := none
  savedAt : Nat := 0
  /-- When it was queued again as unstarted (R241, R271). -/
  requeued : Option Nat := none
  shared : Memory := []
  /-- Lines of shared memory whose presence bit is clear (R147). -/
  absent : List Nat := []
  /-- Watermarks that are not at their reset values, by granule. Once power was lost, the reset state is LOST (R263). -/
  wm : List (Nat × Watermark) := []
  wmLost : Bool := false
  /-- Sync records of its shared memory by granule, the most recently written first; none where a record has been
  replaced (R251). -/
  recs : List (Nat × Option SyncRec) := []
  /-- Phase number of each barrier, and the waves that have arrived in it (R178). -/
  phase : List Nat := []
  arrived : List (List Nat) := []
  /-- Phase generation: the block generation of each completed phase (barrier, phase, generation), newest first. -/
  phaseGen : List (Nat × Nat × Nat) := []
  /-- Waves that arrived at `pckpt` (R182); the append number its pfence condition covers, once all have. -/
  ckpt : List Nat := []
  ckptSeq : Option Nat := none
  gen : Nat := 0
  know : List Know := []
  lossy : Bool := false
  handle : Nat := 0
  /-- Committed generation C (R266). -/
  committed : Nat := 0
  preempt : Option PreemptMode := none
  /-- A preemption request held back by migration (R246). -/
  preemptDue : Option Bool := none
  /-- Migration: the cluster and cores reserved (R245). -/
  migrate : Option (Nat × List Nat) := none
  /-- Its launch was cancelled; it is discarded once its SHARED copies are complete (R320). -/
  cancelled : Bool := false
  /-- A cancel of its launch, held back by its migration (R320). -/
  cancelDue : Bool := false
  /-- Slices whose image is not yet installed (R82, R191). -/
  late : List Nat := []
  /-- A barrier-phase step is in progress (R300). -/
  phaseStep : Bool := false
  deriving DecidableEq, Repr

inductive LaunchState where
  | queued | complete | cancelled
  deriving DecidableEq, Repr

structure Launch where
  vi : Nat
  number : Nat
  queue : Nat
  kernel : Nat
  proc : Nat
  thread : Nat
  asid : Nat
  gx : Nat
  gy : Nat
  gz : Nat
  threads : Nat
  slices : Nat
  raceField : Nat := 0
  traced : Bool := false
  deps : List Nat := []
  args : List Word := []
  ranges : List (Nat × Nat) := []
  /-- Queue predecessor (R27). -/
  pred : Option Nat := none
  st : LaunchState := .queued
  /-- Blocks placed so far: the next block to place. -/
  next : Nat := 0
  /-- It was cancelled: its unplaced blocks are removed (R320). -/
  cut : Bool := false
  /-- When a block of it was last placed, and the block posted as GANG-STARVED (R32, R34). -/
  tLast : Option Nat := none
  starved : Option Nat := none
  blocks : List Nat := []
  /-- Tag on each die, with its ANC mask (R249). -/
  tags : List (Option (Nat × Word)) := [none, none]
  /-- The launching wave, with its release record and its launch (R253). -/
  parent : Option (Nat × SyncRec × List Know × Bool) := none
  /-- Time base at entry, queueing, first placement and end; ticks charged to FAULT and WAIT (R307). -/
  tEntry : Nat := 0
  tQueued : Nat := 0
  tPlaced : Option Nat := none
  tEnd : Option Nat := none
  tFault : Nat := 0
  tWait : Nat := 0
  deriving DecidableEq, Repr

/-! ### Kernels and interfaces -/

/-- A kernel that Ovholt has placed (R80, R326). -/
structure Kernel where
  vi : Nat
  bundle : Nat
  index : Nat
  name : Bytes := []
  live : Bool := true
  codelen : Nat := 0
  hbase : Nat := 0xFFFFFFFF
  shared : Nat := 0
  spill : Nat := 0
  expect : Nat := 0
  vregs : Nat := 0
  args : Nat := 0
  priority : Nat := 0
  race : Nat := 0
  flags : Nat := 0
  gen : Nat := 1
  /-- Virtual address of its entry on each die (R150). -/
  code : List Nat := [0, 0]
  asid : Nat := 0
  /-- Template indices of each die that belong to it (R185, R200). -/
  tmpls : List (List Nat) := [[], []]
  image : Bytes := []
  deriving DecidableEq, Repr

structure LaunchQueue where
  cls : Nat
  open_ : Bool
  deriving DecidableEq, Repr

/-- What an interface holds (R311 and the rules named). -/
structure ViState where
  desc : ViDesc := {}
  queues : List LaunchQueue := []
  /-- The queue that the round goes on from, in each class (R27). -/
  served : List Nat := []
  nextLaunch : Nat := 1
  raceBase : Option Word := none
  rblen : Nat := 0
  raceW : Nat := 0
  raceR : Nat := 0
  racecnt : Nat := 0
  unkcnt : Nat := 0
  dropcnt : Nat := 0
  dzread : Nat := 0
  traceBase : Option Word := none
  tbsize : Nat := 0
  /-- Scratchpad region descriptors, 16 for each die (R145). -/
  regions : List (List Word) := []
  hdm : Memory := []
  /-- Route table of the interface: its ports towards a module (R314). -/
  routes : List (Nat × List Nat) := []
  /-- Message window (R310): state word, the message waiting, ignored writes, the reply's bytes. -/
  msgState : Nat := 0
  msgWait : Option Instr := none
  msgIgnored : Nat := 0
  reply : Bytes := []
  /-- The request's bytes: its type, its length and what follows (R310). -/
  request : Bytes := []
  deriving DecidableEq, Repr

/-! ### Dies, clusters, cores -/

/-- A slot of a Felt line (R265): its 80 bytes as their fields. -/
structure FeltSlot where
  data : Bytes
  seq : Nat
  gen : Nat
  kind : Nat
  owner : Option Nat
  crc : Nat
  deriving DecidableEq, Repr

/-- What a wave-state or checkpoint version holds. -/
inductive Snapshot where
  | wave (w : Wave)
  | block (b : Block)
  deriving DecidableEq, Repr

/-- A line pair of the Felt layer (R264, R265). Snapshot versions carry what their 64 B lines hold together. -/
structure FeltLine where
  key : LineKey
  a : Option FeltSlot := none
  b : Option FeltSlot := none
  snapA : Option Snapshot := none
  snapB : Option Snapshot := none
  deriving DecidableEq, Repr

/-- A write in the persist buffer (R152, S9): its line, the line's content after it, and who wrote it. -/
structure PWrite where
  seq : Nat
  key : LineKey
  data : Bytes
  kind : Nat
  owner : Option Nat
  wave : Option Nat
  blk : Option Nat
  /-- The die of the party that wrote it; none for what is no party of a die (R181). -/
  party : Option Nat := none
  deriving DecidableEq, Repr

/-- A translation held in a TLB (R274). -/
structure TlbEntry where
  asid : Nat
  win : Nat
  page : Nat
  size : Nat
  frame : Nat
  dsc : Bool
  leaf : Nat
  deriving DecidableEq, Repr

/-- What a request wants of its page (R150, R275). -/
inductive Want where
  | read | write | fetch
  deriving DecidableEq, Repr

/-- A posted translation fault (R278): one for each page and site. -/
structure XFault where
  site : Nat
  asid : Nat
  va : Nat
  kind : Want
  copies : List (Nat × Nat)
  deriving DecidableEq, Repr

structure DieState where
  scratch : Memory := []
  absent : List Nat := []
  /-- As for a block. -/
  wm : List (Nat × Watermark) := []
  wmLost : Bool := false
  recs : List (Nat × Option SyncRec) := []
  hbm : Memory := []
  templates : List Template := []
  /-- Region attribute files: ASID, window, entry (R275). -/
  raf : List (Nat × Nat × BitVec 128) := []
  tlb : List (List TlbEntry) := [[], [], [], []]
  faults : List XFault := []
  /-- Launch that holds each of the 32 tags (R249). -/
  tags : List (Option Nat) := []
  persist : List PWrite := []
  felt : List FeltLine := []
  /-- Lines whose storage failed, with the SOFT code that a read raises (R238, R270). -/
  marked : List (LineKey × Nat) := []
  /-- After a recovery, every line of scratchpad but those of `sound` is marked with the code of R270. -/
  unwritten : Bool := false
  sound : List Nat := []
  deriving DecidableEq, Repr

/-- The gating state of a core (R269). -/
inductive Gate where
  | on | gating | gated
  deriving DecidableEq, Repr

/-- A comparator (R295). -/
structure Comparator where
  addr : Word := 0
  ctl : Word := 0
  launch : Word := 0
  deriving DecidableEq, Repr

/-- A fetch block held by a core: ASID, physical block number, bytes (R150). -/
structure FetchBlock where
  asid : Nat
  va : Nat
  data : Bytes
  deriving DecidableEq, Repr

/-- A partition (R12, R44, R103, R209). -/
structure PartState where
  /-- Claim queue: wave and n (R44). -/
  claims : List (Nat × Nat) := []
  /-- Clock at which each unit is free: uniform, vector, SFU, mask. -/
  busy : List (ExecUnit × Nat) := []
  /-- The clock of the last turn to issue (R30). -/
  lastIssue : Option Nat := none
  /-- Clock at which the tensor core last stopped running a tile (R288); none: it has stopped none. -/
  idleSince : Option Nat := none
  deriving DecidableEq, Repr

structure CoreState where
  tallow : BitVec 16 := 0
  gate : Gate := .on
  fetch : List FetchBlock := []
  cmps : List Comparator := []
  slowpass : Nat := 0
  slotClk : List Nat := []
  chanClk : List Nat := []
  /-- Packets lost in the trace buffer of each wave slot (R305). -/
  traceLost : List Nat := []
  /-- Bytes written in the trace buffer of each wave slot since its region was given (R302). -/
  traceBytes : List Nat := []
  parts : List PartState := []
  deriving DecidableEq, Repr

/-- The guard step of a cluster (R288). -/
inductive Guard where
  | none | rising | held
  deriving DecidableEq, Repr

structure ClusterState where
  vcode : Nat := 20
  step : Nat := 20
  pass : Nat := 0
  /-- PASS before the last window ended, and the clock in which it did (R284). -/
  passWas : Nat := 0
  passAt : Nat := 0
  floor : Nat := 0
  guard : Guard := .none
  isOver : Bool := false
  /-- Weights in force, and those written for the next window (R286). -/
  weights : List (Nat × Nat) := []
  weightsNew : List (Nat × Nat) := []
  /-- Rail steps still to take and their direction (R281); a clock step in progress and its target (R287). -/
  railUp : Nat := 0
  railDown : Nat := 0
  clockTo : Option Nat := none
  /-- A raise of the clock that waits for the rail (R282). -/
  clockWant : Option Nat := none
  /-- Clock at which the last window ended (R285). -/
  winClk : Nat := 0
  /-- Hundredths of arithmetic clocks since reset (R30). -/
  cyc : Nat := 0
  /-- Launch and linear index of the block that reserves the cluster (R32). -/
  reserve : Option (Nat × Nat) := none
  deriving DecidableEq, Repr

/-- An HBM stack (R292): hundredths of a degree, doubled refresh, HOTREF. DESIGN CHOICE, log 6. -/
structure StackState where
  centi : Int := 0
  doubled : Bool := false
  hotref : Nat := 0
  /-- The tick of the last reading. -/
  lastRead : Nat := 0
  deriving DecidableEq, Repr

/-- The newest lease received, with the end of its term, and whether it is in force (R290, R291). -/
structure Lease where
  seq : Nat
  watts : Nat
  issued : Nat
  expiry : Nat
  live : Bool := true
  deriving DecidableEq, Repr

/-- A Chanter process (R310, R315): its ASID (R273), the bundle that it was created from, its own memory by virtual
address, and the 4 KB pages, by number, that lie elsewhere. DESIGN CHOICE, log 86. -/
structure Process where
  vi : Nat
  asid : Nat := 0
  alive : Bool := true
  exit : Nat := 0
  signals : List Nat := []
  bundle : Bytes := []
  mem : Memory := []
  pages : List (Nat × SysPlace) := []
  deriving DecidableEq, Repr

/-- A thread of a process: its integer registers and its PC (R315, R316), and whether a launch_wait holds it. -/
structure SysThread where
  proc : Nat
  x : List (BitVec 64) := List.replicate 32 0
  pc : BitVec 64 := 0
  waiting : Bool := false
  deriving DecidableEq, Repr

/-- A system core (R6, R12, R315): the thread that it runs, and whether the boot ROM holds it (R322). -/
structure SysCore where
  thread : Option Nat := none
  held : Bool := false
  deriving DecidableEq, Repr

/-- A value of the flash's state area (R322): the copies of it, each a value, its sequence number and its CRC. -/
structure Kept where
  a : Nat × Nat × Nat
  b : Nat × Nat × Nat
  deriving DecidableEq, Repr

structure Bundle where
  vi : Nat
  asid : Nat
  live : Bool
  digest : Bytes
  /-- Its code as placed on each die, after relocation, and where (R326). -/
  code : List Bytes := []
  window : Nat := 0
  deriving DecidableEq, Repr

/-- What the machine posts to Chanter, Rolmer or the host, and what calls and reads return. -/
inductive Post where
  /-- A wave halted on a trap, or with no translation of its code (R24, R233, R274). -/
  | waveTrap (wave : Nat) (cls code : Nat)
  | fetchFault (wave : Nat)
  /-- A stop: `brk` tag, comparators, halt (R227, R296). -/
  | brk (wave tag : Nat)
  | stops (wave : Nat) (cmps : List Nat)
  | halted (wave : Nat)
  | gangStarved (launch block cluster : Nat)
  | overPost (cluster : Nat)
  | xfault (die asid va : Nat)
  | copyFail (copy : Nat) (code : CopyFail) (addr : Nat)
  | marked (key : LineKey)
  | reported (blk : Nat)
  | phaseDone (blk nb : Nat)
  | bootFail
  /-- A call returned a value, with a reason or further words. -/
  | ret (vi : Nat) (value : Int) (more : List Nat)
  | data (bytes : Bytes)
  /-- A peer module's request is answered: it was done, or waits on a fault, or fails; with the bytes read (R202, R313). -/
  | answer (reply : PeerAnswer) (bytes : Bytes)
  | dbg (ok : Bool) (reason : Nat)
  | path (wave : Nat) (runs : List PathRun) (ovf : Bool)
  | msix (vi : Nat)
  | preempt (blk : Nat) (mode : Nat)
  deriving DecidableEq, Repr

/-- A launch_wait call that has not returned (R316). -/
structure Waiter where
  thread : Nat
  launch : Nat
  until_ : Option Nat
  deriving DecidableEq, Repr

/-! ### The machine -/

structure State where
  waves : List Wave
  blocks : List Block
  launches : List Launch
  ops : List MemOp
  accs : List Acc
  tiles : List Tile
  copies : List Copy
  kernels : List Kernel
  bundles : List Bundle
  /-- Interfaces 0 to 63, and the message window of the physical function (R309, R310). -/
  vis : List ViState
  procs : List Process
  threads : List SysThread
  /-- The 24 system cores of the hub die. -/
  sysCores : List SysCore
  dies : List DieState
  /-- 96 cores of die 0, then 96 of die 1. -/
  cores : List CoreState
  /-- 6 clusters of die 0, then 6 of die 1. -/
  clusters : List ClusterState
  hbmStacks : List StackState
  /-- Tenths of a nanosecond since module reset; the time base is a tenth of it (R222). -/
  now : Nat
  /-- MODULE of LOCN (R10). -/
  moduleNo : Nat
  /-- Power was lost abruptly, and the Felt layers are still to be recovered (R270). -/
  powerLost : Bool
  /-- Boot steps done, 0 to 6 (R321). -/
  boot : Nat
  /-- The image slot that was verified. -/
  bootSlot : Option Nat
  /-- The slot last selected and the next leaf index, in the flash's state area (R322). -/
  slotSel : Kept
  flash : List BootSlot
  rollbackMin : Nat
  leaf : Kept
  lease : Option Lease
  leaseBad : Nat
  waiters : List Waiter
  posts : List Post
  hostMem : Memory
  /-- Fabric ports up (R314). -/
  ports : List Nat
  /-- Host-backed pages that lie in host memory: ASID, page address, host address (R275, R280). -/
  evicted : List (Nat × Nat × Nat)
  /-- A debugger is attached; tags whose `brk` policy is to continue; how often Rolmer has counted each (R227). -/
  attached : Bool
  brkGo : List Nat
  brkCount : List (Nat × Nat)
  /-- Appends made so far: the number of the next write that enters a persist buffer (R181). -/
  appends : Nat
  /-- Block handles assigned so far (R250). -/
  handles : Nat
  /-- Collective copies that peer dies have accepted: peer, template index, count (R196). -/
  peers : List (Nat × Nat × Nat)
  /-- The model's own fields: the moves that come next, the issuing wave, and the counter that indexes free values. -/
  agenda : List Turn
  cur : Option Nat
  steps : Nat
  deriving DecidableEq, Repr

/-- Value 0 as the flash was shipped with it: two valid copies. DESIGN CHOICE, log 7. -/
def Kept.blank : Kept := ⟨(0, 0, 0x8c28b28a), (0, 1, 0x516d1832)⟩

/-- A core right after module reset (R293, R295, R306). DESIGN CHOICE, log 5. -/
def CoreState.fresh : CoreState :=
  { cmps := List.replicate 8 {}, slotClk := List.replicate 128 0, chanClk := List.replicate 8 0,
    traceLost := List.replicate 128 0, traceBytes := List.replicate 128 0, parts := List.replicate 16 {} }

/-- A virtual interface before Chanter writes its descriptor (R311, R145). DESIGN CHOICE, log 5. -/
def ViState.fresh : ViState :=
  { queues := List.replicate 64 ⟨0, false⟩, served := List.replicate 8 0,
    regions := List.replicate 2 (List.replicate 16 0) }

/-- The machine right after module reset: powered, with no boot step done and nothing loaded (R321). -/
def State.reset : State :=
  { waves := [], blocks := [], launches := [], ops := [], accs := [], tiles := [], copies := []
    kernels := [], bundles := [], vis := List.replicate 65 ViState.fresh, procs := [], threads := []
    sysCores := List.replicate Config.systemCores {}
    dies := List.replicate 2 { tags := List.replicate 32 none }
    cores := List.replicate 192 CoreState.fresh
    clusters := List.replicate 12 {}
    hbmStacks := List.replicate 8 {}
    now := 0, moduleNo := 0, powerLost := false, boot := 0, bootSlot := none, slotSel := Kept.blank
    flash := [Config.flashSlot 0, Config.flashSlot 1]
    rollbackMin := Config.fusedRollback, leaf := Kept.blank, lease := none, leaseBad := 0
    waiters := [], posts := [], hostMem := [], ports := List.range 72, evicted := []
    attached := false, brkGo := [], brkCount := []
    appends := 0, handles := 0, peers := [], agenda := [], cur := none, steps := 0 }

end Sys2Proof.Machine
end

