-- ==== Sys2Proof/Machine/Store.lean ====
section
/-!
DEFINITION. Bytes, masks, memory, register contents, and access to the records of the state.
-/

namespace Sys2Proof

/-! ### Register contents (R35) -/

/-- The value of lane `i`. -/
def Reg.lane : Reg → Nat → Word
  | .u x, _ => x
  | .a b s, i => b + BitVec.ofNat 32 i * s
  | .v l, i => l.getD i 0

/-- All 32 lane values. -/
def Reg.lanes (r : Reg) : Lanes := (List.range 32).map r.lane

def Reg.isU : Reg → Bool
  | .u _ => true
  | _ => false

def Reg.isV : Reg → Bool
  | .v _ => true
  | _ => false

/-- The shape code of R35. -/
def Reg.shape : Reg → Nat
  | .u _ => 0
  | .a _ _ => 1
  | .v _ => 2

/-- V with lane i holding `f i`. -/
def Reg.ofFn (f : Nat → Word) : Reg := .v ((List.range 32).map f)

/-- Class numbers (R229) and kind numbers (R231). -/
def TrapClass.code : TrapClass → Nat
  | .ill => 0 | .xlt => 1 | .arith => 2 | .shape => 3 | .queue => 4 | .mem => 5 | .range => 6 | .race => 7
  | .sync => 8 | .copy => 9 | .soft => 10 | .debug => 11

def TrapKind.code : TrapKind → Nat
  | .issue => 0 | .wait => 1 | .access => 2 | .completed => 3

end Sys2Proof

namespace Sys2Proof.Machine

/-! ### Bytes and masks (R2) -/

/-- The number a run of bytes holds, little-endian. -/
def leNat : Bytes → Nat
  | [] => 0
  | b :: bs => b.toNat + 256 * leNat bs

/-- `n` bytes of a number, little-endian. -/
def natLe : Nat → Nat → Bytes
  | 0, _ => []
  | n + 1, x => BitVec.ofNat 8 x :: natLe n (x / 256)

/-- A word from four bytes. -/
def leWord (bs : Bytes) : Word := BitVec.ofNat 32 (leNat bs)

/-- Four bytes of a word. -/
def wordLe (w : Word) : Bytes := natLe 4 w.toNat

/-- Bit `i` of a mask. -/
def bit (m : Word) (i : Nat) : Bool := m.getLsbD i

/-- The mask whose bit i is `f i`. -/
def maskOf (f : Nat → Bool) : Word :=
  BitVec.ofNat 32 ((List.range 32).foldl (fun acc i => if f i then acc + 2 ^ i else acc) 0)

/-- The lanes of a mask, rising. -/
def lanesOf (m : Word) : List Nat := (List.range 32).filter (bit m)

/-- l0: the lowest lane in a mask (R118). -/
def lowest (m : Word) : Nat := (lanesOf m).headD 0

/-- Set bits of a mask. -/
def popcount (m : Word) : Nat := (lanesOf m).length

/-- Serial order of R250 and R265: `a` is at or before `b` modulo 2^n. -/
def serialLe (n a b : Nat) : Bool := (b + 2 ^ n - a % 2 ^ n) % 2 ^ n < 2 ^ (n - 1)

/-- Signed value of an n-bit field. -/
def sext (n x : Nat) : Int := if x % 2 ^ n < 2 ^ (n - 1) then (x % 2 ^ n : Nat) else (x % 2 ^ n : Nat) - (2 ^ n : Nat)

/-- A 32-bit word from an integer, modulo 2^32. -/
def wordOf (i : Int) : Word := BitVec.ofInt 32 i

/-! ### Memory -/

/-- The byte at an address; zero where none is listed. DESIGN CHOICE, log 4. -/
def Memory.read : Memory → Nat → Byte
  | [], _ => 0
  | (k, b) :: m, a => if k = a then b else Memory.read m a

/-- Store one byte, keeping the canonical form. -/
def Memory.write : Memory → Nat → Byte → Memory
  | [], a, b => if b = 0 then [] else [(a, b)]
  | (k, c) :: m, a, b =>
    if a < k then (if b = 0 then (k, c) :: m else (a, b) :: (k, c) :: m)
    else if a = k then (if b = 0 then m else (a, b) :: m)
    else (k, c) :: Memory.write m a b

/-- `n` bytes from an address. -/
def Memory.readN (m : Memory) (a n : Nat) : Bytes := (List.range n).map fun i => m.read (a + i)

/-- Store a run of bytes from an address. -/
def Memory.writeN : Memory → Nat → Bytes → Memory
  | m, _, [] => m
  | m, a, b :: bs => Memory.writeN (m.write a b) (a + 1) bs

/-- Zero the bytes of [lo, hi). -/
def Memory.clear (m : Memory) (lo hi : Nat) : Memory := m.filter fun c => decide (c.1 < lo ∨ hi ≤ c.1)

/-- The canonical form: addresses rising above `lo`, no zero byte. -/
def Memory.wfFrom : Nat → Memory → Bool
  | _, [] => true
  | lo, (k, b) :: m => decide (lo ≤ k) && b != 0 && Memory.wfFrom (k + 1) m

/-- The canonical form of a memory. -/
def Memory.wf (m : Memory) : Bool := Memory.wfFrom 0 m

/-! ### Records of the state -/

/-- The wave that an index beyond the list names: one that has ended. DESIGN CHOICE, log 4. -/
def Wave.blank : Wave :=
  { blk := 0, idx := 0, slice := 0, part := ⟨0, 0, 0⟩, slot := 0, pc := 0, pm := 0, k := [], mode := 0, regs := []
    args := [], sb := [], log := [], full := [], ended := true }

def Block.blank : Block := { launch := 0, lin := 0, st := .discarded }

def Launch.blank : Launch :=
  { vi := 0, number := 0, queue := 0, kernel := 0, proc := 0, thread := 0, asid := 0, gx := 0, gy := 0, gz := 0
    threads := 0, slices := 0, st := .cancelled }

def MemOp.blank : MemOp := { wave := 0, word := 0, pc := 0, guard := 0, mode := 0, race := .off, cls := none }

def Acc.blank : Acc := { op := 0, wave := 0, kind := .load, space := .shared, width := 0, lanes := [], st := .dropped }

def Tile.blank : Tile := { wave := 0, op := 0, part := ⟨0, 0, 0⟩, fn := .zero, d := 0, st := .dropped }

def Copy.blank : Copy :=
  { wave := 0, op := 0, blk := 0, launch := 0, vi := 0, asid := 0, die := 0, core := 0, chan := 0, tix := 0, t := {}
    st := .done, pc := 0, race := .off }

def Kernel.blank : Kernel := { vi := 0, bundle := 0, index := 0, live := false }

namespace State

def wave (s : State) (i : Nat) : Wave := s.waves.getD i Wave.blank
def block (s : State) (i : Nat) : Block := s.blocks.getD i Block.blank
def launch (s : State) (i : Nat) : Launch := s.launches.getD i Launch.blank
def op (s : State) (i : Nat) : MemOp := s.ops.getD i MemOp.blank
def acc (s : State) (i : Nat) : Acc := s.accs.getD i Acc.blank
def tile (s : State) (i : Nat) : Tile := s.tiles.getD i Tile.blank
def copy (s : State) (i : Nat) : Copy := s.copies.getD i Copy.blank
def kernel (s : State) (i : Nat) : Kernel := s.kernels.getD i Kernel.blank
def vi (s : State) (i : Nat) : ViState := s.vis.getD i {}
def die (s : State) (i : Nat) : DieState := s.dies.getD i {}
def core (s : State) (d c : Nat) : CoreState := s.cores.getD (96 * d + c) {}
def cluster (s : State) (i : Nat) : ClusterState := s.clusters.getD i {}

def modWave (s : State) (i : Nat) (f : Wave → Wave) : State := { s with waves := s.waves.modify i f }
def modBlock (s : State) (i : Nat) (f : Block → Block) : State := { s with blocks := s.blocks.modify i f }
def modLaunch (s : State) (i : Nat) (f : Launch → Launch) : State := { s with launches := s.launches.modify i f }
def modOp (s : State) (i : Nat) (f : MemOp → MemOp) : State := { s with ops := s.ops.modify i f }
def modAcc (s : State) (i : Nat) (f : Acc → Acc) : State := { s with accs := s.accs.modify i f }
def modTile (s : State) (i : Nat) (f : Tile → Tile) : State := { s with tiles := s.tiles.modify i f }
def modCopy (s : State) (i : Nat) (f : Copy → Copy) : State := { s with copies := s.copies.modify i f }
def modVi (s : State) (i : Nat) (f : ViState → ViState) : State := { s with vis := s.vis.modify i f }
def modDie (s : State) (i : Nat) (f : DieState → DieState) : State := { s with dies := s.dies.modify i f }
def modCore (s : State) (d c : Nat) (f : CoreState → CoreState) : State :=
  { s with cores := s.cores.modify (96 * d + c) f }
def modCluster (s : State) (i : Nat) (f : ClusterState → ClusterState) : State :=
  { s with clusters := s.clusters.modify i f }

def post (s : State) (p : Post) : State := { s with posts := s.posts ++ [p] }

/-- The time base (R222). -/
def tick (s : State) : Nat := s.now / 10

end State

/-! ### Where things are -/

/-- The cluster of a core, 0 to 11 over both dies (R6). -/
def clusterOf (d c : Nat) : Nat := 6 * d + c / 16

/-- Arithmetic clocks of a cluster since module reset (R30). -/
def State.clk (s : State) (cl : Nat) : Nat := (s.cluster cl).cyc / 100

/-- The pass count that a PASS code encodes (R283). -/
def passCount (code : Nat) : Nat := if code = 0 then 1 else if code = 1 then 2 else 4

def Wave.cluster (w : Wave) : Nat := clusterOf w.part.die w.part.core

def State.waveClk (s : State) (wi : Nat) : Nat := s.clk (s.wave wi).cluster

/-- The pass count in force for an instruction of a wave that issues now: a change of PASS takes effect in the clock after
it (R284). -/
def State.wavePass (s : State) (wi : Nat) : Nat :=
  let cl := (s.wave wi).cluster
  let c := s.cluster cl
  passCount (if s.clk cl ≤ c.passAt then c.passWas else c.pass)

def State.part (s : State) (p : PartRef) : PartState := (s.core p.die p.core).parts.getD p.part {}

def State.modPart (s : State) (p : PartRef) (f : PartState → PartState) : State :=
  s.modCore p.die p.core fun c => { c with parts := c.parts.modify p.part f }

def State.waveBlock (s : State) (wi : Nat) : Block := s.block (s.wave wi).blk
def State.waveLaunch (s : State) (wi : Nat) : Launch := s.launch (s.waveBlock wi).launch
def State.waveKernel (s : State) (wi : Nat) : Kernel := s.kernel (s.waveLaunch wi).kernel

/-- A wave that holds a wave slot of a core (R25, R242). -/
def Wave.resident (w : Wave) : Bool := !w.ended && !w.saved

/-- The resident waves of a partition, by index. -/
def State.residents (s : State) (p : PartRef) : List Nat :=
  (List.range s.waves.length).filter fun i => (s.wave i).resident && (s.wave i).part == p

/-- The state of R23. -/
def Wave.state (w : Wave) : WaveState :=
  if w.ended then .ended
  else if w.saved then .saved
  else if w.halted || w.exited then .halt
  else match w.stop with
    | .run => if w.issued then .issued else if w.trapMode then .trap else .ready
    | .wait .. => .wait
    | .line _ | .waitc .. | .sleep _ | .asleep _ => .park
    | .bar .. | .pckpt => .bar
    | .claim _ => .claim

/-! ### Fields of MODE (R67) -/

def modeGuard (m : BitVec 16) : Nat := bitsOf m.toNat 0 4
def modeType (m : BitVec 16) : Nat := bitsOf m.toNat 4 3
def modeRound (m : BitVec 16) : Nat := bitsOf m.toNat 7 2
def modeSat (m : BitVec 16) : Bool := m.getLsbD 9
def modeFlush (m : BitVec 16) : Bool := m.getLsbD 10
def modeTrap (m : BitVec 16) : Bool := m.getLsbD 11

/-- The guard mask of MODE (R39). -/
def Wave.guard (w : Wave) : Word := w.k.getD (modeGuard w.mode) 0

/-- The lanes in g & PM. -/
def Wave.active (w : Wave) : Word := w.guard &&& w.pm

/-! ### Scratchpad addresses (R140, R144, R312) -/

/-- Insert into a rising list. -/
def insertNat (x : Nat) : List Nat → List Nat
  | [] => [x]
  | y :: ys => if x < y then x :: y :: ys else if x = y then y :: ys else y :: insertNat x ys

/-- The cores an interface owns on a die, rising (R312). -/
def State.owned (s : State) (vi die : Nat) : List Nat :=
  ((s.vi vi).desc.cores.filter fun c => c.die == die).foldl (fun acc c => insertNat c.core acc) []

/-- Bytes of scratchpad that the interface's waves and channels address on a die (R144, R312). -/
def State.scratchSize (s : State) (vi die : Nat) : Nat :=
  (s.owned vi die).length * (Config.sliceBytes - 128 * (s.vi vi).desc.spslot)

/-- The physical scratchpad byte that a generic address names, by an interface on a die. -/
def State.scratchPhys (s : State) (vi die addr : Nat) : Nat :=
  let off := addr - 0x10000000
  (s.owned vi die).getD (off / Config.sliceBytes) 0 * Config.sliceBytes + off % Config.sliceBytes

/-- Physical addresses of `n` bytes from a generic scratchpad address. -/
def State.scratchRead (s : State) (vi die addr n : Nat) : Bytes :=
  (List.range n).map fun i => (s.die die).scratch.read (s.scratchPhys vi die (addr + i))

/-- Bytes stored in the scratchpad outside the ordering machine (R261, R302). -/
def State.scratchPut (s : State) (vi die : Nat) : Nat → Bytes → State
  | _, [] => s
  | addr, b :: bs =>
    State.scratchPut (s.modDie die fun d => { d with scratch := d.scratch.write (s.scratchPhys vi die addr) b })
      vi die (addr + 1) bs

/-! ### CRC-32C and the flash's state area (R265, R322) -/

/-- One bit of CRC-32C, reflected. -/
def crcBit (c : Nat) : Nat := if c % 2 = 1 then (c / 2) ^^^ 0x82F63B78 else c / 2

def crcByte (c : Nat) (b : Byte) : Nat := (List.range 8).foldl (fun c _ => crcBit c) (c ^^^ b.toNat)

/-- CRC-32C of a run of bytes. DEDUCED, log 79. -/
def crc32c (bs : Bytes) : Nat := (bs.foldl crcByte 0xFFFFFFFF) ^^^ 0xFFFFFFFF

/-- The CRC of a copy, over its value and its sequence number as 4-byte numbers. DESIGN CHOICE, log 7. -/
def keptCrc (v seq : Nat) : Nat := crc32c (natLe 4 v ++ natLe 4 seq)

/-- A copy is valid when its CRC matches. -/
def keptValid (x : Nat × Nat × Nat) : Bool := x.2.2 == keptCrc x.1 x.2.1

/-- Copy A is in force: it is valid, and newer than B or B is not (R322). -/
def Kept.takesA (k : Kept) : Bool := keptValid k.a && !(keptValid k.b && k.a.2.1 < k.b.2.1)

/-- The value in force: that of the newer valid copy (R322). -/
def Kept.value (k : Kept) : Nat := if k.takesA then k.a.1 else k.b.1

/-- A new value is written to the copy that is not in force, the one with the older sequence number (R322). -/
def Kept.write (k : Kept) (v : Nat) : Kept :=
  let seq := (if k.takesA then k.a.2.1 else k.b.2.1) + 1
  let new := (v, seq, keptCrc v seq)
  if k.takesA then { k with b := new } else { k with a := new }

/-- A write that a power loss cuts off leaves no valid copy there (R322). -/
def Kept.cutOff (k : Kept) (v : Nat) : Kept :=
  let seq := (if k.takesA then k.a.2.1 else k.b.2.1) + 1
  let new := (v, seq, keptCrc v seq + 1)
  if k.takesA then { k with b := new } else { k with a := new }

end Sys2Proof.Machine
end

