-- ==== Sys2Proof/Machine/Trace.lean ====
section
/-!
DEFINITION. The trace unit: buffers, packets and their order (R302 to R305, R308).
-/

namespace Sys2Proof.Machine

/-- Unsigned LEB128, at most ten bytes (R303). -/
def varint : Nat → Nat → Bytes
  | 0, _ => []
  | fuel + 1, x => if x < 128 then [BitVec.ofNat 8 x] else BitVec.ofNat 8 (128 + x % 128) :: varint fuel (x / 128)

/-- The trace buffer of a wave's slot: its generic address and size (R302). Buffers follow each other in the order of
the interface's cores on the die and of their slots. DEDUCED, log 37. -/
def State.traceBuf (s : State) (wi : Nat) : Option (Nat × Nat) :=
  let w := s.wave wi
  let vi := (s.waveLaunch wi).vi
  let v := s.vi vi
  match v.traceBase with
  | none => none
  | some b =>
    if v.tbsize = 0 then none
    else some (b.toNat + v.tbsize * (128 * (s.owned vi w.part.die).idxOf w.part.core + w.slot), v.tbsize)

/-- Packets lost in the buffer of a wave's slot (R305). DEDUCED, log 38. -/
def State.lostPackets (s : State) (wi : Nat) : Nat :=
  let w := s.wave wi
  (s.core w.part.die w.part.core).traceLost.getD w.slot 0

def State.setLost (s : State) (wi n : Nat) : State :=
  let w := s.wave wi
  s.modCore w.part.die w.part.core fun c => { c with traceLost := c.traceLost.set w.slot n }

/-- Bytes written in the buffer of a wave's slot since the region was given, PAD included (R302). -/
def State.traceWritten (s : State) (wi : Nat) : Nat :=
  let w := s.wave wi
  (s.core w.part.die w.part.core).traceBytes.getD w.slot 0

def State.setTraceWritten (s : State) (wi n : Nat) : State :=
  let w := s.wave wi
  s.modCore w.part.die w.part.core fun c => { c with traceBytes := c.traceBytes.set w.slot n }

/-- Bytes free between WRITE and READ + (TBSIZE - 16) in the buffer of a wave's slot (R305). -/
def State.traceFree (s : State) (wi buf size : Nat) : Nat :=
  let w := s.wave wi
  let rd := leNat (s.scratchRead (s.waveLaunch wi).vi w.part.die (buf + 4) 4)
  size - 16 - (s.traceWritten wi % 2 ^ 32 + 2 ^ 32 - rd) % 2 ^ 32

/-- Write a packet where it fits; otherwise it is dropped and counted (R304, R305). -/
def putPacket (s : State) (wi : Nat) (bs : Bytes) : State :=
  match s.traceBuf wi with
  | none => s
  | some (buf, size) =>
    let die := (s.wave wi).part.die
    let vi := (s.waveLaunch wi).vi
    let ring := size - 16
    let wr := s.traceWritten wi
    let pos := wr % ring
    let pad := if ring < pos + bs.length then ring - pos else 0
    if s.traceFree wi buf size < pad + bs.length then s.setLost wi (s.lostPackets wi + 1)
    else
      let s := s.scratchPut vi die (buf + 16 + pos) (List.replicate pad 0)
      let s := s.scratchPut vi die (buf + 16 + (pos + pad) % ring) bs
      let s := s.scratchPut vi die buf (natLe 4 ((wr + pad + bs.length) % 2 ^ 32))
      (s.setTraceWritten wi (wr + pad + bs.length)).modWave wi fun w =>
        { w with trace := { w.trace with packets := w.trace.packets + 1 } }

/-- The bytes of a SYNC packet (R303). -/
def syncBytes (s : State) (wi : Nat) : Bytes :=
  let w := s.wave wi
  let l := s.waveLaunch wi
  natLe 1 0x10 ++ natLe 1 l.vi ++ natLe 4 l.number ++ natLe 4 (s.waveBlock wi).lin ++ natLe 2 w.idx
    ++ wordLe w.pc ++ natLe 2 w.mode.toNat ++ wordLe w.guard ++ wordLe w.pm ++ natLe 8 s.tick

/-- Write SYNC, set the references, and count anew (R304, R305). DEDUCED, log 38. -/
def putSync (s : State) (wi : Nat) : State :=
  let s := putPacket s wi (syncBytes s wi)
  let clk := s.waveClk wi
  let t := s.tick
  s.modWave wi fun w =>
    { w with trace := { w.trace with
      needSync := false, needTs := false, packets := 0, clkSync := clk, tickLast := t
      refs := (List.replicate 16 0).set (modeGuard w.mode) w.guard } }

/-- Write TS (R303). -/
def putTs (s : State) (wi : Nat) : State :=
  let s := putPacket s wi (natLe 1 0x40 ++ varint 10 (s.tick - (s.wave wi).trace.tickLast))
  let now := s.tick
  s.modWave wi fun w => { w with trace := { w.trace with needTs := false, tickLast := now } }

/-- The SYNC that follows 512 packets (R305). -/
def syncFull (s : State) (wi : Nat) : State := if 512 ≤ (s.wave wi).trace.packets then putSync s wi else s

/-- The TS that a packet needs before it (R304), and the SYNC that the packets before it have made due (R305). -/
def stampFirst (s : State) (wi : Nat) : State :=
  let t := (s.wave wi).trace
  syncFull (if t.needTs || t.tickLast + 64 ≤ s.tick then putTs s wi else s) wi

/-- Write the branch outcomes held, as one BR packet (R303). -/
def putBranches (s : State) (wi : Nat) : State :=
  let held := (s.wave wi).trace.held
  if held.isEmpty then s
  else
    let v := held.foldr (fun b acc => 2 * acc + (if b then 1 else 0)) 1
    (putPacket (stampFirst s wi) wi [BitVec.ofNat 8 (0x20 + v)]).modWave wi fun w =>
      { w with trace := { w.trace with held := [] } }

/-- 45 bytes are free again after a loss (R305). -/
def State.lossDue (s : State) (wi : Nat) : Bool :=
  match s.traceBuf wi with
  | none => false
  | some (buf, size) => s.lostPackets wi != 0 && 45 ≤ s.traceFree wi buf size

/-- Write LOSS with the count, which starts again, and then SYNC (R305). No TS stands between: 45 bytes hold these two.
DEDUCED, log 38. -/
def putLoss (s : State) (wi : Nat) : State :=
  let s := putBranches s wi
  let n := s.lostPackets wi
  putSync (putPacket (s.setLost wi 0) wi (natLe 1 0x60 ++ varint 10 n)) wi

/-- The packets that are due by themselves, before any other packet: LOSS and SYNC after a loss, the first SYNC after a
restore, and SYNC at its interval (R305). -/
def traceDue (s : State) (wi : Nat) : State :=
  let t := (s.wave wi).trace
  if !t.on then s
  else if s.lossDue wi then putLoss s wi
  else if t.needSync || 512 ≤ t.packets then putSync s wi
  else if t.clkSync + 8192 ≤ s.waveClk wi then putSync (putBranches s wi) wi
  else s

/-- The held branch outcomes of a traced wave are written, behind what is due (R304). -/
def flushBr (s : State) (wi : Nat) : State :=
  if (s.wave wi).trace.on then putBranches (traceDue s wi) wi else s

/-- SYNC of a traced wave: at `trc 1`, `trc 2` and the start of trace (R303, R305). -/
def emitSync (s : State) (wi : Nat) : State :=
  let s := putBranches s wi
  if s.lossDue wi then putLoss s wi else putSync s wi

/-- A packet of a traced wave: what is due, the outcomes held and a TS come first (R304). -/
def emit (s : State) (wi : Nat) (bs : Bytes) : State :=
  if (s.wave wi).trace.on then putPacket (stampFirst (flushBr s wi) wi) wi bs else s

/-- A TARGET packet (R304). -/
def emitTarget (s : State) (wi : Nat) (pc : Word) : State := emit s wi (natLe 1 0x50 ++ wordLe pc)

/-- A BR outcome, packed until three are held (R304). -/
def emitBranch (s : State) (wi : Nat) (taken : Bool) : State :=
  if (s.wave wi).trace.on then
    let s := (traceDue s wi).modWave wi fun w => { w with trace := { w.trace with held := w.trace.held ++ [taken] } }
    if (s.wave wi).trace.held.length < 3 then s else flushBr s wi
  else s

/-- A MASK packet when a mask register takes a value that differs from its reference, which may be one that a SYNC
before the packet has set (R304). -/
def emitMask (s : State) (wi : Nat) (k : BitVec 4) (v : Word) : State :=
  let differs (s : State) : Bool := (s.wave wi).trace.on && (s.wave wi).trace.refs.getD k.toNat 0 != v
  if differs s then
    let s := stampFirst (flushBr s wi) wi
    if differs s then
      let r := (s.wave wi).trace.refs.getD k.toNat 0
      (putPacket s wi (BitVec.ofNat 8 (0x30 + k.toNat) :: wordLe (r ^^^ v))).modWave wi fun w =>
        { w with trace := { w.trace with refs := w.trace.refs.set k.toNat v } }
    else s
  else s

/-- Trace of a wave starts (R303). It has no effect with no trace region. -/
def traceStart (s : State) (wi : Nat) : State :=
  match s.traceBuf wi with
  | none => s
  | some _ =>
    if (s.wave wi).trace.on then s
    else emitSync (s.modWave wi fun w => { w with trace := { on := true } }) wi

/-- Trace stops: the outcomes still held are written first (R308). -/
def traceStop (s : State) (wi : Nat) : State :=
  if (s.wave wi).trace.on then
    (flushBr s wi).modWave wi fun w => { w with trace := { w.trace with on := false } }
  else s

/-- A traced wave leaves WAIT, PARK, BAR, CLAIM or HALT: a TS is written (R304). -/
def traceWake (s : State) (wi : Nat) : State :=
  if (s.wave wi).trace.on then putTs (flushBr s wi) wi else s

/-- A MASK result and its MZ and MF (R69): the register, its trace and the codes. -/
def setMaskFlags (s : State) (wi : Nat) (m : Word) : State :=
  s.modWave wi fun w => { w with mz := (m &&& w.pm) = 0, mf := (m &&& w.pm) = w.pm }

/-- Write a mask register (R69, R304). -/
def writeMask (s : State) (wi : Nat) (k : BitVec 4) (m : Word) : State :=
  setMaskFlags ((emitMask s wi k m).modWave wi fun w => { w with k := w.k.set k.toNat m }) wi m

end Sys2Proof.Machine
end

