-- ==== Sys2Proof/Machine/Ops.lean ====
section
/-!
DEFINITION. The named operations over registers, the side buffer, taking a trap and returning from one.
-/

namespace Sys2Proof.Machine

/-! ### Registers and slots (R39 to R43) -/

def Wave.reg (w : Wave) (d : BitVec 7) : Reg := w.regs.getD d.toNat (.u 0)

/-- The wave stops in the instruction that it issues, whose guard and MODE are read now (R68). -/
def Wave.stopAt (w : Wave) (st : Stop) : Wave :=
  { w with stop := st, issued := false, stopGuard := w.guard, stopMode := w.mode }

/-- Registers numbered from `d`, wrapping over 128. -/
def regFrom (d : BitVec 7) (j : Nat) : BitVec 7 := d + BitVec.ofNat 7 j

/-- The live V count of R41: the slots of the list that a register holds, or that a load or tile has taken. -/
def Wave.liveV (w : Wave) : Nat := (w.slots.filter fun x => x.reg.isSome).length

/-- Whether a register already holds a slot. -/
def Wave.hasSlot (w : Wave) (d : BitVec 7) : Bool := w.slots.any fun x => x.reg == some d

/-- Give a register the lowest-numbered free slot of the list. -/
def takeSlot : List Slot → BitVec 7 → List Slot
  | [], _ => []
  | x :: xs, d => if x.reg.isNone then { x with reg := some d } :: xs else x :: takeSlot xs d

/-- Return a register's slot to the list. -/
def freeSlot (l : List Slot) (d : BitVec 7) : List Slot :=
  l.map fun x => if x.reg == some d then { x with reg := none } else x

/-- Put contents into a register, with the slot its shape needs (R41). -/
def Wave.put (w : Wave) (d : BitVec 7) (r : Reg) : Wave :=
  { w with
    regs := w.regs.set d.toNat r
    slots := if r.isV then (if w.hasSlot d then w.slots else takeSlot w.slots d) else freeSlot w.slots d
    badRegs := w.badRegs.filter fun x => x.1 != d }

/-- What a guarded write makes of a register (R39, R40): `act` is g & PM. -/
def guardedWrite (pm act : Word) (old new : Reg) : Reg :=
  if act = pm then new
  else if act = 0 then old
  else match old, new with
    | .u x, .u y => if x = y then .u x else Reg.ofFn fun i => if bit act i then y else x
    | o, n => Reg.ofFn fun i => if bit act i then n.lane i else o.lane i

/-- How many of these registers a write of these contents would widen (R41). -/
def Wave.widens (w : Wave) (ws : List (BitVec 7 × Reg)) : Nat :=
  (ws.filter fun x => x.2.isV && !w.hasSlot x.1).length

/-! ### The side buffer and traps (R229 to R236) -/

/-- Everything a side-buffer entry records (R232). -/
structure TrapInfo where
  cls : TrapClass
  code : Nat
  kind : TrapKind := .issue
  tpc : Word
  rpc : Word
  lanes : Word := 0
  iword : Word := 0
  logix : Nat := 0x3F
  guard : Word := 0
  mode : BitVec 16 := 0
  space : Nat := 0
  detail : List Nat := []
  laneDetail : List (Nat × Nat) := []
  what : TrapWhat := .none
  deriving DecidableEq, Repr

/-- The trap is a failed check of R75: nothing has issued. -/
def TrapInfo.failsCheck (t : TrapInfo) : Bool :=
  t.kind == .issue && (t.cls == .ill || t.cls == .xlt || t.cls == .queue || (t.cls == .shape && t.code == 1))

/-- HDR of a trap (R231). -/
def TrapInfo.hdr (t : TrapInfo) : Nat := 2 ^ 31 + t.kind.code * 2 ^ 28 + (t.code % 256) * 2 ^ 8 + t.cls.code

/-- The 64 words of the entry (R232). -/
def TrapInfo.words (t : TrapInfo) (gen : Nat) : List Word :=
  [BitVec.ofNat 32 t.hdr, t.tpc, t.rpc, t.lanes, t.iword, BitVec.ofNat 32 t.logix, t.guard,
    BitVec.ofNat 32 t.mode.toNat, BitVec.ofNat 32 t.space, BitVec.ofNat 32 gen]
  ++ (List.range 6).map (fun i => BitVec.ofNat 32 (t.detail.getD i 0))
  ++ (List.range 32).map (fun i => BitVec.ofNat 32 ((t.laneDetail.lookup i).getD 0))
  ++ List.replicate 16 0

/-- Bits of HDR that a second trap or the end of trap mode changes. -/
def setMore (sb : List Word) (m : Bool) : List Word :=
  sb.modify 0 fun h => if m then h ||| 0x40000000 else h &&& 0xBFFFFFFF

def clearValid (sb : List Word) : List Word := sb.modify 0 fun h => h &&& 0x7FFFFFFF

/-- HBASE of a wave's kernel, when it has a handler (R80, R233). -/
def State.handler (s : State) (wi : Nat) : Option Nat :=
  let h := (s.waveKernel wi).hbase
  if h = 0xFFFFFFFF then none else some h

/-- A claim that a trap takes out of its queue (R234). -/
def dropClaims (s : State) (wi : Nat) : State :=
  s.modPart (s.wave wi).part fun p => { p with claims := p.claims.filter fun c => c.1 != wi }

/-- The wait a trap interrupts, to be taken up again at its PC (R234): a claim is queued afresh, and a counter or
queue wait is tested afresh. -/
def suspendedOf (clk : Nat) (w : Wave) : Option (Word × Stop) :=
  match w.stop with
  | .sleep u => some (w.pc, .asleep (u - clk))
  | .asleep n => some (w.pc, .asleep n)
  | .bar nb aw => some (w.pc, .bar nb aw)
  | .pckpt => some (w.pc, .pckpt)
  | _ => w.suspended

/-- A traced wave leaves what it is stopped on (R304). -/
def leaveStop (s : State) (wi : Nat) : State := if (s.wave wi).stop = .run then s else traceWake s wi

/-- The wave leaves what it is stopped on, to take it up again later (R234). -/
def suspend (s : State) (wi : Nat) : State :=
  let clk := s.waveClk wi
  let s := leaveStop s wi
  let s := match (s.wave wi).stop with
    | .waitc a _ => s.modAcc a fun a => { a with st := .dropped }
    | _ => s
  (dropClaims s wi).modWave wi fun w => { w with stop := .run, issued := false, suspended := suspendedOf clk w }

/-- Enter the handler of the trap that the side buffer holds (R218). A blank operation marks where the handler's own
operations begin. -/
def enterHandler (s : State) (wi : Nat) (base cls : Nat) : State :=
  let n := s.ops.length
  let pc : Word := BitVec.ofNat 32 (base + cls * 0x40)
  let s := (emitTarget (suspend s wi) wi pc).modWave wi fun w =>
    { w with trapMode := true, pc := pc, trapOp := n, holdsOut := w.holds, holds := [], trapDue := false }
  { s with ops := s.ops ++ [MemOp.blank] }

/-- A trap halts its wave and is posted to Chanter (R24, R233). -/
def trapHalts (s : State) (wi : Nat) (cls : TrapClass) (code : Nat) : State :=
  ((suspend s wi).modWave wi fun w => { w with halted := true, trapHalt := true, trapDue := false }).post
    (.waveTrap wi cls.code code)

/-- The wave enters its handler, or halts when its kernel has none or it has exited (R24, R25, R233). -/
def enterTrap (s : State) (wi : Nat) (cls : TrapClass) (code : Nat) : State :=
  match s.handler wi with
  | some h => if (s.wave wi).exited then trapHalts s wi cls code else enterHandler s wi h cls.code
  | none => trapHalts s wi cls code

/-- TAKING A TRAP: the side-buffer entry is written, and the wave enters its handler; with no handler it halts; in
trap mode it halts and the entry keeps the first trap; in HALT it enters its handler when it is resumed, and on a gated
core at restore (R24, R25, R218, R233, R234, R269). -/
def takeTrap (s : State) (wi : Nat) (t : TrapInfo) : State :=
  let s := s.modWave wi fun w => { w with unissued := t.failsCheck }
  let w := s.wave wi
  if w.trapMode then
    let s := s.modWave wi fun w =>
      { w with sb := if t.kind = .access then setMore w.sb true else w.sb
               heldAcc := if t.what = .none then w.heldAcc else w.heldAcc ++ [t.what] }
    ((dropClaims (leaveStop s wi) wi).modWave wi fun w => { w with halted := true, trapHalt := true, issued := false, stop := .run }).post
      (.waveTrap wi t.cls.code t.code)
  else
    let gen := (s.waveBlock wi).gen
    let s := s.modWave wi fun w => { w with sb := t.words gen, what := t.what }
    if w.halted then
      (s.modWave wi fun w => { w with trapDue := true }).post (.waveTrap wi t.cls.code t.code)
    else if (s.core w.part.die w.part.core).gate == .gated then s.modWave wi fun w => { w with trapDue := true }
    else enterTrap s wi t.cls t.code

/-- Trap mode ends: VALID clears and the holds of before bind again (R218, R231). A wait that was interrupted is
taken up again only where it stood (R234). -/
def leaveTrap (s : State) (wi : Nat) (pc : Word) : State :=
  (emitTarget s wi pc).modWave wi fun w =>
    { w with trapMode := false, trapHalt := false, pc := pc, sb := clearValid w.sb, what := .none, stop := .run
             issued := false, holds := w.holdsOut ++ w.holds, holdsOut := []
             suspended := if w.suspended.any fun x => x.1 == pc then w.suspended else none }

/-- The outcome of an instruction of the issuing wave. -/
def onWave (s : State) (f : Nat → Host.Outcome State Fault Refusal) : Host.Outcome State Fault Refusal :=
  match s.cur with
  | some wi => f wi
  | none => .fault .noIssuingWave

end Sys2Proof.Machine
end

