-- ==== Sys2Proof/Machine/Float.lean ====
section
/-!
DEFINITION. Number formats, rounding, exact sums, special functions and conversions (R47 to R62).
A finite value is a sign, a natural number m and an exponent e: (-1)^neg * m * 2^e, exactly.
-/

namespace Sys2Proof.Machine

/-- A floating-point value. A signalling NaN, and a NaN made by an invalid operation, is `nan true`. -/
inductive FVal where
  | nan (invalid : Bool)
  | inf (neg : Bool)
  | fin (neg : Bool) (m : Nat) (e : Int)
  deriving DecidableEq, Repr

/-- FSTAT bits (R51). -/
def fNX : Nat := 1
def fUF : Nat := 2
def fOF : Nat := 4
def fDZ : Nat := 8
def fNV : Nat := 16
def fSAT : Nat := 32
def fT3R : Nat := 64

/-- Exponent width, fraction width and bias of a format (R47). -/
def fmtE : FFmt → Nat
  | .f64 => 11 | .f32 => 8 | .f16 => 5 | .bf16 => 8 | .e5m2 => 5 | .e4m3 => 4 | .e2m1 => 2
def fmtF : FFmt → Nat
  | .f64 => 52 | .f32 => 23 | .f16 => 10 | .bf16 => 7 | .e5m2 => 2 | .e4m3 => 3 | .e2m1 => 1
def fmtBias : FFmt → Nat
  | .f64 => 1023 | .f32 => 127 | .f16 => 15 | .bf16 => 127 | .e5m2 => 15 | .e4m3 => 7 | .e2m1 => 1

/-- Formats that FLUSH applies to (R56). -/
def fmtFlushes : FFmt → Bool
  | .f64 | .f32 | .f16 | .bf16 => true
  | _ => false

/-- The canonical NaN (R57; R54 for the narrow formats). -/
def fmtNaN : FFmt → Nat
  | .f64 => 0x7FF8000000000000 | .f32 => 0x7FC00000 | .f16 => 0x7E00 | .bf16 => 0x7FC0
  | .e5m2 => 0x7E | .e4m3 => 0x7F | .e2m1 => 0

/-- The largest finite code, without its sign (R47). -/
def fmtMax : FFmt → Nat
  | .f64 => 0x7FEFFFFFFFFFFFFF | .f32 => 0x7F7FFFFF | .f16 => 0x7BFF | .bf16 => 0x7F7F
  | .e5m2 => 0x7B | .e4m3 => 0x7E | .e2m1 => 7

/-- The exponent of the smallest subnormal: 1 - bias - f. -/
def fmtQmin (f : FFmt) : Int := 1 - (fmtBias f : Int) - (fmtF f : Int)

def signBit (f : FFmt) (neg : Bool) : Nat := if neg then 2 ^ (fmtE f + fmtF f) else 0

/-- The value of a code (R47, R48), with subnormals read as zeros under FLUSH (R56). -/
def fval (f : FFmt) (flush : Bool) (x : Nat) : FVal :=
  let neg := bitsOf x (fmtE f + fmtF f) 1 = 1
  let e := bitsOf x (fmtF f) (fmtE f)
  let m := bitsOf x 0 (fmtF f)
  let finite : FVal :=
    if e = 0 then (if flush && fmtFlushes f then .fin neg 0 0 else .fin neg m (fmtQmin f))
    else .fin neg (2 ^ fmtF f + m) (fmtQmin f + (e - 1 : Nat))
  if e = 2 ^ fmtE f - 1 then
    match f with
    | .e2m1 => finite
    | .e4m3 => if m = 7 then .nan false else finite
    | _ => if m = 0 then .inf neg else .nan (m < 2 ^ (fmtF f - 1))
  else finite

/-- A product of two values (R59): a zero times an infinity is invalid. -/
def FVal.mul : FVal → FVal → FVal
  | .nan a, .nan b => .nan (a || b)
  | .nan a, _ => .nan a
  | _, .nan b => .nan b
  | .inf s, .inf t => .inf (s != t)
  | .inf s, .fin t m _ => if m = 0 then .nan true else .inf (s != t)
  | .fin s m _, .inf t => if m = 0 then .nan true else .inf (s != t)
  | .fin s m e, .fin t n k => .fin (s != t) (m * n) (e + k)

/-- The value with its sign inverted. -/
def FVal.neg : FVal → FVal
  | .nan a => .nan a
  | .inf s => .inf (!s)
  | .fin s m e => .fin (!s) m e

/-- Scaled by 2^k. -/
def FVal.scale (k : Int) : FVal → FVal
  | .fin s m e => .fin s m (e + k)
  | v => v

def FVal.isNaN : FVal → Bool
  | .nan _ => true
  | _ => false

/-- Whether rounding goes up in magnitude (R53): mode, sign, oddness, remainder against half (0 below, 1 tie,
2 above), and exactness. -/
def roundUp (rm : Nat) (neg odd : Bool) (half : Nat) (exact : Bool) : Bool :=
  if exact then false
  else match rm with
    | 0 => half = 2 || (half = 1 && odd)
    | 1 => false
    | 2 => neg
    | _ => !neg

/-- `m * 2^e`, with something more below when `sticky`, rounded to a multiple of 2^q: the multiple and exactness. -/
def roundAt (rm : Nat) (neg : Bool) (m : Nat) (e q : Int) (sticky : Bool) : Nat × Bool :=
  if q ≤ e then (m * 2 ^ (e - q).toNat, !sticky)
  else
    let sh := (q - e).toNat
    if Nat.log2 m + 3 < sh then
      let exact := m = 0 && !sticky
      ((if roundUp rm neg false 0 exact then 1 else 0), exact)
    else
      let hi := m / 2 ^ sh
      let lo := m % 2 ^ sh
      let h := 2 ^ (sh - 1)
      let half := if lo < h then 0 else if lo = h && !sticky then 1 else 2
      let exact := lo = 0 && !sticky
      ((if roundUp rm neg (hi % 2 = 1) half exact then hi + 1 else hi), exact)

/-- What overflow delivers (R54): code and flags. -/
def overflow (f : FFmt) (rm : Nat) (neg sat : Bool) : Nat × Nat :=
  let s := signBit f neg
  match f with
  | .e2m1 => (s + 7, fSAT + fNX)
  | .e4m3 => if sat then (s + 0x7E, fSAT + fNX) else (s + 0x7F, fOF)
  | _ =>
    if sat then (s + fmtMax f, fSAT + fNX)
    else
      let toInf := match rm with
        | 0 => true
        | 1 => false
        | 2 => neg
        | _ => !neg
      (s + (if toInf then fmtMax f + 1 else fmtMax f), fOF + fNX)

/-- A nonzero magnitude rounded into a format (R53, R54, R56): code and flags. What FLUSH writes as zero is a result that is
subnormal as delivered. DEDUCED, log 90. -/
def roundFmt (f : FFmt) (rm : Nat) (flush sat neg : Bool) (m : Nat) (e : Int) (sticky : Bool) : Nat × Nat :=
  let top : Int := e + Nat.log2 m
  let qu := top - (fmtF f : Int)
  let q := if qu < fmtQmin f then fmtQmin f else qu
  let un := roundAt rm neg m e qu sticky
  let tiny : Bool := qu < fmtQmin f && !(qu = fmtQmin f - 1 && un.1 = 2 ^ (fmtF f + 1))
  let r := roundAt rm neg m e q sticky
  let code := if q = fmtQmin f then r.1 else (q - fmtQmin f).toNat * 2 ^ fmtF f + r.1
  if fmtMax f < code then overflow f rm neg sat
  else if flush && fmtFlushes f && code < 2 ^ fmtF f then (signBit f neg, fUF + fNX)
  else (signBit f neg + code, (if r.2 then 0 else fNX) + (if tiny && !r.2 then fUF else 0))

/-- A value converted into a format; `widen` formats never saturate (R54, R57). -/
def FVal.toFmt (v : FVal) (f : FFmt) (rm : Nat) (flush sat : Bool) : Nat × Nat :=
  match v with
  | .nan i => (fmtNaN f, if i || f = .e2m1 then fNV else 0)
  | .inf s =>
    match f with
    | .e2m1 | .e4m3 => overflow f rm s sat
    | _ => (signBit f s + fmtMax f + 1, 0)
  | .fin s m e => if m = 0 then (signBit f s, 0) else roundFmt f rm flush sat s m e false

/-- The sign of a sum of zeros, or of values that cancel (R57). -/
def zeroSign (rm : Nat) (terms : List FVal) : Bool :=
  let neg := terms.all fun t => match t with | .fin s m _ => s && m = 0 | _ => false
  let pos := terms.all fun t => match t with | .fin s m _ => !s && m = 0 | _ => false
  if neg then true else if pos then false else rm = 2

/-- The lowest exponent among finite nonzero terms. -/
def minExp (terms : List FVal) : Option Int :=
  terms.foldl (fun acc t => match t with
    | .fin _ m e => if m = 0 then acc else match acc with
      | none => some e
      | some x => some (if e < x then e else x)
    | _ => acc) none

/-- The exact sum of finite terms as a multiple of 2^q, q at or below every exponent. -/
def exactSum (q : Int) (terms : List FVal) : Int :=
  terms.foldl (fun acc t => match t with
    | .fin s m e => if m = 0 then acc else
      let x : Int := (m * 2 ^ (e - q).toNat : Nat)
      if s then acc - x else acc + x
    | _ => acc) 0

/-- One exact sum, rounded once (R58, R59): code and flags. DEDUCED, log 82. -/
def sumRound (f : FFmt) (rm : Nat) (flush : Bool) (terms : List FVal) : Nat × Nat :=
  let anyNaN := terms.any FVal.isNaN
  let invalid := terms.any fun t => t == .nan true
  let pinf := terms.any fun t => t == .inf false
  let ninf := terms.any fun t => t == .inf true
  let nv := if invalid || (pinf && ninf) then fNV else 0
  if anyNaN || (pinf && ninf) then (fmtNaN f, nv)
  else if pinf then (fmtMax f + 1, 0)
  else if ninf then (signBit f true + fmtMax f + 1, 0)
  else match minExp terms with
    | none => (signBit f (zeroSign rm terms), 0)
    | some q =>
      let x := exactSum q terms
      if x = 0 then (signBit f (zeroSign rm terms), 0)
      else roundFmt f rm flush false (x < 0) x.natAbs q false

/-- Exponent of the lowest set bit of m, by at most `fuel` halvings. -/
def lowBit : Nat → Nat → Nat
  | 0, _ => 0
  | fuel + 1, m => if m % 2 = 1 then 0 else lowBit fuel (m / 2) + 1

/-- The spread of R60 over the nonzero finite terms; zero when there is none. DEDUCED, log 90. -/
def spread (terms : List FVal) : Nat :=
  let hi := terms.foldl (fun (acc : Option Int) t => match t with
    | .fin _ m e => if m = 0 then acc else
      let h := e + Nat.log2 m
      match acc with
      | none => some h
      | some x => some (if x < h then h else x)
    | _ => acc) none
  let lo := terms.foldl (fun (acc : Option Int) t => match t with
    | .fin _ m e => if m = 0 then acc else
      let l := e + lowBit (Nat.log2 m) m
      match acc with
      | none => some l
      | some x => some (if l < x then l else x)
    | _ => acc) none
  match hi, lo with
  | some h, some l => (h - l + 1).toNat
  | _, _ => 0

/-- Whether a sum needs a slow pass (R60). -/
def slowSum (terms : List FVal) : Bool := 128 < spread terms

/-! ### Comparison, minimum and maximum (R57, R90) -/

/-- The value as a multiple of 2^q. -/
def FVal.at (q : Int) : FVal → Int
  | .fin s m e => let x : Int := (m * 2 ^ (e - q).toNat : Nat); if s then -x else x
  | _ => 0

/-- The order of two values; none when unordered. Zeros are equal. -/
def FVal.cmp (a b : FVal) : Option Ordering :=
  match a, b with
  | .nan _, _ => none
  | _, .nan _ => none
  | .inf s, .inf t => some (if s = t then .eq else if s then .lt else .gt)
  | .inf s, .fin .. => some (if s then .lt else .gt)
  | .fin .., .inf t => some (if t then .gt else .lt)
  | .fin s m e, .fin t n k =>
    let q := if e < k then e else k
    some (compare (FVal.at q (.fin s m e)) (FVal.at q (.fin t n k)))

/-- Whether `a` stands before `b` for `min` and `max`, where -0 is less than +0. -/
def FVal.before (a b : FVal) : Bool :=
  match a.cmp b with
  | some .lt => true
  | some .eq => match a, b with
    | .fin s _ _, .fin t _ _ => s && !t
    | _, _ => false
  | _ => false

/-- `min` or `max` of two codes (R57). -/
def minmax (f : FFmt) (mx flush : Bool) (x y : Nat) : Nat × Nat :=
  let a := fval f flush x
  let b := fval f flush y
  let nv := if a == .nan true || b == .nan true then fNV else 0
  let code (v : FVal) : Nat := (v.toFmt f 0 flush false).1
  match a, b with
  | .nan _, .nan _ => (fmtNaN f, nv)
  | .nan _, _ => (code b, nv)
  | _, .nan _ => (code a, nv)
  | _, _ => (if (if mx then b.before a else a.before b) then code a else code b, nv)

/-! ### Conversion to integers (R55) -/

/-- A value rounded to an integer: the integer and exactness. -/
def roundInt (rm : Nat) (s : Bool) (m : Nat) (e : Int) : Int × Bool :=
  let r := roundAt rm s m e 0 false
  (if s then -(r.1 : Int) else r.1, r.2)

/-- Clamp an integer to a range; whether it moved. -/
def clamp (lo hi x : Int) : Int × Bool := if x < lo then (lo, true) else if hi < x then (hi, true) else (x, false)

/-- A value converted to a 32-bit integer (R55, R57). -/
def FVal.toInt (v : FVal) (signed : Bool) (rm : Nat) (sat : Bool) : Word × Nat :=
  let lo : Int := if signed then -2147483648 else 0
  let hi : Int := if signed then 2147483647 else 4294967295
  let bad : Word := if signed then 0x80000000 else 0xFFFFFFFF
  match v with
  | .nan sig => if sat then (0, fSAT + if sig then fNV else 0) else (bad, fNV)
  | .inf s => if sat then (wordOf (if s then lo else hi), fSAT + fNX) else (bad, fNV)
  | .fin s m e =>
    let r := roundInt rm s m e
    let c := clamp lo hi r.1
    if c.2 then (if sat then (wordOf c.1, fSAT + fNX) else (bad, fNV))
    else (wordOf r.1, if r.2 then 0 else fNX)

/-- An integer as a value. -/
def FVal.ofInt (x : Int) : FVal := .fin (x < 0) x.natAbs 0

/-! ### Special functions (R62, R130) -/

/-- The integer square root of `n`, by `i` binary digits from the top. -/
def isqrtFrom : Nat → Nat → Nat → Nat
  | 0, _, r => r
  | i + 1, n, r => if (r + 2 ^ i) * (r + 2 ^ i) ≤ n then isqrtFrom i n (r + 2 ^ i) else isqrtFrom i n r

def isqrt (n : Nat) : Nat := isqrtFrom (Nat.log2 n / 2 + 1) n 0

/-- 1/x for a finite nonzero x, correctly rounded. -/
def rcpFin (f : FFmt) (rm : Nat) (flush s : Bool) (m : Nat) (e : Int) : Nat × Nat :=
  let k := 2 * Nat.log2 m + fmtF f + 8
  roundFmt f rm flush false s (2 ^ k / m) (-e - k) (2 ^ k % m != 0)

/-- The square root of a positive x, correctly rounded. -/
def sqrtFin (f : FFmt) (rm : Nat) (flush : Bool) (m : Nat) (e : Int) : Nat × Nat :=
  let j : Nat := 2 * (fmtF f + 4) + (if e % 2 = 0 then 0 else 1)
  let n := m * 2 ^ j
  let r := isqrt n
  roundFmt f rm flush false false r ((e - j) / 2) (r * r != n)

/-- 1 over the square root of a positive x, correctly rounded. -/
def rsqFin (f : FFmt) (rm : Nat) (flush : Bool) (m : Nat) (e : Int) : Nat × Nat :=
  let o : Nat := if e % 2 = 0 then 0 else 1
  let n := m * 2 ^ o
  let k := Nat.log2 n + fmtF f + 8
  let r := isqrt (2 ^ (2 * k) / n)
  roundFmt f rm flush false false r (-((e - o) / 2) - k) (r * r * n != 2 ^ (2 * k))

/-- Fraction bits of the fixed-point evaluation of the faithful functions. -/
def fx : Nat := 256
/-- π and ln 2 in fixed point (the mathematical constants, rounded down). -/
def fxPi : Nat := 363771576891766324280234942777729862653393377328392429958772151117938894466185
def fxLn2 : Nat := 80260960185991308862233904206310070533990667611589946606122867505419956976171

/-- Sum of x^k / k! from the term `t` at `k`, `fuel` terms: e^x in fixed point when started at one. -/
def expSeries : Nat → Nat → Nat → Nat → Nat
  | 0, _, _, _ => 0
  | fuel + 1, x, k, t => t + expSeries fuel x (k + 1) (t * x / 2 ^ fx / (k + 1))

/-- sin or cos of y: alternating series from the term `t` at `k`, in signed fixed point. -/
def trigSeries : Nat → Nat → Nat → Nat → Int
  | 0, _, _, _ => 0
  | fuel + 1, y2, k, t => (t : Int) - trigSeries fuel y2 (k + 2) (t * y2 / 2 ^ fx / ((k + 1) * (k + 2)))

/-- sin(π t / 2^fx) for t in [0, 2^fx / 2], in fixed point. -/
def sinFx (t : Nat) : Nat :=
  let y := t * fxPi / 2 ^ fx
  (trigSeries 40 (y * y / 2 ^ fx) 1 y).toNat

/-- Binary digits of log2 of y in [1, 2), fixed point, `n` of them. -/
def log2Digits : Nat → Nat → Nat → Nat
  | 0, _, r => r
  | n + 1, y, r =>
    let y2 := y * y / 2 ^ fx
    if 2 * 2 ^ fx ≤ y2 then log2Digits n (y2 / 2) (2 * r + 1) else log2Digits n y2 (2 * r)

/-- The neighbour that a faithful function delivers (R62), from a magnitude below the value by less than one unit of
its last place. -/
def faithful (fn : SfuFn) (f : FFmt) (flush : Bool) (x : Nat) (neg : Bool) (m : Nat) (e : Int) : Nat × Nat :=
  roundFmt f (if Config.sfuUpper fn f x then 3 else 2) flush false neg m e true

/-- 2^x for a finite x: exact where x is an integer and 2^x representable, else faithful (R62, R130). -/
def ex2Fin (f : FFmt) (rm : Nat) (flush : Bool) (x : Nat) (s : Bool) (m : Nat) (e : Int) : Nat × Nat :=
  if (0 : Int) ≤ e || m % 2 ^ (-e).toNat = 0 then
    let i : Int := if e < 0 then ((m / 2 ^ (-e).toNat : Nat) : Int) else if 40 < e then ((2 ^ 40 : Nat) : Int) else ((m * 2 ^ e.toNat : Nat) : Int)
    let i := if s then -i else i
    if i < 2 - (2 ^ (fmtE f - 1) : Nat) - fmtF f then faithful .ex2 f flush x false 1 i
    else roundFmt f rm flush false false 1 i false
  else
    let t : Int := if -e ≤ (fx : Int) then (m * 2 ^ ((fx : Int) + e).toNat : Nat) else 0
    let t := if s then -t else t
    let n := t / 2 ^ fx
    let r := (t % 2 ^ fx).toNat
    let y := expSeries 60 (r * fxLn2 / 2 ^ fx) 0 (2 ^ fx)
    if ((2 ^ (fmtE f - 1) : Nat) : Int) ≤ n then overflow f rm false false
    else faithful .ex2 f flush x false y (n - fx)

/-- log2 of a positive finite x (R62). -/
def lg2Fin (f : FFmt) (rm : Nat) (flush : Bool) (x m : Nat) (e : Int) : Nat × Nat :=
  let l := Nat.log2 m
  let i : Int := e + l
  if m = 2 ^ l then (FVal.ofInt i).toFmt f rm flush false
  else
    let d := log2Digits 200 (m * 2 ^ (fx - l)) 0
    let v : Int := i * 2 ^ 200 + d
    if v < 0 then faithful .lg2 f flush x true (v.natAbs - 1) (-200)
    else faithful .lg2 f flush x false v.toNat (-200)

/-- sin πx of a finite x, with `half` for cos πx = sin π(x + 1/2) (R62). -/
def sinpiFin (fn : SfuFn) (f : FFmt) (flush : Bool) (x : Nat) (s : Bool) (m : Nat) (e : Int) (half : Bool) : Nat × Nat :=
  if (1 : Int) ≤ e then
    -- an even integer
    if half then (FVal.toFmt (.fin false 1 0) f 0 flush false) else (signBit f s, 0)
  else
    let d := (-e).toNat
    let d := if d = 0 then 1 else d
    let mm := if e = 0 then 2 * m else m
    -- x = mm / 2^d; reduce mod 2
    let a : Int := if s then -(mm : Int) else mm
    let a := if half then a + 2 ^ (d - 1) else a
    let u := (a % (2 * 2 ^ d)).toNat
    if u % 2 ^ (d - 1) = 0 then
      -- multiples of one half
      let q := u / 2 ^ (d - 1)
      if q = 1 then FVal.toFmt (.fin false 1 0) f 0 flush false
      else if q = 3 then FVal.toFmt (.fin true 1 0) f 0 flush false
      else (signBit f (!half && s), 0)
    else
      let neg := 2 ^ d < u
      let u := if neg then u - 2 ^ d else u
      let u := if 2 ^ (d - 1) < u then 2 ^ d - u else u
      let t := if d ≤ fx then u * 2 ^ (fx - d) else u / 2 ^ (d - fx)
      let v := sinFx t
      let v := if v < 2 ^ fx then v else 2 ^ fx - 1
      faithful fn f flush x neg v (-fx)

/-- tanh of a finite nonzero x (R62). -/
def tanhFin (f : FFmt) (flush : Bool) (x : Nat) (s : Bool) (m : Nat) (e : Int) : Nat × Nat :=
  let top := e + Nat.log2 m
  if top < -60 then faithful .tanh f flush x s (m * 2 ^ 64 - 1) (e - 64)
  else if 7 < top then faithful .tanh f flush x s (2 ^ fx - 1) (-fx)
  else
    let t := (if -(fx : Int) ≤ e then m * 2 ^ ((fx : Int) + e).toNat else 0) * 2
    let n := t / fxLn2
    let r := t % fxLn2
    let y := expSeries 60 r 0 (2 ^ fx) * 2 ^ n
    faithful .tanh f flush x s ((y - 2 ^ fx) * 2 ^ fx / (y + 2 ^ fx)) (-fx)

/-- A special function of one element (R62, R130): code and flags. -/
def sfu (fn : SfuFn) (f : FFmt) (rm : Nat) (flush : Bool) (x : Nat) : Nat × Nat :=
  let inf (s : Bool) : Nat := signBit f s + fmtMax f + 1
  let one (s : Bool) : Nat := (FVal.toFmt (.fin s 1 0) f 0 flush false).1
  match fval f flush x with
  | .nan i => (fmtNaN f, if i then fNV else 0)
  | .inf s => match fn with
    | .rcp => (signBit f s, 0)
    | .rsq => if s then (fmtNaN f, fNV) else (0, 0)
    | .sqrt | .lg2 => if s then (fmtNaN f, fNV) else (inf false, 0)
    | .ex2 => if s then (0, 0) else (inf false, 0)
    | .sinpi | .cospi => (fmtNaN f, fNV)
    | .tanh => (one s, 0)
  | .fin s m e =>
    if m = 0 then match fn with
      | .rcp | .rsq => (inf s, fDZ)
      | .sqrt | .sinpi | .tanh => (signBit f s, 0)
      | .ex2 | .cospi => (one false, 0)
      | .lg2 => (inf true, fDZ)
    else match fn with
      | .rcp => rcpFin f rm flush s m e
      | .rsq => if s then (fmtNaN f, fNV) else rsqFin f rm flush m e
      | .sqrt => if s then (fmtNaN f, fNV) else sqrtFin f rm flush m e
      | .ex2 => ex2Fin f rm flush x s m e
      | .lg2 => if s then (fmtNaN f, fNV) else lg2Fin f rm flush x m e
      | .sinpi => sinpiFin .sinpi f flush x s m e false
      | .cospi => sinpiFin .cospi f flush x s m e true
      | .tanh => tanhFin f flush x s m e

end Sys2Proof.Machine
end

