-- ==== Sys2Proof/Machine/Race.lean ====
section
/-!
DEFINITION. Race detection: knowledge, sync records, the watermark check and its outcomes (R247 to R263).
-/

namespace Sys2Proof.Machine

/-! ### Knowledge (R250 to R252) -/

/-- `a` at or before `b` in the serial order of 22-bit clocks (R250). -/
def clkLe (a b : Nat) : Bool := serialLe 22 a b

def clkMax (a b : Nat) : Nat := if clkLe a b then b else a

/-- The clock a table holds for a party, and the generation it holds for a block. -/
def knowClock : List Know → Nat → Option Nat
  | [], _ => none
  | Know.party r c :: ks, q => if r = q then some c else knowClock ks q
  | _ :: ks, q => knowClock ks q

def knowGen : List Know → Nat → Option Nat
  | [], _ => none
  | Know.block h g :: ks, q => if h = q then some g else knowGen ks q
  | _ :: ks, q => knowGen ks q

/-- Whether two entries are about the same party or block. -/
def Know.same : Know → Know → Bool
  | .party r _, .party q _ => r == q
  | .block h _, .block i _ => h == i
  | _, _ => false

def Know.val : Know → Nat
  | .party _ c => c
  | .block _ g => g

/-- The later of two entries about the same party or block. -/
def Know.later (a b : Know) : Know := if clkLe a.val b.val then b else a

/-- Raise the entry of the same party or block, where there is one. -/
def knowRaise : List Know → Know → Option (List Know)
  | [], _ => none
  | k :: ks, e =>
    if k.same e then some (k.later e :: ks)
    else match knowRaise ks e with
      | some ks' => some (k :: ks')
      | none => none

def Know.isParty : Know → Bool
  | .party .. => true
  | .block .. => false

/-- The position of the earliest entry of one kind from position `i` on, ties to the lower position; `best` is the
earliest so far. -/
def earliestFrom (party : Bool) : List Know → Nat → Option (Nat × Nat) → Option Nat
  | [], _, best => best.map (·.1)
  | k :: ks, i, best =>
    if k.isParty = party then
      match best with
      | some (j, d) => if clkLe d k.val then earliestFrom party ks (i + 1) (some (j, d))
                       else earliestFrom party ks (i + 1) (some (i, k.val))
      | none => earliestFrom party ks (i + 1) (some (i, k.val))
    else earliestFrom party ks (i + 1) best

def earliest (party : Bool) (ks : List Know) : Option Nat := earliestFrom party ks 0 none

/-- Enter one item in a table of eight (R251): the table, and whether an entry was evicted. -/
def knowAdd (ks : List Know) (e : Know) : List Know × Bool :=
  match knowRaise ks e with
  | some ks' => (ks', false)
  | none =>
    if ks.length < 8 then (ks ++ [e], false)
    else match earliest true ks with
      | some i => (ks.eraseIdx i ++ [e], true)
      | none => match earliest false ks with
        | some i => (ks.eraseIdx i ++ [e], true)
        | none => (ks ++ [e], false)

/-- The race state that a merge changes. -/
structure Knows where
  know : List Know
  pg : Nat
  lossy : Bool

/-- Merge one item into a party's race state; `own` is its block handle (R251). -/
def mergeItem (own : Nat) (k : Knows) (e : Know) : Knows :=
  match e with
  | .block h g =>
    if h = own then { k with pg := clkMax k.pg g }
    else let r := knowAdd k.know e; { k with know := r.1, lossy := k.lossy || r.2 }
  | .party .. => let r := knowAdd k.know e; { k with know := r.1, lossy := k.lossy || r.2 }

/-- Merge a sync record (R251). -/
def mergeRec (own : Nat) (k : Knows) (r : SyncRec) : Knows :=
  let k := (.party r.rid r.clock :: .block r.handle r.pg :: r.more).foldl (mergeItem own) k
  { k with lossy := k.lossy || r.trunc }

/-- Insert by value, latest first. -/
def insertLatest (k : Know) : List Know → List Know
  | [] => [k]
  | x :: xs => if clkLe x.val k.val && x.val != k.val then k :: x :: xs else x :: insertLatest k xs

/-- Entries of a kind with the latest clocks, at most two, latest first. -/
def latestTwo (party : Bool) (ks : List Know) : List Know :=
  ((ks.filter fun k => k.isParty == party).foldl (fun acc k => insertLatest k acc) []).take 2

/-- The sync record a release builds (R251). -/
def makeRec (rid clock handle : Nat) (k : Knows) : SyncRec :=
  let ps := latestTwo true k.know
  let more := if ps.length = 2 then ps else ps ++ (latestTwo false k.know).take (2 - ps.length)
  { rid := rid, clock := clock, handle := handle, pg := k.pg, more := more, trunc := 2 < k.know.length || k.lossy }

def Wave.knows (w : Wave) : Knows := ⟨w.know, w.pg, w.lossy⟩

def Wave.learn (w : Wave) (k : Knows) : Wave := { w with know := k.know, pg := k.pg, lossy := k.lossy }

/-- Merge a table and LOSSY into a block table (R252), leaving out entries of the block itself. -/
def Block.gather (b : Block) (w : Wave) : Block :=
  let k := (w.know.filter fun e => match e with | .block h _ => h != b.handle | _ => true).foldl
    (mergeItem b.handle) ⟨b.know, b.gen, b.lossy || w.lossy⟩
  { b with know := k.know, lossy := k.lossy }

/-! ### Parties (R248) -/

/-- A party at an access. -/
structure Party where
  rid : Nat
  clk : Nat
  clk0 : Nat
  knows : Knows
  blk : Nat
  handle : Nat
  anc : Word
  copy : Bool := false
  /-- The source read of a HALO copy: the generation it is checked with (R258). -/
  halo : Option Nat := none

/-- The ANC mask of a launch on a die (R249). -/
def State.anc (s : State) (l die : Nat) : Word :=
  match (s.launch l).tags.getD die none with
  | some (_, m) => m
  | none => 0

/-- The tag of a launch on a die. -/
def State.tagOf (s : State) (l die : Nat) : Nat :=
  match (s.launch l).tags.getD die none with
  | some (t, _) => t
  | none => 0

def State.waveParty (s : State) (wi clk : Nat) : Party :=
  let w := s.wave wi
  let b := s.block w.blk
  { rid := w.rid, clk := clk, clk0 := w.clk0, knows := w.knows, blk := w.blk, handle := b.handle
    anc := s.anc b.launch w.part.die }

/-- An access recorded in a watermark. -/
structure Recorded where
  id : Nat
  clk : Nat
  gen : Nat
  split : Bool
  sync : Bool

def Watermark.write (m : Watermark) : Recorded := ⟨m.wid, m.wclk, m.wgen, m.wspl, m.st == .sync⟩
def Watermark.read (m : Watermark) : Recorded := ⟨m.rdr, m.rclk, m.rgen, m.rspl, m.rsyn⟩

/-- Outcomes of the check (R256). -/
inductive RaceOut where
  | ordered | unknown | race
  deriving DecidableEq, Repr

/-- The wave that holds the slot of a race identity on a die, and its index. -/
def State.ridWave (s : State) (die rid : Nat) : Option Nat :=
  (List.range s.waves.length).find? fun i =>
    let w := s.wave i
    w.resident && w.part.die == die && w.part.core * 128 + w.slot == rid % 2 ^ 15

/-- The block of a recorded access (R256). -/
def State.recordedBlock (s : State) (die : Nat) (own : Option Nat) (y : Recorded) : Option Nat :=
  match own with
  | some b => some b
  | none =>
    if y.id = 0xFFFFE then
      (List.range s.blocks.length).reverse.find? fun i => (s.block i).handle == y.clk && (s.block i).st != .unstarted
    else match s.ridWave die y.id with
      | some i => let w := s.wave i
        if w.rid / 2 ^ 15 = y.id / 2 ^ 15 && clkLe w.clk0 y.clk then some w.blk else none
      | none => none

/-- The clock the party of a recorded access shows now (R256). -/
def State.shownClock (s : State) (die rid : Nat) : Nat :=
  let pid := rid % 2 ^ 15
  if pid < 12288 then
    match s.ridWave die rid with
    | some i => (s.wave i).rc
    | none => (s.core die (pid / 128)).slotClk.getD (pid % 128) 0
  else (s.core die ((pid - 12288) / 8)).chanClk.getD ((pid - 12288) % 8) 0

/-- barrier(p, y): yes, no, or undecided (R256). -/
def State.barrierOrder (s : State) (die : Nat) (own : Option Nat) (p : Party) (y : Recorded) : Option Bool :=
  if y.split || (p.copy && p.halo.isNone) then some false
  else match s.recordedBlock die own y with
    | none => none
    | some b =>
      let g := (s.block b).gen
      let gp := match p.halo with
        | some h => some h
        | none => if b = p.blk then some p.knows.pg else knowGen p.knows.know (s.block b).handle
      if (g + 2 ^ 19 - y.gen % 2 ^ 19) % 2 ^ 19 ≥ 2 ^ 18 then none
      else match gp with
        | none => some false
        | some gp =>
          let d := (gp + 2 ^ 19 - y.gen % 2 ^ 19) % 2 ^ 19
          some (1 ≤ d && d < 2 ^ 18)

/-- The check of an access by `p` against a recorded access (R256). -/
def State.check (s : State) (die : Nat) (own : Option Nat) (p : Party) (sync absent : Bool) (st : WmState)
    (y : Recorded) : RaceOut :=
  if absent || st == .fresh then .ordered
  else if st == .lost then .unknown
  else if sync && y.sync then .ordered
  else if y.id = p.rid && clkLe p.clk0 y.clk then .ordered
  else if y.id != 0xFFFFE && y.id / 2 ^ 15 != p.rid / 2 ^ 15 && bit p.anc (y.id / 2 ^ 15) then .ordered
  else
    let b := s.barrierOrder die own p y
    if b = some true then .ordered
    else if y.id != 0xFFFFE && (match knowClock p.knows.know y.id with | some k => clkLe y.clk k | none => false) then
      .ordered
    else if p.knows.lossy || b = none || y.id = 0xFFFFE || !clkLe y.clk (s.shownClock die y.id) then .unknown
    else .race

/-- The check of one granule: the outcome, the code of R260 and the recorded access it is about. -/
def State.checkGranule (s : State) (die : Nat) (own : Option Nat) (p : Party) (writes sync : Bool) (m : Watermark) :
    RaceOut × Nat × Recorded :=
  let a := s.check die own p sync false m.st m.write
  if !writes then (a, 1, m.write)
  else
    let b := s.check die own p sync (m.rdr == 0xFFFFF) m.st m.read
    if a = .race then (.race, 3, m.write)
    else if b = .race then (.race, 2, m.read)
    else if a = .unknown || b = .unknown then (.unknown, 0, m.write)
    else (.ordered, 0, m.write)

/-- The watermark after an access (R257); `gen` is the generation of the access's block. -/
def State.markAccess (s : State) (die : Nat) (own : Option Nat) (p : Party) (writes sync split : Bool) (gen : Nat)
    (m : Watermark) : Watermark :=
  if writes then
    { m with wid := p.rid, wclk := p.clk, wgen := gen % 2 ^ 19, wspl := split, st := if sync then .sync else .plain
             rdr := 0xFFFFF }
  else if m.st = .lost then m
  else if m.rdr = 0xFFFFF || m.rdr = p.rid || s.check die own p sync false m.st m.read = .ordered then
    { m with rdr := p.rid, rclk := p.clk, rgen := gen % 2 ^ 19, rspl := split, rsyn := sync }
  else
    let old : Option Nat :=
      if m.rdr = 0xFFFFE then (if m.rclk = 0x3FFFFF then none else some m.rclk)
      else if m.rdr % 2 ^ 15 < 12288 then (s.recordedBlock die own m.read).map fun b => (s.block b).handle
      else none
    let rclk := if old = some p.handle && !p.copy then p.handle else 0x3FFFFF
    { m with rdr := 0xFFFFE, rclk := rclk, rgen := gen % 2 ^ 19, rspl := m.rspl || split, rsyn := m.rsyn && sync }

/-- The watermark after an access that is not checked (R255). -/
def Watermark.unchecked (m : Watermark) (writes : Bool) : Watermark := if writes then { m with st := .lost } else m

/-! ### Where watermarks and sync records stand -/

/-- A place of race metadata: the shared memory of a block, or the scratchpad of a die, and a granule. -/
structure Granule where
  own : Option Nat
  die : Nat
  g : Nat
  /-- Its generic address (R260). -/
  addr : Nat
  deriving DecidableEq, Repr

def lookupNat {α : Type} (l : List (Nat × α)) (k : Nat) : Option α := (l.find? fun x => x.1 == k).map (·.2)

/-- The list with the entry of `k` replaced, or added. -/
def setNat {α : Type} (l : List (Nat × α)) (k : Nat) (v : α) : List (Nat × α) :=
  (k, v) :: l.filter fun x => x.1 != k

/-- A watermark that is not listed. -/
def Watermark.unlisted (lost : Bool) : Watermark := if lost then { st := .lost } else {}

def State.watermark (s : State) (g : Granule) : Watermark :=
  match g.own with
  | some b => (lookupNat (s.block b).wm g.g).getD (Watermark.unlisted (s.block b).wmLost)
  | none => (lookupNat (s.die g.die).wm g.g).getD (Watermark.unlisted (s.die g.die).wmLost)

def State.setWatermark (s : State) (g : Granule) (m : Watermark) : State :=
  match g.own with
  | some b => s.modBlock b fun x => { x with wm := setNat x.wm g.g m }
  | none => s.modDie g.die fun x => { x with wm := setNat x.wm g.g m }

def State.recEntry (s : State) (g : Granule) : Option (Option SyncRec) :=
  match g.own with
  | some b => lookupNat (s.block b).recs g.g
  | none => lookupNat (s.die g.die).recs g.g

def State.syncRec (s : State) (g : Granule) : Option SyncRec := (s.recEntry g).join

/-- A granule whose ST is SYNC and whose record has been replaced (R251). DEDUCED, log 85. -/
def State.recLost (s : State) (g : Granule) : Bool := s.recEntry g == some none && (s.watermark g).st == .sync

/-- A record that is replaced or dropped leaves a trace: an acquire that would read it sets LOSSY. -/
def forgetRec (x : Nat × Option SyncRec) : Nat × Option SyncRec := (x.1, none)

/-- Records that stand, as write step and granule. -/
def standing (l : List (Nat × Option SyncRec)) : List (Nat × Nat) := l.filterMap fun x => x.2.map fun r => (r.at_, x.1)

/-- The least recently written of some records. -/
def oldestRec {α : Type} : List (Nat × α) → Option (Nat × α)
  | [] => none
  | x :: xs => match oldestRec xs with
    | none => some x
    | some y => if y.1 ≤ x.1 then some y else some x

/-- The records of a core's shared-memory controller: those of the slices placed on the core (R251). -/
def State.controllerRecs (s : State) (die core : Nat) : List (Nat × Nat × Nat) :=
  (List.range s.blocks.length).flatMap fun bi =>
    let b := s.block bi
    if b.st == .placed && b.die == die then
      ((standing b.recs).filter fun x => b.cores[x.2 / 8192]? == some core).map fun x => (x.1, bi, x.2)
    else []

/-- A controller over its 256 records forgets the least recently written (R251). -/
def trimController (s : State) (die core : Nat) : State :=
  (List.range ((s.controllerRecs die core).length - 256)).foldl (fun s _ =>
    match oldestRec (s.controllerRecs die core) with
    | some (_, bi, g) => s.modBlock bi fun x => { x with recs := x.recs.map fun y => if y.1 = g then forgetRec y else y }
    | none => s) s

/-- A scratchpad slice over its 1,024 records forgets the least recently written (R251). -/
def trimSlice (k : Nat) (l : List (Nat × Option SyncRec)) : List (Nat × Option SyncRec) :=
  let mine := (standing l).filter fun x => x.2 / 16384 == k / 16384
  if mine.length ≤ 1024 then l
  else match oldestRec mine with
    | some (_, g) => l.map fun y => if y.1 = g then forgetRec y else y
    | none => l

/-- A sync record is written at a granule. -/
def State.setSyncRec (s : State) (g : Granule) (r : SyncRec) : State :=
  let r := { r with at_ := s.steps }
  match g.own with
  | some b =>
    let s := s.modBlock b fun x => { x with recs := setNat x.recs g.g (some r) }
    match (s.block b).cores[g.g / 8192]? with
    | some core => trimController s (s.block b).die core
    | none => s
  | none => s.modDie g.die fun x => { x with recs := trimSlice g.g (setNat x.recs g.g (some r)) }

/-! ### Outcomes (R260 to R262) -/

/-- Who an access is made for, as a record names it (R261). -/
structure Who where
  vi : Nat
  die : Nat
  copy : Bool
  pc : Word
  lanes : Word
  launch : Nat
  lin : Nat
  idx : Nat
  gen : Nat

/-- The 64 bytes of a race record (R261). -/
def raceRecord (s : State) (w : Who) (p : Party) (g : Granule) (code : Nat) (y : Recorded) : Bytes :=
  natLe 4 (code + (if w.copy then 256 else 0) + (if g.own.isNone then 512 else 0))
    ++ natLe 4 g.addr ++ wordLe w.pc ++ wordLe w.lanes ++ natLe 4 p.rid ++ natLe 4 p.clk ++ natLe 4 y.id
    ++ natLe 4 y.clk ++ natLe 8 s.tick ++ natLe 4 w.launch ++ natLe 4 w.lin ++ natLe 4 w.idx ++ natLe 4 w.gen
    ++ natLe 8 0

/-- A RACE under mode report: the record is written, or dropped and counted (R261). DEDUCED, log 37. -/
def writeRaceRecord (s : State) (w : Who) (bs : Bytes) : State :=
  let v := s.vi w.vi
  match v.raceBase with
  | none => s.modVi w.vi fun v => { v with dropcnt := (v.dropcnt + 1) % 2 ^ 64 }
  | some base =>
    if v.rblen = 0 || v.raceR + v.rblen ≤ v.raceW then s.modVi w.vi fun v => { v with dropcnt := (v.dropcnt + 1) % 2 ^ 64 }
    else
      (s.scratchPut w.vi w.die (base.toNat + 64 * (v.raceW % v.rblen)) bs).modVi w.vi fun v =>
        { v with raceW := v.raceW + 1 }

/-- Count an outcome (R262). -/
def countRace (s : State) (vi : Nat) (o : RaceOut) : State :=
  match o with
  | .ordered => s
  | .unknown => s.modVi vi fun v => { v with unkcnt := (v.unkcnt + 1) % 2 ^ 64 }
  | .race => s.modVi vi fun v => { v with racecnt := (v.racecnt + 1) % 2 ^ 64 }

/-- The check of a granule of a read whose bytes come from a store still in a buffer (R255). -/
def State.checkStore (s : State) (die : Nat) (own : Option Nat) (p : Party) (sync : Bool) (y : Recorded) :
    RaceOut × Nat × Recorded :=
  (s.check die own p sync false .plain y, 1, y)

/-- What refuses an access: the code, the granule and the recorded access, and every granule that raised RACE. -/
structure Refused where
  code : Nat
  granule : Granule
  by_ : Recorded
  all : List Granule

/-- The first of several races by code (R260). -/
def worstRace : List (Granule × RaceOut × Nat × Recorded) → Option (Nat × Granule × Recorded)
  | [] => none
  | (g, _, code, y) :: rest => match worstRace rest with
    | none => some (code, g, y)
    | some (c, h, z) => if c < code then some (c, h, z) else some (code, g, y)

/-- One access over its granules: under fault, a RACE refuses it; otherwise the watermarks are updated and RACEs are
reported (R255 to R262). `alt` names the store in a buffer that a read takes a granule's bytes from. -/
def raceAccess (s : State) (mode : RaceMode) (w : Who) (p : Party) (writes sync split : Bool) (gen : Nat)
    (gs : List Granule) (alt : Granule → Option Recorded := fun _ => none) : State × Option Refused :=
  match mode with
  | .off => (gs.foldl (fun s g => s.setWatermark g ((s.watermark g).unchecked writes)) s, none)
  | _ =>
    let outs := gs.map fun g => (g, match alt g with
      | some y => s.checkStore w.die g.own p sync y
      | none => s.checkGranule w.die g.own p writes sync (s.watermark g))
    let s := outs.foldl (fun s o => countRace s w.vi o.2.1) s
    let races := outs.filter fun o => o.2.1 = .race
    match (if mode = .fault then worstRace races else none) with
    | some (code, g, y) => (s, some ⟨code, g, y, races.map (·.1)⟩)
    | none =>
      let s := races.foldl (fun s o => writeRaceRecord s w (raceRecord s w p o.1 o.2.2.1 o.2.2.2)) s
      (gs.foldl (fun s g => s.setWatermark g (s.markAccess w.die g.own p writes sync split gen (s.watermark g))) s, none)

end Sys2Proof.Machine
end

