-- ==== Sys2Proof/Machine/Order.lean ====
section
/-!
DEFINITION. The ordering machine's predicates and its homes: presence, range locks, coherence appends and the
persist buffer (R145 to R156, R159, R267).
-/

namespace Sys2Proof.Machine

/-! ### Homes -/

/-- Where a location's home is: shared memory of a block, scratchpad of an interface on a die, a wave's spill area. -/
inductive Home where
  | shared (blk : Nat)
  | scratch (vi die : Nat)
  | spill (wave : Nat)
  deriving DecidableEq, Repr

/-- The byte at a home; spill addresses count from the spill window (R144). -/
def State.homeRead (s : State) (h : Home) (a : Nat) : Byte :=
  match h with
  | .shared b => (s.block b).shared.read a
  | .scratch vi die => (s.die die).scratch.read (s.scratchPhys vi die a)
  | .spill w => (s.wave w).spill.read (a - 0x18000000)

def State.homeWrite (s : State) (h : Home) (a : Nat) (v : Byte) : State :=
  match h with
  | .shared b => s.modBlock b fun x => { x with shared := x.shared.write a v }
  | .scratch vi die =>
    let p := s.scratchPhys vi die a
    s.modDie die fun x => { x with scratch := x.scratch.write p v }
  | .spill w => s.modWave w fun x => { x with spill := x.spill.write (a - 0x18000000) v }

def State.homeReadN (s : State) (h : Home) (a n : Nat) : Bytes := (List.range n).map fun i => s.homeRead h (a + i)

def State.homeWriteN (s : State) (h : Home) : Nat → Bytes → State
  | _, [] => s
  | a, b :: bs => State.homeWriteN (s.homeWrite h a b) h (a + 1) bs

/-- The line an address lies in, as the Felt layer names it (R264). -/
def State.lineKey (s : State) (h : Home) (a : Nat) : LineKey :=
  match h with
  | .shared b => .shared b (a / 64)
  | .scratch vi die => .scratch die (s.scratchPhys vi die a / 64)
  | .spill w => .spill w ((a - 0x18000000) / 64)

/-- The 64 bytes of a line now. -/
def State.lineNow (s : State) : LineKey → Bytes
  | .shared b l => (s.block b).shared.readN (64 * l) 64
  | .scratch die l => (s.die die).scratch.readN (64 * l) 64
  | .spill w l => (s.wave w).spill.readN (64 * l) 64
  | _ => []

/-- The scratchpad region descriptor that decides at a generic address (R145): an interface has 16 on each die.
DEDUCED, log 92. -/
def State.region (s : State) (vi die addr : Nat) : Option Word :=
  let u := (addr - 0x10000000) / 65536
  (((s.vi vi).regions.getD die []).find? fun r =>
    let b := bitsOf r.toNat 0 11
    let l := bitsOf r.toNat 11 11
    r.getLsbD 31 && b ≤ l && l ≤ 1535 && b ≤ u && u ≤ l)

/-- An address in an SC region (R146). -/
def State.inSc (s : State) (vi die addr : Nat) : Bool :=
  match s.region vi die addr with
  | some r => r.getLsbD 22
  | none => false

/-- An address in a region of persist mode CUT (R145). -/
def State.inCut (s : State) (vi die addr : Nat) : Bool :=
  match s.region vi die addr with
  | some r => r.getLsbD 23
  | none => false

/-- KIND of a line: 0 DIRECT, 1 CUT; `cut` is the scratchpad's, as the write issued (R145, R267). -/
def State.persistKind (s : State) (h : Home) (cut : Bool) : Nat :=
  let ofBlock (b : Nat) : Nat := if bitsOf (s.kernel (s.launch (s.block b).launch).kernel).flags 1 1 = 1 then 0 else 1
  match h with
  | .shared b => ofBlock b
  | .spill w => ofBlock (s.wave w).blk
  | .scratch .. => if cut then 1 else 0

def Home.die (s : State) : Home → Nat
  | .shared b => (s.block b).die
  | .scratch _ d => d
  | .spill w => (s.wave w).part.die

/-- Who makes a write: the wave, the block that it is made for, and the die of the party (R181, R267). -/
structure Writer where
  wave : Option Nat := none
  blk : Option Nat := none
  die : Option Nat := none

/-- A wave as the writer of its own stores. -/
def State.writerOf (s : State) (wi : Nat) : Writer :=
  { wave := some wi, blk := some (s.wave wi).blk, die := some (s.wave wi).part.die }

/-- A write appended at its home enters the persist buffer (R153), naming its writer (R181, R267). -/
def State.persistPush (s : State) (h : Home) (a : Nat) (by_ : Writer) (cut : Bool) : State :=
  let key := s.lineKey h a
  let owner := match by_.blk with
    | some b => if (s.block b).st == .placed || (s.block b).st == .saved then some (s.block b).handle else none
    | none => none
  let w : PWrite := { seq := s.appends, key := key, data := s.lineNow key, kind := s.persistKind h cut, owner := owner
                      wave := by_.wave, blk := by_.blk, party := by_.die }
  { (s.modDie (h.die s) fun d => { d with persist := d.persist ++ [w] }) with appends := s.appends + 1 }

/-- Lanes that together write every byte of a line. -/
def coversLine (lanes : List LaneAcc) (l : Nat) : Bool :=
  (List.range 64).all fun i => lanes.any fun x => x.addr ≤ 64 * l + i && 64 * l + i < x.addr + x.data.length

/-- A full write of a line clears its mark (R238). -/
def DieState.cleared (key : LineKey) (d : DieState) : DieState :=
  { d with marked := d.marked.filter fun m => m.1 != key
           sound := match key with
             | .scratch _ l => if d.unwritten then insertNat l d.sound else d.sound
             | _ => d.sound }

/-- Bytes appended at a home, as one write of each line they touch; a full write of a line clears its mark (R238).
`cut` says which lines of the scratchpad are CUT (R145). -/
def State.append (s : State) (h : Home) (by_ : Writer) (cut : Nat → Bool) (lanes : List LaneAcc) : State :=
  let s' := lanes.foldl (fun s l => s.homeWriteN h l.addr l.data) s
  let lines := lanes.foldl (fun acc l => if l.data.isEmpty then acc else insertNat (l.addr / 64) acc) []
  lines.foldl (fun s l =>
    let key := s.lineKey h (64 * l)
    let s := if coversLine lanes l then s.modDie (h.die s) (DieState.cleared key) else s
    s.persistPush h (64 * l) by_ (cut l)) s'

/-- The lines of a scratchpad access that lie in regions of persist mode CUT now (R145). -/
def State.cutLines (s : State) (wi : Nat) (space : Space) (lanes : List LaneAcc) : List Nat :=
  if space == .scratch then
    (lanes.foldl (fun acc l => insertNat (l.addr / 64) acc) []).filter fun l =>
      s.inCut (s.waveLaunch wi).vi (s.wave wi).part.die (64 * l)
  else []

/-- The home of an access in a space, of a wave. -/
def State.homeOf (s : State) (wi : Nat) : Space → Home
  | .shared => .shared (s.wave wi).blk
  | .scratch => .scratch (s.waveLaunch wi).vi (s.wave wi).part.die
  | .spill => .spill wi
  | .aperture => .spill wi

/-! ### Presence and range locks (R147, R148) -/

/-- Whether the line of an address is present. -/
def State.present (s : State) (h : Home) (a : Nat) : Bool :=
  match h with
  | .shared b => !(s.block b).absent.contains (a / 64)
  | .scratch vi die => !(s.die die).absent.contains (s.scratchPhys vi die a / 64)
  | .spill _ => true

def State.setPresent (s : State) (h : Home) (a : Nat) (p : Bool) : State :=
  let upd (l : List Nat) (x : Nat) : List Nat := if p then l.filter (· != x) else insertNat x l
  match h with
  | .shared b => s.modBlock b fun x => { x with absent := upd x.absent (a / 64) }
  | .scratch vi die =>
    let l := s.scratchPhys vi die a / 64
    s.modDie die fun x => { x with absent := upd x.absent l }
  | .spill _ => s

/-- Whether a span holds the line of an address at a home. -/
def Span.holds (sp : Span) (h : Home) (a : Nat) : Bool :=
  (match h, sp.space with
    | .shared b, .shared => sp.blk == b
    | .scratch .., .scratch => true
    | _, _ => false) && sp.lo ≤ a / 64 && a / 64 ≤ sp.hi

/-- Copies that hold Deckle entries on the die of a home, for the interface of a scratchpad home (R148). -/
def State.lockers (s : State) (h : Home) : List Copy :=
  s.copies.filter fun c => c.st != .done && c.die == h.die s &&
    (match h with | .scratch vi _ => c.vi == vi | _ => true)

def State.readLocked (s : State) (h : Home) (a : Nat) : Bool :=
  (s.lockers h).any fun c => c.rlocks.any fun sp => sp.holds h a

def State.writeLocked (s : State) (h : Home) (a : Nat) : Bool :=
  (s.lockers h).any fun c => c.wlocks.any fun sp => sp.holds h a

/-! ### Accesses -/

def AccKind.isStore : AccKind → Bool
  | .store | .arg | .start | .scatter => true
  | _ => false

def AccKind.isLoad : AccKind → Bool
  | .load | .atomic | .gather | .record | .counter => true
  | _ => false

/-- An access that has taken its whole effect, or was dropped. DEDUCED, log 25. -/
def Acc.isOver (a : Acc) : Bool := a.st == .done || a.st == .dropped

/-- A load or atomic that has performed. Accesses performed at S1 have (R144). -/
def Acc.performed (a : Acc) : Bool := a.isOver || a.st == .arrived

/-- Byte ranges of two accesses of one space overlap. -/
def Acc.overlaps (a b : Acc) : Bool :=
  a.space == b.space && a.lanes.any fun x => b.lanes.any fun y =>
    x.addr < y.addr + b.width && y.addr < x.addr + a.width

/-- Scope levels of homes (R140, R152). -/
def homeLevel : Space → Nat
  | .shared => 1
  | .scratch => 2
  | .spill => 0
  | .aperture => 0

/-- The level at which a store sits (R152). -/
def Acc.level (a : Acc) : Nat := if a.st == .block then 1 else if a.st == .module_ then 3 else 0

/-- A store has reached a scope (R152). A start store is no store to a location. -/
def Acc.reached (a : Acc) (scope : Nat) : Bool :=
  a.isOver || (a.space != .aperture && Nat.min scope (homeLevel a.space) ≤ a.level)

/-- An access that has trapped does not bind what its wave's handler issues: operations from number `n` on
(R219, R236). -/
def State.bypassed (s : State) (n : Nat) (a : Acc) : Bool :=
  let w := s.wave a.wave
  a.st == .trapped && w.trapMode && a.op < w.trapOp && w.trapOp < n

/-- Earlier accesses of the wave of access `i`. -/
def State.earlier (s : State) (i : Nat) : List Acc :=
  (s.accs.take i).filter fun a => a.wave == (s.acc i).wave && a.kind != .engine && !s.bypassed (s.acc i).op a

/-- A pending ordered operation of R153. -/
def State.pendingOrdered (s : State) (a : Acc) : Bool :=
  let o := s.op a.op
  !a.performed &&
    ((a.kind == .load && o.acq.isSome) || (a.kind == .atomic && (o.atom.getD 0) ≠ 0) || a.kind == .start || o.sc ||
      a.kind == .counter)

/-- The release condition of S2 at a scope, over these accesses (R153). -/
def releaseReady (scope : Nat) (as : List Acc) : Bool :=
  as.all fun a => if a.kind == .start then true else if a.kind.isStore then a.reached scope
    else if a.kind.isLoad then a.performed else true

/-- Accesses of a wave issued before operation `n`. -/
def State.issuedBefore (s : State) (wi n : Nat) : List Acc :=
  s.accs.filter fun a => a.wave == wi && a.op < n && a.kind != .engine && !s.bypassed n a

/-- Stores of `as` have reached a scope, loads and atomics performed, start stores been accepted: the condition of
`fence` (R154). -/
def fenceReady (scope : Nat) (as : List Acc) : Bool :=
  as.all fun a => if a.kind == .start then a.isOver else if a.kind.isStore then a.reached scope
    else if a.kind.isLoad then a.performed else true

/-- Every earlier access has performed, been appended or accepted (R146). -/
def allPerformed (as : List Acc) : Bool :=
  as.all fun a => if a.kind.isStore then a.isOver else if a.kind.isLoad then a.performed else true

/-- Writes that a `pfence` of a wave covers, on either die: by the wave; by its block's waves and their copies; by the
parties of its die (R154, R181). -/
def State.covered (s : State) (wi scope seq : Nat) : List PWrite :=
  let w := s.wave wi
  (s.dies.flatMap (·.persist)).filter fun p => p.seq < seq &&
    (match scope with
      | 0 => p.wave == some wi
      | 1 => p.blk == some w.blk
      | _ => p.party == some w.part.die)

/-- A hold has ended. -/
def State.holdOver (s : State) (wi : Nat) : Hold → Bool
  | .fence scope n => fenceReady scope (s.issuedBefore wi n)
  | .sc n => allPerformed (s.issuedBefore wi (n + 1))
  | .pfence scope _ seq => (s.covered wi scope seq).isEmpty
  | .log n => (s.op n).logIx.isNone
  | .launch .. => false

/-- No hold binds the wave's next instruction. DEDUCED, log 24. -/
def State.unheld (s : State) (wi : Nat) : Bool := (s.wave wi).holds.all (s.holdOver wi)

/-- A store that is still in its wave's store queue; a held one counts as queued (R235). -/
def Acc.inQueue (a : Acc) : Bool := a.kind.isStore && (a.st == .queued || a.st == .held)

/-- The byte that an access stores at an address. -/
def Acc.byteAt (x : Acc) (a : Nat) : Option Byte :=
  (x.lanes.reverse.find? fun l => l.addr ≤ a && a < l.addr + l.data.length).map fun l => l.data.getD (a - l.addr) 0

/-- The byte of the newest store of an access's own wave that is still in its store queue (S4). -/
def State.ownByte (s : State) (i a : Nat) : Option Byte :=
  let me := s.acc i
  ((s.accs.take i).reverse.filter fun x =>
    x.wave == me.wave && x.inQueue && x.space == me.space).findSome? fun x => x.byteAt a

/-- The newest store to a byte in the buffer of the block of an access, and the byte (S4). -/
def State.bufByte (s : State) (i a : Nat) : Option (Acc × Byte) :=
  let me := s.acc i
  let blk := (s.wave me.wave).blk
  s.accs.foldl (fun best x =>
    if x.st == .block && x.space == me.space && (s.wave x.wave).blk == blk then
      match x.byteAt a, best with
      | none, _ => best
      | some b, none => some (x, b)
      | some b, some (y, c) => if y.entered < x.entered then some (x, b) else some (y, c)
    else best) none

/-- The bytes a load of a wave sees at one address (S4): its own queue, its block's buffer, the home. -/
def State.seen (s : State) (i : Nat) (h : Home) (a : Nat) : Byte :=
  match s.ownByte i a with
  | some b => b
  | none => match s.bufByte i a with
    | some (_, b) => b
    | none => s.homeRead h a

/-- The newest store in the block's buffer from which these lanes take a byte, if any (R255). -/
def State.seenBuf (s : State) (i : Nat) (lanes : List LaneAcc) : Option Acc :=
  let width := (s.acc i).width
  (lanes.flatMap fun l => (List.range width).map (l.addr + ·)).foldl (fun best a =>
    match (if (s.ownByte i a).isSome then none else s.bufByte i a), best with
    | none, _ => best
    | some (x, _), none => some x
    | some (x, _), some (y : Acc) => if y.entered < x.entered then some x else some y) none

/-- The granules of an access (R254). -/
def State.granules (s : State) (wi : Nat) (space : Space) (lanes : List LaneAcc) : List Granule :=
  let w := s.wave wi
  let vi := (s.waveLaunch wi).vi
  let addrs := lanes.foldl (fun acc l => insertNat (l.addr / 64) acc) []
  match space with
  | .shared => addrs.map fun g => ⟨some w.blk, w.part.die, g, 64 * g⟩
  | .scratch => addrs.map fun g => ⟨none, w.part.die, s.scratchPhys vi w.part.die (64 * g) / 64, 64 * g⟩
  | _ => []

/-- Who an access of a wave is made for (R261). -/
def State.whoWave (s : State) (wi : Nat) (pc : Word) (lanes : List LaneAcc) : Who :=
  let w := s.wave wi
  let l := s.waveLaunch wi
  { vi := l.vi, die := w.part.die, copy := false, pc := pc, lanes := maskOf fun i => lanes.any fun x => x.lane == i
    launch := l.number, lin := (s.waveBlock wi).lin, idx := w.idx, gen := (s.waveBlock wi).gen }

end Sys2Proof.Machine
end

