-- ==== Sys2Proof/Machine/Operands.lean ====
section
/-!
DEFINITION. Operand forms: the lane values an instruction reads, its element type, and the result it computes from
them in every lane (R36, R37, R49, R100 to R102).
-/

namespace Sys2Proof.Machine

/-- A result in every lane, with the FSTAT bits that each lane would set. -/
structure Res where
  reg : Reg
  flags : List Nat := []

/-- A lane function over register operands: once when all are U (R102), else in every lane. "U only if all U" (R37). -/
def mapR (rs : List Reg) (f : List Word → Word × Nat) : Res :=
  if rs.all Reg.isU then
    let r := f (rs.map fun x => x.lane 0)
    ⟨.u r.1, List.replicate 32 r.2⟩
  else
    let out := (List.range 32).map fun i => f (rs.map fun x => x.lane i)
    ⟨.v (out.map (·.1)), out.map (·.2)⟩

/-- A lane function with a 64-bit result over register operands (R36). -/
def mapP (rs : List Reg) (f : List Word → (Word × Word) × Nat) : Reg × Reg × List Nat :=
  if rs.all Reg.isU then
    let r := f (rs.map fun x => x.lane 0)
    (.u r.1.1, .u r.1.2, List.replicate 32 r.2)
  else
    let out := (List.range 32).map fun i => f (rs.map fun x => x.lane i)
    (.v (out.map (·.1.1)), .v (out.map (·.1.2)), out.map (·.2))

/-- A 64-bit value from an even and an odd word (R36). -/
def pairVal (lo hi : Word) : Nat := lo.toNat + 2 ^ 32 * hi.toNat

def splitVal (x : Nat) : Word × Word := (BitVec.ofNat 32 x, BitVec.ofNat 32 (x / 2 ^ 32))

/-- Pair up a list of words into 64-bit values. -/
def pairVals : List Word → List Nat
  | lo :: hi :: xs => pairVal lo hi :: pairVals xs
  | _ => []

/-- A function of 16-bit elements on both halves of a lane (R49). -/
def onHalves (f : List Nat → Nat × Nat) (xs : List Word) : Word × Nat :=
  let lo := f (xs.map fun x => bitsOf x.toNat 0 16)
  let hi := f (xs.map fun x => bitsOf x.toNat 16 16)
  (BitVec.ofNat 32 (lo.1 % 65536 + 65536 * hi.1), lo.2 ||| hi.2)

/-- The float format of an element type (R67). -/
def typeFmt : Nat → Option FFmt
  | 2 => some .f32 | 3 => some .f16 | 4 => some .bf16 | 5 => some .f64
  | _ => none

/-- Range of an integer element type: width and signedness. -/
def intRange (t : Nat) : Nat × Bool := if t = 0 then (32, true) else if t = 1 then (32, false) else (16, true)

/-- An element as an integer of its type. -/
def elemInt (t x : Nat) : Int := let r := intRange t; if r.2 then sext r.1 x else (x % 2 ^ r.1 : Nat)

/-- An exact integer result, wrapped or clamped (R55): the element's bits and its flags. -/
def wrapOrClamp (w : Nat) (signed sat : Bool) (x : Int) : Nat × Nat :=
  let lo : Int := if signed then -(2 ^ (w - 1) : Nat) else 0
  let hi : Int := if signed then (2 ^ (w - 1) : Nat) - 1 else (2 ^ w : Nat) - 1
  let c := clamp lo hi x
  if sat && c.2 then ((c.1 % (2 ^ w : Nat)).toNat, fSAT) else ((x % (2 ^ w : Nat)).toNat, 0)

/-- A typed integer operation on one lane (R106, R107). -/
def intLane (t : Nat) (sat : Bool) (f : List Int → Int) (xs : List Word) : Word × Nat :=
  let r := intRange t
  let one (ys : List Nat) : Nat × Nat := wrapOrClamp r.1 r.2 sat (f (ys.map (elemInt t)))
  if r.1 = 32 then let y := one (xs.map BitVec.toNat); (BitVec.ofNat 32 y.1, y.2) else onHalves one xs

/-- A float operation on codes of a format, on one lane of a 32-bit type. -/
def floatLane (f : FFmt) (op : List Nat → Nat × Nat) (xs : List Word) : Word × Nat :=
  match f with
  | .f32 => let y := op (xs.map BitVec.toNat); (BitVec.ofNat 32 y.1, y.2)
  | _ => onHalves op xs

/-- The registers that a typed operand names: one, or under the F64 pair type two (R66). -/
def typedRegs (t : Nat) (d : BitVec 7) : List (BitVec 7) := if t = 5 then [d, regFrom d 1] else [d]

def odd7 (d : BitVec 7) : Bool := d.getLsbD 0

/-- A typed operation: what it does on integers, and on codes of a float format. Answers the destination's contents,
one or two registers, and flags. -/
def typedRes (m : BitVec 16) (d : BitVec 7) (rs : List (List Reg)) (fi : List Int → Int)
    (ff : FFmt → List Nat → Nat × Nat) : List (BitVec 7 × Reg) × List Nat :=
  let t := modeType m
  match typeFmt t with
  | some .f64 =>
    let r := mapP rs.flatten fun xs => let y := ff .f64 (pairVals xs); (splitVal y.1, y.2)
    ([(d, r.1), (regFrom d 1, r.2.1)], r.2.2)
  | some f => let r := mapR rs.flatten (floatLane f (ff f)); ([(d, r.reg)], r.flags)
  | none => let r := mapR rs.flatten (intLane t (modeSat m) fi); ([(d, r.reg)], r.flags)

/-- The contents of a typed operand. -/
def Wave.typed (w : Wave) (d : BitVec 7) : List Reg := (typedRegs (modeType w.mode) d).map w.reg

/-- Sign-extended 10-bit immediate (R65). -/
def immS (imm : BitVec 10) : Word := imm.signExtend 32

/-- Zero-extended immediates (R65). -/
def immZ {n : Nat} (imm : BitVec n) : Word := imm.zeroExtend 32

end Sys2Proof.Machine
end

