-- ==== Sys2Proof/Machine/Flags.lean ====
section
/-!
DEFINITION. What every wave instruction shares: the waits before issue, the issue checks of R75, traps raised by
execution, the writing of destinations, FSTAT and the condition codes, and occupancy (R39 to R41, R51, R52, R69, R74,
R100 to R104).
-/

namespace Sys2Proof.Machine

/-- The wave stays ISSUED: its next instruction cannot issue yet (R23). -/
def stall (s : State) (wi : Nat) : State := s.modWave wi fun w => { w with issued := true }

/-- The instruction waits on a pending bit of a register it reads or writes (R74), or on a hold. -/
def State.mustWait (s : State) (wi : Nat) (regs : List (BitVec 7)) : Bool :=
  !s.unheld wi || regs.any fun d => (s.wave wi).pend.contains d

/-- The instruction retires: the next word is next, and holds that have ended go. -/
def advance (s : State) (wi : Nat) : State :=
  let isOver := (s.wave wi).holds.filter fun h => !s.holdOver wi h
  s.modWave wi fun w =>
    { w with pc := w.pc + 4, issued := false, holds := isOver
             suspended := if w.trapMode then w.suspended else none }

/-- A wave instruction begins: with no issuing wave a fault, a wait where it must wait, and otherwise `f`. -/
def begin_ (s : State) (regs : List (BitVec 7)) (f : Nat → State) : Host.Outcome State Fault Refusal :=
  onWave s fun wi => .next (if s.mustWait wi regs then stall s wi else f wi)

/-- A trap raised at issue (R218): its PC is the instruction's, and so is RPC. -/
def issueTrap (s : State) (wi : Nat) (word : Word) (cls : TrapClass) (code : Nat) (lanes : Word := 0)
    (detail : List Nat := []) (laneDetail : List (Nat × Nat) := []) : State :=
  let w := s.wave wi
  takeTrap s wi
    { cls := cls, code := code, tpc := w.pc, rpc := w.pc, lanes := lanes, iword := word, guard := w.guard
      mode := w.mode, detail := detail, laneDetail := laneDetail }

/-- The word of an instruction (R64). -/
def wordOfInstr (i : Instr) : Word := (encode i).getD 0

/-- ILL with a code of R86. -/
def ill (s : State) (wi : Nat) (i : Instr) (code : Nat) : State := issueTrap s wi (wordOfInstr i) .ill code

/-- The clock until which a unit of a partition is occupied (R103). -/
def State.busyUntil (s : State) (p : PartRef) (u : ExecUnit) : Nat := ((s.part p).busy.lookup u).getD 0

def State.unitFree (s : State) (wi : Nat) (u : ExecUnit) : Bool :=
  s.busyUntil (s.wave wi).part u ≤ s.waveClk wi

/-- Occupy a unit for some clocks from now. -/
def occupy (s : State) (wi : Nat) (u : ExecUnit) (clocks : Nat) : State :=
  let until_ := s.waveClk wi + clocks
  s.modPart (s.wave wi).part fun p => { p with busy := (u, until_) :: p.busy.filter fun x => x.1 != u }

/-- What a lane instruction is to do once it passes its checks. -/
structure LaneOp where
  /-- Registers it reads, for the uniform path and soft errors. -/
  reads : List (BitVec 7) := []
  /-- Results under a full write, one write of all of them (R100). -/
  writes : List (BitVec 7 × Reg) := []
  /-- FSTAT bits by lane. -/
  flags : List Nat := []
  guarded : Bool := true
  unit : ExecUnit := .vector
  clocks : Nat := 1
  slow : Bool := false
  /-- A mask register to write, or a mask formed for MZ and MF alone (R69). -/
  mask : Option (BitVec 4 × Word) := none
  test : Option Word := none
  /-- Z, N, C, V (R69). -/
  cc : Option (Bool × Bool × Bool × Bool) := none
  /-- The helper mask (R125). -/
  hm : Option Word := none

/-- The lanes an instruction acts for (R101). -/
def LaneOp.act (o : LaneOp) (w : Wave) : Word := if o.guarded then w.active else w.pm

/-- The registers as the write leaves them; a write under a guard that holds no present lane writes none (R39, R40). -/
def LaneOp.news (o : LaneOp) (w : Wave) : List (BitVec 7 × Reg) :=
  if o.guarded && o.act w = 0 && w.pm ≠ 0 then []
  else o.writes.map fun x => (x.1, if o.guarded then guardedWrite w.pm (o.act w) (w.reg x.1) x.2 else x.2)

/-- Computed once, in the uniform path (R102). -/
def LaneOp.uniform (o : LaneOp) (w : Wave) : Bool :=
  o.act w = w.pm && !o.writes.isEmpty && o.writes.all (fun x => !x.2.isV) && o.reads.all (fun d => !(w.reg d).isV)

/-- FSTAT bits that the lanes acted for would set (R52). -/
def LaneOp.fstat (o : LaneOp) (w : Wave) : Nat :=
  (lanesOf (o.act w)).foldl (fun acc i => acc ||| o.flags.getD i 0) 0

/-- The ARITH code of a set of FSTAT bits under XTRAP, lowest first (R52). -/
def arithCode (bits : Nat) : Option Nat :=
  if bits &&& fNV ≠ 0 then some 1 else if bits &&& fOF ≠ 0 then some 2 else if bits &&& fT3R ≠ 0 then some 3 else none

/-- The FSTAT bits that raise ARITH (R50, R52): a lane or output with one of them is concerned. DEDUCED, log 80. -/
def trapBits : Nat := fNV ||| fOF ||| fT3R

/-- SHAPE QUOTA (R41, R42, R232). -/
def quotaTrap (s : State) (wi : Nat) (word : Word) (d : BitVec 7) : State :=
  let w := s.wave wi
  issueTrap s wi word .shape 1 0 [d.toNat, w.liveV, w.qw]

/-- Registers written, each with its slot. -/
def putAll (s : State) (wi : Nat) (ws : List (BitVec 7 × Reg)) : State :=
  ws.foldl (fun s x => s.modWave wi fun w => w.put x.1 x.2) s

/-- Set sticky FSTAT bits (R51). -/
def orFstat (s : State) (wi bits : Nat) : State :=
  s.modWave wi fun w => { w with fstat := w.fstat ||| BitVec.ofNat 32 bits }

/-- Count a slow pass of a core (R60, R306). -/
def countSlow (s : State) (wi : Nat) (slow : Bool) : State :=
  let p := (s.wave wi).part
  if slow then s.modCore p.die p.core fun c => { c with slowpass := (c.slowpass + 1) % 2 ^ 64 } else s

/-- The unit a lane instruction uses and for how many clocks (R102, R103, R284); `kget`, `kpop` and `kfirst` under a full
write use the uniform path. DEDUCED, log 89. -/
def LaneOp.place (o : LaneOp) (s : State) (wi : Nat) : ExecUnit × Nat :=
  let slow := if o.slow then 4 else 0
  if o.uniform (s.wave wi) then (.uniform, 1 + slow) else (o.unit, (o.clocks + slow) * s.wavePass wi)

/-- The effect of a lane instruction that passed every check: destinations, FSTAT, masks and codes, occupancy,
next word. -/
def laneEffect (s : State) (wi : Nat) (o : LaneOp) : State :=
  let w := s.wave wi
  let u := o.place s wi
  let s := putAll s wi (o.news w)
  let s := orFstat s wi (o.fstat w)
  let s := match o.mask with
    | some (k, m) => writeMask s wi k m
    | none => s
  let s := match o.test with
    | some m => setMaskFlags s wi m
    | none => s
  let s := match o.cc with
    | some (z, n, c, v) => s.modWave wi fun w => { w with z := z, n := n, c := c, v := v }
    | none => s
  let s := match o.hm with
    | some m => s.modWave wi fun w => { w with hm := m }
    | none => s
  advance (countSlow (occupy s wi u.1 u.2) wi o.slow) wi

/-- Registers of a wave whose storage suffered an error among those an instruction reads (R238). -/
def Wave.softReads (w : Wave) (reads : List (BitVec 7)) : Bool := reads.any fun d => w.badRegs.any fun x => x.1 == d

/-- SOFT at the instruction that read a register slot (R238). -/
def softTrap (s : State) (wi : Nat) (word : Word) (act : Word) (reads : List (BitVec 7)) : State :=
  let hit := (s.wave wi).badRegs.filter fun x => reads.contains x.1
  let code := hit.foldl (fun acc x => Nat.min acc x.2) 5
  issueTrap s wi word .soft code act [code]

/-- The issue and execution of a lane instruction (R75, R100, R104): unit, QUOTA, SOFT, ARITH, effect. -/
def laneOp (s : State) (wi : Nat) (i : Instr) (o : LaneOp) : State :=
  let w := s.wave wi
  let word := wordOfInstr i
  let news := o.news w
  if !s.unitFree wi (o.place s wi).1 then stall s wi
  else if w.qw < w.liveV + w.widens news && w.widens news ≠ 0 then
    quotaTrap s wi word (((news.filter fun x => x.2.isV && !w.hasSlot x.1).head?.map (·.1)).getD 0)
  else if w.softReads o.reads then softTrap s wi word (o.act w) o.reads
  else match (if modeTrap w.mode then arithCode (o.fstat w) else none) with
    | some code =>
      let acts := lanesOf (o.act w)
      issueTrap s wi word .arith code (maskOf fun l => acts.contains l && o.flags.getD l 0 &&& trapBits != 0) []
        (acts.map fun l => (l, o.flags.getD l 0))
    | none => laneEffect s wi o

/-- A lane instruction over the registers it reads and writes; `f` gives an ILL code or what it does. -/
def laneInstr (s : State) (i : Instr) (regs : List (BitVec 7)) (f : Wave → Except Nat LaneOp) :
    Host.Outcome State Fault Refusal :=
  begin_ s regs fun wi =>
    match f (s.wave wi) with
    | .error code => ill s wi i code
    | .ok o => laneOp s wi i o

/-- An untyped lane instruction, which has no ILL case left at issue. -/
def laneFree (s : State) (i : Instr) (regs : List (BitVec 7)) (f : Wave → LaneOp) :
    Host.Outcome State Fault Refusal :=
  laneInstr s i regs fun w => .ok (f w)

/-- The issue checks of a typed instruction (R66, R86): ALIGN under the F64 pair type, of an instruction that it defines,
then TYPE. DEDUCED, log 91. -/
def typedCheck (m : BitVec 16) (types : List Nat) (pairs : List (BitVec 7)) : Option Nat :=
  if modeType m = 5 && types.contains 5 && pairs.any odd7 then some 4
  else if !types.contains (modeType m) then some 6
  else none

/-- All element types (R67). -/
def allTypes : List Nat := [0, 1, 2, 3, 4, 5, 6]

/-- A typed lane instruction: the registers of its typed operands follow MODE.TYPE (R66). -/
def typedInstr (s : State) (i : Instr) (types : List Nat) (ops : List (BitVec 7)) (f : Wave → LaneOp) :
    Host.Outcome State Fault Refusal :=
  onWave s fun wi =>
    let m := (s.wave wi).mode
    laneInstr s i (if typedCheck m types ops = none then (ops.map (typedRegs (modeType m))).flatten else ops) fun w =>
      match typedCheck m types ops with
      | some code => .error code
      | none => .ok (f w)

/-- Clocks of float arithmetic under a type (R103). -/
def typeClocks (m : BitVec 16) : Nat := if modeType m = 5 then 2 else 1

end Sys2Proof.Machine
end

