-- ==== Sys2Proof/Machine/Convert.lean ====
section
/-!
DEFINITION. Special functions, conversions, scaling, narrow formats, dot products and ternary instructions
(R62, R130 to R139).
-/

namespace Sys2Proof.Machine

/-! ### Special functions (R130) -/

/-- An SFU instruction (R62, R92, R103). -/
def sfuInstr (s : State) (i : Instr) (fn : SfuFn) (types : List Nat) (d a : BitVec 7) :
    Host.Outcome State Fault Refusal :=
  typedInstr s i types [d, a] fun w =>
    let m := w.mode
    let r := typedRes m d [w.typed a] (fun _ => 0) fun f xs => sfu fn f (modeRound m) (modeFlush m) (xs.headD 0)
    { reads := typedRegs (modeType m) a, writes := r.1, flags := r.2, unit := .sfu
      clocks := if modeType m = 2 then 4 else 8 }

/-- `rcp` (R62, R130). -/
def execRcp (d a : BitVec 7) (s : State) : Host.Outcome State Fault Refusal :=
  sfuInstr s (.rcp d a) .rcp [2, 3, 4, 5] d a

/-- `rsq` (R62, R130). -/
def execRsq (d a : BitVec 7) (s : State) : Host.Outcome State Fault Refusal :=
  sfuInstr s (.rsq d a) .rsq [2, 3, 4, 5] d a

/-- `sqrt` (R62, R130). -/
def execSqrt (d a : BitVec 7) (s : State) : Host.Outcome State Fault Refusal :=
  sfuInstr s (.sqrt d a) .sqrt [2, 3, 4, 5] d a

/-- `ex2` (R62, R130). -/
def execEx2 (d a : BitVec 7) (s : State) : Host.Outcome State Fault Refusal :=
  sfuInstr s (.ex2 d a) .ex2 [2, 3, 4] d a

/-- `lg2` (R62, R130). -/
def execLg2 (d a : BitVec 7) (s : State) : Host.Outcome State Fault Refusal :=
  sfuInstr s (.lg2 d a) .lg2 [2, 3, 4] d a

/-- `sinpi` (R62, R130). -/
def execSinpi (d a : BitVec 7) (s : State) : Host.Outcome State Fault Refusal :=
  sfuInstr s (.sinpi d a) .sinpi [2, 3, 4] d a

/-- `cospi` (R62, R130). -/
def execCospi (d a : BitVec 7) (s : State) : Host.Outcome State Fault Refusal :=
  sfuInstr s (.cospi d a) .cospi [2, 3, 4] d a

/-- `tanh` (R62, R130). -/
def execTanh (d a : BitVec 7) (s : State) : Host.Outcome State Fault Refusal :=
  sfuInstr s (.tanh d a) .tanh [2, 3, 4] d a

/-! ### Conversions (R131, R132) -/

/-- A code and flags as a word. -/
def codeWord (r : Nat × Nat) : Word × Nat := (BitVec.ofNat 32 r.1, r.2)

/-- A conversion of one register into one (R131), in one clock. DEDUCED, log 89. -/
def cvtInstr (s : State) (i : Instr) (d a : BitVec 7) (f : BitVec 16 → Word → Word × Nat) :
    Host.Outcome State Fault Refusal :=
  laneFree s i [d, a] fun w =>
    let r := mapR [w.reg a] (on1W (f w.mode))
    { reads := [a], writes := [(d, r.reg)], flags := r.flags }
where
  on1W (g : Word → Word × Nat) (xs : List Word) : Word × Nat :=
    match xs with
    | [x] => g x
    | _ => (0, 0)

/-- Rounding of a value into a format under MODE, with SATN where the format narrows (R54, R131). -/
def toFmt (m : BitVec 16) (f : FFmt) (narrow : Bool) (v : FVal) : Nat × Nat :=
  v.toFmt f (modeRound m) (modeFlush m) (narrow && modeSat m)

/-- `cvt.f32.i32`: a signed integer rounded (R131). -/
def execCvtF32I32 (d a : BitVec 7) (s : State) : Host.Outcome State Fault Refusal :=
  cvtInstr s (.cvtF32I32 d a) d a fun m x => codeWord (toFmt m .f32 false (.ofInt x.toInt))

/-- `cvt.f32.u32`: an unsigned integer rounded (R131). -/
def execCvtF32U32 (d a : BitVec 7) (s : State) : Host.Outcome State Fault Refusal :=
  cvtInstr s (.cvtF32U32 d a) d a fun m x => codeWord (toFmt m .f32 false (.ofInt x.toNat))

/-- `cvt.i32.f32`: a rounded to a signed integer (R55, R131). -/
def execCvtI32F32 (d a : BitVec 7) (s : State) : Host.Outcome State Fault Refusal :=
  cvtInstr s (.cvtI32F32 d a) d a fun m x => (fval .f32 (modeFlush m) x.toNat).toInt true (modeRound m) (modeSat m)

/-- `cvt.u32.f32`: a rounded to an unsigned integer (R55, R131). -/
def execCvtU32F32 (d a : BitVec 7) (s : State) : Host.Outcome State Fault Refusal :=
  cvtInstr s (.cvtU32F32 d a) d a fun m x => (fval .f32 (modeFlush m) x.toNat).toInt false (modeRound m) (modeSat m)

/-- `cvt.f32.f16`: element 0 widened (R131). -/
def execCvtF32F16 (d a : BitVec 7) (s : State) : Host.Outcome State Fault Refusal :=
  cvtInstr s (.cvtF32F16 d a) d a fun m x => codeWord (toFmt m .f32 false (fval .f16 (modeFlush m) (bitsOf x.toNat 0 16)))

/-- `cvt.f32.f16h`: element 1 widened (R131). -/
def execCvtF32F16h (d a : BitVec 7) (s : State) : Host.Outcome State Fault Refusal :=
  cvtInstr s (.cvtF32F16h d a) d a fun m x => codeWord (toFmt m .f32 false (fval .f16 (modeFlush m) (bitsOf x.toNat 16 16)))

/-- `cvt.f16x2.f32`: binary16 of a and of b (R131). -/
def execCvtF16x2F32 (d a b : BitVec 7) (s : State) : Host.Outcome State Fault Refusal :=
  laneFree s (.cvtF16x2F32 d a b) [d, a, b] fun w =>
    let r := mapR [w.reg a, w.reg b] (packTwo w.mode .f16)
    { reads := [a, b], writes := [(d, r.reg)], flags := r.flags }
where
  packTwo (m : BitVec 16) (f : FFmt) (xs : List Word) : Word × Nat :=
    match xs with
    | [x, y] =>
      let lo := toFmt m f true (fval .f32 (modeFlush m) x.toNat)
      let hi := toFmt m f true (fval .f32 (modeFlush m) y.toNat)
      (BitVec.ofNat 32 (lo.1 + 65536 * hi.1), lo.2 ||| hi.2)
    | _ => (0, 0)

/-- A conversion of one register into a pair (R132). -/
def cvtToPair (s : State) (i : Instr) (d a : BitVec 7) (f : BitVec 16 → Word → Nat × Nat) :
    Host.Outcome State Fault Refusal :=
  laneFree s i [d, regFrom d 1, a] fun w =>
    let r := mapP [w.reg a] fun xs => let y := f w.mode (xs.headD 0); (splitVal y.1, y.2)
    { reads := [a], writes := [(d, r.1), (regFrom d 1, r.2.1)], flags := r.2.2, clocks := 2 }

/-- A conversion of a pair into one register (R132). -/
def cvtFromPair (s : State) (i : Instr) (d a : BitVec 7) (f : BitVec 16 → FVal → Word × Nat) :
    Host.Outcome State Fault Refusal :=
  laneFree s i [d, a, regFrom a 1] fun w =>
    let r := mapR [w.reg a, w.reg (regFrom a 1)] fun xs =>
      f w.mode (fval .f64 (modeFlush w.mode) ((pairVals xs).headD 0))
    { reads := [a, regFrom a 1], writes := [(d, r.reg)], flags := r.flags, clocks := 2 }

/-- `cvt.f64.f32` (R132). -/
def execCvtF64F32 (d a : BitVec 7) (s : State) : Host.Outcome State Fault Refusal :=
  cvtToPair s (.cvtF64F32 d a) d a fun m x => toFmt m .f64 false (fval .f32 (modeFlush m) x.toNat)

/-- `cvt.f64.i32` (R132). -/
def execCvtF64I32 (d a : BitVec 7) (s : State) : Host.Outcome State Fault Refusal :=
  cvtToPair s (.cvtF64I32 d a) d a fun m x => toFmt m .f64 false (.ofInt x.toInt)

/-- `cvt.f64.u32` (R132). -/
def execCvtF64U32 (d a : BitVec 7) (s : State) : Host.Outcome State Fault Refusal :=
  cvtToPair s (.cvtF64U32 d a) d a fun m x => toFmt m .f64 false (.ofInt x.toNat)

/-- `cvt.f32.f64` (R54, R132). -/
def execCvtF32F64 (d a : BitVec 7) (s : State) : Host.Outcome State Fault Refusal :=
  cvtFromPair s (.cvtF32F64 d a) d a fun m v => codeWord (toFmt m .f32 true v)

/-- `cvt.i32.f64` (R55, R132). -/
def execCvtI32F64 (d a : BitVec 7) (s : State) : Host.Outcome State Fault Refusal :=
  cvtFromPair s (.cvtI32F64 d a) d a fun m v => v.toInt true (modeRound m) (modeSat m)

/-- `cvt.u32.f64` (R55, R132). -/
def execCvtU32F64 (d a : BitVec 7) (s : State) : Host.Outcome State Fault Refusal :=
  cvtFromPair s (.cvtU32F64 d a) d a fun m v => v.toInt false (modeRound m) (modeSat m)

/-! ### Scaling (R133) -/

/-- An element scaled by an E8M0 byte, rounded once (R133). -/
def sclElem (m : BitVec 16) (f : FFmt) (e x : Nat) : Nat × Nat :=
  let v := fval f (modeFlush m) x
  if e = 0xFF then (fmtNaN f, fNV)
  else toFmt m f false (v.scale ((e : Int) - 127))

/-- `scl` by byte s of b (R133), in one clock under every type. DEDUCED, log 89. -/
def execScl (d a b : BitVec 7) (sb : BitVec 2) (s : State) : Host.Outcome State Fault Refusal :=
  onWave s fun wi =>
    let t := modeType (s.wave wi).mode
    laneInstr s (.scl d a b sb) (b :: (typedRegs t d ++ typedRegs t a)) fun w =>
      match typedCheck w.mode [2, 3, 4, 5] [d, a] with
      | some code => .error code
      | none =>
        let byte (x : Word) : Nat := bitsOf x.toNat (8 * sb.toNat) 8
        match typeFmt t with
        | some .f64 =>
          let r := mapP [w.reg b, w.reg a, w.reg (regFrom a 1)] fun xs => match xs with
            | [e, lo, hi] => let y := sclElem w.mode .f64 (byte e) (pairVal lo hi); (splitVal y.1, y.2)
            | _ => ((0, 0), 0)
          .ok { reads := [b, a, regFrom a 1], writes := [(d, r.1), (regFrom d 1, r.2.1)], flags := r.2.2 }
        | some f =>
          let r := mapR [w.reg b, w.reg a] fun xs => match xs with
            | [e, x] => floatLane f (fun ys => sclElem w.mode f (byte e) (ys.headD 0)) [x]
            | _ => (0, 0)
          .ok { reads := [b, a], writes := [(d, r.reg)], flags := r.flags }
        | none => .error 6

/-! ### Narrow formats (R134, R135) -/

/-- `cvt.pack` into a narrow format, the results shifted into d from the top (R134). -/
def packInstr (s : State) (i : Instr) (d a b : BitVec 7) (f : FFmt) (width : Nat) :
    Host.Outcome State Fault Refusal :=
  laneFree s i [d, a, b] fun w =>
    let r := mapR [w.reg d, w.reg a, w.reg b] fun xs => match xs with
      | [z, x, y] =>
        let p := toFmt w.mode f true (fval .f32 (modeFlush w.mode) x.toNat)
        let q := toFmt w.mode f true (fval .f32 (modeFlush w.mode) y.toNat)
        (BitVec.ofNat 32 (z.toNat / 2 ^ (2 * width) + q.1 * 2 ^ (32 - width) + p.1 * 2 ^ (32 - 2 * width)), p.2 ||| q.2)
      | _ => (0, 0)
    { reads := [d, a, b], writes := [(d, r.reg)], flags := r.flags }

/-- `cvt.e4m3.f32` (R134). -/
def execCvtE4m3F32 (d a b : BitVec 7) (s : State) : Host.Outcome State Fault Refusal :=
  packInstr s (.cvtE4m3F32 d a b) d a b .e4m3 8

/-- `cvt.e5m2.f32` (R134). -/
def execCvtE5m2F32 (d a b : BitVec 7) (s : State) : Host.Outcome State Fault Refusal :=
  packInstr s (.cvtE5m2F32 d a b) d a b .e5m2 8

/-- `cvt.e2m1.f32` (R134). -/
def execCvtE2m1F32 (d a b : BitVec 7) (s : State) : Host.Outcome State Fault Refusal :=
  packInstr s (.cvtE2m1F32 d a b) d a b .e2m1 4

/-- `cvt.bf16x2.f32`: d is not read (R134). -/
def execCvtBf16x2F32 (d a b : BitVec 7) (s : State) : Host.Outcome State Fault Refusal :=
  laneFree s (.cvtBf16x2F32 d a b) [d, a, b] fun w =>
    let r := mapR [w.reg a, w.reg b] (execCvtF16x2F32.packTwo w.mode .bf16)
    { reads := [a, b], writes := [(d, r.reg)], flags := r.flags }

/-- `cvt.unpack`: one element of a, chosen by b, widened (R135). -/
def unpackInstr (s : State) (i : Instr) (d a b : BitVec 7) (f : FFmt) (width n : Nat) :
    Host.Outcome State Fault Refusal :=
  laneFree s i [d, a, b] fun w =>
    let r := mapR [w.reg a, w.reg b] fun xs => match xs with
      | [x, y] => codeWord (toFmt w.mode .f32 false
          (fval f (modeFlush w.mode) (bitsOf x.toNat (width * (y.toNat % n)) width)))
      | _ => (0, 0)
    { reads := [a, b], writes := [(d, r.reg)], flags := r.flags }

/-- `cvt.f32.e4m3` (R135). -/
def execCvtF32E4m3 (d a b : BitVec 7) (s : State) : Host.Outcome State Fault Refusal :=
  unpackInstr s (.cvtF32E4m3 d a b) d a b .e4m3 8 4

/-- `cvt.f32.e5m2` (R135). -/
def execCvtF32E5m2 (d a b : BitVec 7) (s : State) : Host.Outcome State Fault Refusal :=
  unpackInstr s (.cvtF32E5m2 d a b) d a b .e5m2 8 4

/-- `cvt.f32.e2m1` (R135). -/
def execCvtF32E2m1 (d a b : BitVec 7) (s : State) : Host.Outcome State Fault Refusal :=
  unpackInstr s (.cvtF32E2m1 d a b) d a b .e2m1 4 8

/-- `cvt.f32.bf16x2` (R135). -/
def execCvtF32Bf16x2 (d a b : BitVec 7) (s : State) : Host.Outcome State Fault Refusal :=
  unpackInstr s (.cvtF32Bf16x2 d a b) d a b .bf16 16 2

/-! ### Dot products (R136, R137) -/

/-- The elements of a lane, element 0 first (R49). -/
def elems (width n : Nat) (x : Word) : List Nat := (List.range n).map fun j => bitsOf x.toNat (width * j) width

/-- An integer dot product (R136): d + the sum of products, wrapped or clamped. -/
def dotInt (s : State) (i : Instr) (d a b : BitVec 7) (width n : Nat) (signed : Bool) :
    Host.Outcome State Fault Refusal :=
  laneFree s i [d, a, b] fun w =>
    let v (k x : Nat) : Int := if signed then sext k x else x
    let r := mapR [w.reg d, w.reg a, w.reg b] fun xs => match xs with
      | [z, x, y] => codeWord (wrapOrClamp 32 signed (modeSat w.mode)
          (((elems width n x).zip (elems width n y)).foldl (fun acc p => acc + v width p.1 * v width p.2) (v 32 z.toNat)))
      | _ => (0, 0)
    { reads := [d, a, b], writes := [(d, r.reg)], flags := r.flags }

/-- `dot4.i8` (R136). -/
def execDot4I8 (d a b : BitVec 7) (s : State) : Host.Outcome State Fault Refusal :=
  dotInt s (.dot4I8 d a b) d a b 8 4 true

/-- `dot4.u8` (R136). -/
def execDot4U8 (d a b : BitVec 7) (s : State) : Host.Outcome State Fault Refusal :=
  dotInt s (.dot4U8 d a b) d a b 8 4 false

/-- `dot8.i4` (R136). -/
def execDot8I4 (d a b : BitVec 7) (s : State) : Host.Outcome State Fault Refusal :=
  dotInt s (.dot8I4 d a b) d a b 4 8 true

/-- The terms of a float dot product in one lane (R137). -/
def dotTerms (m : BitVec 16) (fa fb : FFmt) (width n : Nat) (z x y : Word) : List FVal :=
  fval .f32 (modeFlush m) z.toNat ::
    ((elems width n x).zip (elems width n y)).map fun p => (fval fa false p.1).mul (fval fb false p.2)

/-- A float dot product: one exact sum, rounded once (R58 to R60, R137). -/
def dotFloat (s : State) (i : Instr) (d a b : BitVec 7) (fa fb : FFmt) (width n : Nat) :
    Host.Outcome State Fault Refusal :=
  laneFree s i [d, a, b] fun w =>
    let terms (xs : List Word) : List FVal := match xs with
      | [z, x, y] => dotTerms w.mode fa fb width n z x y
      | _ => []
    let rs := [w.reg d, w.reg a, w.reg b]
    let r := mapR rs fun xs => codeWord (sumRound .f32 (modeRound w.mode) (modeFlush w.mode) (terms xs))
    { reads := [d, a, b], writes := [(d, r.reg)], flags := r.flags
      slow := (lanesOf w.active).any fun l => slowSum (terms (rs.map fun x => x.lane l)) }

/-- The FP8 formats of a pair field (R93): A's, B's. -/
def pairFmt (p : Nat) : FFmt × FFmt :=
  (if p < 2 then .e4m3 else .e5m2, if p % 2 = 0 then .e4m3 else .e5m2)

/-- `dot4.f8` (R137). -/
def execDot4F8 (d a b : BitVec 7) (p : BitVec 2) (s : State) : Host.Outcome State Fault Refusal :=
  dotFloat s (.dot4F8 d a b p) d a b (pairFmt p.toNat).1 (pairFmt p.toNat).2 8 4

/-- `dot8.f4` (R137). -/
def execDot8F4 (d a b : BitVec 7) (s : State) : Host.Outcome State Fault Refusal :=
  dotFloat s (.dot8F4 d a b) d a b .e2m1 .e2m1 4 8

/-! ### Ternary formats (R50, R138, R139) -/

/-- Digit `m` of a T3 byte; a reserved code gives zeros (R50). -/
def t3Digit (byte m : Nat) : Nat := if 243 ≤ byte then 0 else byte / 3 ^ m % 3

/-- The INT8 value of a trit (R50). -/
def t3Val (digit : Nat) : Nat := if digit = 0 then 0 else if digit = 1 then 1 else 0xFF

/-- Trits 4q to 4q + 3 of a lane (R138): value and flags. -/
def t3xLane (q : Nat) (x : Word) : Word × Nat :=
  let byte (t : Nat) : Nat := bitsOf x.toNat (8 * (t / 5)) 8
  let ts := (List.range 4).map fun j => 4 * q + j
  (leWord (ts.map fun t => BitVec.ofNat 8 (t3Val (t3Digit (byte t) (t % 5)))),
    if ts.any fun t => 243 ≤ byte t then fT3R else 0)

/-- `t3x` (R138). -/
def execT3x (d a : BitVec 7) (q : BitVec 3) (s : State) : Host.Outcome State Fault Refusal :=
  laneFree s (.t3x d a q) [d, a] fun w =>
    let r := mapR [w.reg a] fun xs => t3xLane q.toNat (xs.headD 0)
    { reads := [a], writes := [(d, r.reg)], flags := r.flags }

/-- One element packed into a lane (R139): the lane and flags so far. -/
def t3pkElem (sat : Bool) (q : Nat) (x : Word) (acc : Nat × Nat) (j : Nat) : Nat × Nat :=
  let t := 4 * q + j
  let k := t / 5
  let m := t % 5
  let v := sext 8 (bitsOf x.toNat (8 * j) 8)
  let (v, f) : Int × Nat := if v < -1 ∨ 1 < v then (if sat then (if v < 0 then -1 else 1, fSAT) else (0, fNV)) else (v, 0)
  let byte := bitsOf acc.1 (8 * k) 8
  let old := if 243 ≤ byte then 0 else byte
  let digit := if v = 0 then 0 else if v = 1 then 1 else 2
  let byte' := old - t3Digit old m * 3 ^ m + digit * 3 ^ m
  (acc.1 - byte * 2 ^ (8 * k) + byte' * 2 ^ (8 * k), acc.2 ||| f ||| (if 243 ≤ byte then fT3R else 0))

/-- `t3pk` (R139). -/
def execT3pk (d a : BitVec 7) (q : BitVec 3) (s : State) : Host.Outcome State Fault Refusal :=
  laneFree s (.t3pk d a q) [d, a] fun w =>
    let r := mapR [w.reg d, w.reg a] fun xs => match xs with
      | [z, x] => codeWord ((List.range 4).foldl (t3pkElem (modeSat w.mode) q.toNat x) (z.toNat, 0))
      | _ => (0, 0)
    { reads := [d, a], writes := [(d, r.reg)], flags := r.flags }

end Sys2Proof.Machine
end

