-- ==== Sys2Proof/Machine/Translate.lean ====
section
/-!
DEFINITION. Main memory: owners, translation sites, region attributes, table walks, discarded pages, posted faults,
and the fetching of code (R149 to R151, R201, R272 to R279).
-/

namespace Sys2Proof.Machine

/-! ### Addresses (R272, R274) -/

/-- The owner of a main-memory address: its module and die (R272). -/
def owner (va : Nat) : Nat × Nat := (bitsOf va 47 10, bitsOf va 46 1)

def windowOf (va : Nat) : Nat := bitsOf va 40 6
def offsetOf (va : Nat) : Nat := bitsOf va 0 40

/-- The site that translates an address, of its owner die (R274). -/
def siteOf (va : Nat) : Nat := bitsOf va 12 2 ^^^ bitsOf va 21 2 ^^^ bitsOf va 30 2

/-- The owners that an interface may name (R272, R311). -/
def State.mayName (s : State) (vi : Nat) (o : Nat × Nat) : Bool :=
  (s.vi vi).desc.fabric.contains o || (o.1 == s.moduleNo && (s.vi vi).desc.cores.any fun c => c.die == o.2)

/-! ### Region attributes (R275, R276) -/

def rafField (e : BitVec 128) (lo n : Nat) : Nat := bitsOf e.toNat lo n

/-- Offset bits of a page of the region's size. -/
def pageBits (e : BitVec 128) : Nat :=
  match rafField e 8 2 with
  | 0 => 12 | 1 => 16 | 2 => 21 | _ => 30

def rafBase (e : BitVec 128) : Nat := rafField e 72 28
def rafLimit (e : BitVec 128) : Nat := rafField e 100 28

/-- The entry as the site treats it (R276). DEDUCED, log 52. -/
def rafValid (e : BitVec 128) : Bool :=
  let unit := 2 ^ (pageBits e - 12)
  e.getLsbD 0 && rafBase e ≤ rafLimit e && rafBase e % unit == 0 && (rafLimit e + 1) % unit == 0

/-- The valid region that governs an address under an ASID on a die. DEDUCED, log 52. -/
def State.regionOf (s : State) (die asid va : Nat) : Option (BitVec 128) :=
  match ((s.die die).raf.find? fun x => x.1 == asid && x.2.1 == windowOf va).map (·.2.2) with
  | none => none
  | some e =>
    let u := offsetOf va / 4096
    if rafValid e && rafBase e ≤ u && u ≤ rafLimit e then some e else none

def Want.bit : Want → Nat
  | .read => 2 | .write => 3 | .fetch => 4

/-- The outcome of a translation: a physical address, with whether its page is discarded, or why there is none. -/
inductive Xlat where
  | frame (pa : Nat) (dsc : Bool)
  | unmapped
  | perm
  | miss
  deriving DecidableEq, Repr

/-! ### Walks (R277, R278) -/

/-- Index widths of the tables below the root, from the root down (R277). -/
def lowerTables (pb : Nat) : List Nat :=
  match pb with
  | 12 => [9, 0] | 16 => [9, 0] | 21 => [0] | _ => []

/-- The table indices of an address, root first. -/
def walkIndices (pb off : Nat) : List Nat :=
  let p := off / 2 ^ pb
  let lower := (lowerTables pb).map fun lo => bitsOf p lo 9
  p / 2 ^ (9 * lower.length) :: lower

/-- An entry that the walk may use (R278). -/
def entryOk (x : Nat) : Bool := bitsOf x 0 1 == 1 && bitsOf x 39 25 == 0 && bitsOf x 3 9 == 0 && bitsOf x 1 1 == 0

/-- Walk the tables from a base: the address and value of the leaf, or none where an entry is not valid. -/
def walk (m : Memory) : Nat → List Nat → Option (Nat × Nat)
  | _, [] => none
  | base, i :: is =>
    let a := base + 8 * i
    let x := leNat (m.readN a 8)
    if !entryOk x then none
    else match is with
      | [] => some (a, x)
      | _ => walk m (bitsOf x 12 27 * 4096) is

/-- The first address of the page of an address. -/
def pageOf (pb va : Nat) : Nat := va / 2 ^ pb * 2 ^ pb

/-- A translation held at the address's site. -/
def State.tlbHit (s : State) (die asid va : Nat) : Option TlbEntry :=
  ((s.die die).tlb.getD (siteOf va) []).find? fun t =>
    t.asid == asid && t.win == windowOf va && t.page == offsetOf va / 2 ^ t.size

/-- Hold a translation at its site; a full TLB gives up its oldest entry. DEDUCED, log 53. -/
def holdTlb (s : State) (die site : Nat) (t : TlbEntry) : State :=
  s.modDie die fun d => { d with tlb := d.tlb.modify site fun l => (t :: l).take 16384 }

/-- A fault is posted for the page of an address at its site (R278). -/
def State.faultPosted (s : State) (die asid va : Nat) : Bool :=
  let pb := match s.regionOf die asid va with
    | some e => pageBits e
    | none => 12
  (s.die die).faults.any fun x => x.site == siteOf va && x.asid == asid && x.va == pageOf pb va

/-- Translate an address at its owner die (R274 to R279): a request whose page has a fault posted waits on it. -/
def translate (s : State) (die asid va : Nat) (want : Want) : State × Xlat :=
  match s.regionOf die asid va with
  | none => (s, .unmapped)
  | some e =>
    let pb := pageBits e
    let off := offsetOf va
    if !e.getLsbD want.bit then (s, .perm)
    else match s.tlbHit die asid va with
      | some t => if t.dsc && !e.getLsbD 6 then (s, .perm) else (s, .frame (t.frame + off % 2 ^ t.size) t.dsc)
      | none =>
        if s.faultPosted die asid va then (s, .miss)
        else match walk (s.die die).hbm (rafField e 46 26 * 8192) (walkIndices pb off) with
        | none => (s, .miss)
        | some (a, x) =>
          let frame := bitsOf x 12 27 * 4096
          let dsc := bitsOf x 2 1 == 1
          if frame % 2 ^ pb ≠ 0 then (s, .miss)
          else
            let s := holdTlb s die (siteOf va)
              { asid := asid, win := windowOf va, page := off / 2 ^ pb, size := pb, frame := frame, dsc := dsc, leaf := a }
            if dsc && !e.getLsbD 6 then (s, .perm) else (s, .frame (frame + off % 2 ^ pb) dsc)

/-- Take translations of a window, or of one page, out of a die's sites (R276, R278). -/
def dropTlb (s : State) (die asid : Nat) (p : TlbEntry → Bool) : State :=
  s.modDie die fun d => { d with tlb := d.tlb.map fun l => l.filter fun t => !(t.asid == asid && p t) }

/-- A miss posts one fault for each page and site, naming the copies that wait on it (R278). -/
def postFault (s : State) (die asid va : Nat) (kind : Want) (copy : Option Nat) : State :=
  let pb := match s.regionOf die asid va with
    | some e => pageBits e
    | none => 12
  let page := pageOf pb va
  let names : List (Nat × Nat) := copy.toList.map fun c => (c, va)
  let here (x : XFault) : Bool := x.site == siteOf va && x.asid == asid && x.va == page
  let join (x : XFault) : XFault :=
    if here x then { x with copies := x.copies ++ names.filter fun y => !x.copies.contains y } else x
  if s.faultPosted die asid va then s.modDie die fun d => { d with faults := d.faults.map join }
  else
    (s.modDie die fun d => { d with faults := d.faults ++ [⟨siteOf va, asid, page, kind, names⟩] }).post
      (.xfault die asid va)

/-- Give up the table address of a leaf, walking as the site does, whatever the leaf holds (R277). -/
def leafAt (m : Memory) : Nat → List Nat → Option Nat
  | _, [] => none
  | base, [i] => some (base + 8 * i)
  | base, i :: is =>
    let x := leNat (m.readN (base + 8 * i) 8)
    if entryOk x then leafAt m (bitsOf x 12 27 * 4096) is else none

/-- The address of the leaf that governs a page. -/
def State.leafOf (s : State) (die asid va : Nat) : Option Nat :=
  match s.regionOf die asid va with
  | none => none
  | some e => leafAt (s.die die).hbm (rafField e 46 26 * 8192) (walkIndices (pageBits e) (offsetOf va))

/-! ### Bytes of main memory (R155, R279) -/

/-- Bytes read from a translated address: a discarded page reads as zeros, and each line read is counted (R279).
DEDUCED, log 70. -/
def mainRead (s : State) (vi die pa n : Nat) (dsc : Bool) : State × Bytes :=
  if dsc then (s.modVi vi fun v => { v with dzread := (v.dzread + 1) % 2 ^ 64 }, List.replicate n 0)
  else (s, (s.die die).hbm.readN pa n)

/-- The frame of a page, its size and its leaf: as its site holds them, or as the table has them. -/
def State.pageFrame (s : State) (die asid va : Nat) : Option (Nat × Nat × Nat) :=
  match s.tlbHit die asid va, s.regionOf die asid va, s.leafOf die asid va with
  | some t, _, _ => some (t.frame, t.size, t.leaf)
  | none, some e, some a => some (bitsOf (leNat ((s.die die).hbm.readN a 8)) 12 27 * 4096, pageBits e, a)
  | _, _, _ => none

/-- Revive the discarded page of an address: zeros in its frame, DSC clear in the leaf and at the sites (R279). -/
def revive (s : State) (die asid va : Nat) : State :=
  match s.pageFrame die asid va with
  | none => s
  | some (frame, size, a) =>
    s.modDie die fun d =>
      let leaf := leNat (d.hbm.readN a 8)
      let hbm := (d.hbm.clear frame (frame + 2 ^ size)).writeN a (natLe 8 (leaf - 4 * bitsOf leaf 2 1))
      { d with hbm := hbm, tlb := d.tlb.map fun l => l.map fun x => if x.leaf == a then { x with dsc := false } else x }

/-- Bytes written at a physical address; a full write of a line clears its mark (R238). -/
def State.hbmWrite (s : State) (die pa : Nat) (bs : Bytes) : State :=
  s.modDie die fun d =>
    { d with hbm := d.hbm.writeN pa bs
             marked := d.marked.filter fun m => match m.1 with
               | .main e l => !(e == die && pa ≤ 64 * l && 64 * l + 64 ≤ pa + bs.length)
               | _ => true }

/-- Bytes written at a translated address; a write to a discarded page revives it first (R279). -/
def mainWrite (s : State) (die asid va pa : Nat) (dsc : Bool) (bs : Bytes) : State :=
  let s := if dsc then revive s die asid va else s
  s.hbmWrite die pa bs

/-! ### Code (R150, R151, R274) -/

/-- The bytes of a code block as they stand in main memory. -/
def State.codeNow (s : State) (vi die asid va : Nat) : Option Bytes :=
  match (translate s die asid va .fetch).2 with
  | .frame pa dsc => some (mainRead s vi die pa 32 dsc).2
  | _ => none

/-- Fetch the word at a virtual address for a core: from its fetch buffers, or through its site (R150). A block whose
bytes have been stored is executed as it was or as it is (`Config.fetchNew`); a miss posts a fault for its page (R278).
DESIGN CHOICE, log 12. -/
def fetchWord (s : State) (vi die core asid va : Nat) : State × Option Word :=
  let base := va / 32 * 32
  let word (bs : Bytes) : Word := leWord ((bs.drop (va - base)).take 4)
  let put (s : State) (bs : Bytes) : State := s.modCore die core fun c =>
    { c with fetch := ⟨asid, base, bs⟩ :: c.fetch.filter fun b => !(b.asid == asid && b.va == base) }
  match (s.core die core).fetch.find? fun b => b.asid == asid && b.va == base with
  | some b =>
    match s.codeNow vi die asid base with
    | some bs => if bs != b.data && Config.fetchNew s.steps then (put s bs, some (word bs)) else (s, some (word b.data))
    | none => (s, some (word b.data))
  | none =>
    match translate s die asid base .fetch with
    | (s, .frame pa dsc) =>
      match mainRead s vi die pa 32 dsc with
      | (s, bs) => (put s bs, some (word bs))
    | (s, .miss) => (postFault s die asid base .fetch none, none)
    | (s, _) => (s, none)

end Sys2Proof.Machine
end

