-- ==== Sys2Proof/Machine/Access.lean ====
section
/-!
DEFINITION. What every memory operation shares after issue: its queue count and log entry, the writing of its
destinations, its trap, and its re-issue or dropping (R72, R160 to R163, R219, R234 to R237).
-/

namespace Sys2Proof.Machine

/-- A count falls in one class of a wave (R72). -/
def Wave.countDown (w : Wave) (c : QClass) (n : Nat) : Wave :=
  match c with
  | .load => { w with ql := w.ql - n }
  | .store => { w with qs := w.qs - n }
  | .copy => { w with qx := w.qx - n }
  | .tile => { w with qt := w.qt - n }

def Wave.countUp (w : Wave) (c : QClass) (n : Nat) : Wave :=
  match c with
  | .load => { w with ql := w.ql + n }
  | .store => { w with qs := w.qs + n }
  | .copy => { w with qx := w.qx + n }
  | .tile => { w with qt := w.qt + n }

def Wave.counter (w : Wave) : QClass → Nat
  | .load => w.ql | .store => w.qs | .copy => w.qx | .tile => w.qt

/-- The instruction would take its class above its depth (R73). -/
def Wave.overDepth (w : Wave) (c : QClass) (n : Nat) : Bool := Config.depth c < w.counter c + n

/-- An operation's count falls by `n`, as far as it is still counted. -/
def countDown (s : State) (oi n : Nat) : State :=
  let o := s.op oi
  let n := Nat.min n o.counted
  match o.cls with
  | some c =>
    (s.modWave o.wave fun w => w.countDown c n).modOp oi fun o => { o with counted := o.counted - n }
  | none => s

/-- The operation's log entry and full-vector entries are free again (R162). -/
def releaseLog (s : State) (oi : Nat) : State :=
  let o := s.op oi
  (s.modWave o.wave fun w =>
    { w with log := w.log.map (fun e => if e == some oi then none else e)
             full := w.full.map (fun e => if e == some oi then none else e) }).modOp oi fun o =>
      { o with logIx := none, fullIx := [] }

/-- The accesses of an operation. -/
def State.opAccs (s : State) (oi : Nat) : List Acc := s.accs.filter fun a => a.op == oi && a.kind != .engine

/-- Pending bits clear; a slot taken at issue and not used returns to the list (R74, R163). -/
def Wave.unpend (w : Wave) (dst : List (BitVec 7)) : Wave :=
  { w with
    pend := w.pend.filter fun d => !dst.contains d
    slots := dst.foldl (fun l d => if (w.reg d).isV then l else freeSlot l d) w.slots }

/-- The value of destination `j` in a lane, from the bytes received (R166). -/
def gotWord (bs : Bytes) (j : Nat) : Word := leWord ((bs.drop (4 * j)).take 4)

/-- The contents that destination `j` receives (R160, R165); lanes with no access take a free value. -/
def State.received (s : State) (oi j : Nat) : Reg :=
  let o := s.op oi
  if o.uniform then .u (gotWord ((o.got.head?.map (·.2)).getD []) j)
  else Reg.ofFn fun i => match o.got.lookup i with
    | some bs => gotWord bs j
    | none => Config.absentLane s.steps i

/-- The destinations of a load or atomic are written, or keep their contents when it was dropped or voided
(R39 to R41, R160, R163, R301). DESIGN CHOICE, log 9. -/
def writeDests (s : State) (oi : Nat) : State :=
  let o := s.op oi
  let w := s.wave o.wave
  let act := o.guard &&& w.pm
  let ws := o.dst.mapIdx fun j d => (d, guardedWrite w.pm act (w.reg d) (s.received oi j))
  let s := if o.voided || act = 0 then s else putAll s o.wave ws
  s.modWave o.wave fun w => w.unpend o.dst

/-- What follows when an access of an operation has moved on: its count, its destinations, its log entry. -/
def settle (s : State) (oi : Nat) : State :=
  let o := s.op oi
  let as := s.opAccs oi
  match o.cls with
  | some .load =>
    if as.all Acc.isOver then releaseLog (countDown (writeDests s oi) oi 1) oi else s
  | some .store =>
    let s := if as.all fun a => a.left || a.isOver then countDown s oi 1 else s
    if as.all Acc.isOver then releaseLog s oi else s
  | some .copy => if as.all Acc.isOver then releaseLog s oi else s
  | _ => s

/-- SPACE of the side buffer (R232). -/
def spaceCode : Space → Nat
  | .shared => 0 | .scratch => 1 | .spill => 2 | .aperture => 3

/-- LOGIX of an operation (R232). -/
def MemOp.logix (o : MemOp) : Nat :=
  o.logIx.getD 0x3F + 256 * (o.fullIx.foldl (fun acc i => acc + 2 ^ i) 0)

/-- The lane addresses of the lanes that failed, where the class gives them (R232, R260). -/
def laneAddrs (a : Acc) (lanes : Word) : List (Nat × Nat) :=
  (a.lanes.filter fun l => bit lanes l.lane).map fun l => (l.lane, l.addr)

/-- An access that failed at its home traps, or is held while its wave is in trap mode (R163, R230, R234, R235).
The counter load of `waitc` is made afresh when the wave resumes there (R177, R234). An access whose wave has ended
is dropped. DEDUCED, log 27. -/
def accessTrap (s : State) (ai : Nat) (cls : TrapClass) (code : Nat) (lanes : Word) (detail : List Nat) : State :=
  let a := s.acc ai
  let o := s.op a.op
  let w := s.wave a.wave
  let what : TrapWhat := if a.kind == .counter then .none else if a.kind == .start then .start ai else .access ai
  let s := s.modAcc ai fun a => { a with fail := some (cls, code, lanes, detail) }
  if w.ended then settle (s.modAcc ai fun a => { a with st := .dropped }) a.op
  else if (w.trapMode && a.op < w.trapOp) || (!w.trapMode && (w.trapHalt || w.trapDue)) then
    (s.modAcc ai fun a => { a with st := .held }).modWave a.wave fun w =>
      { w with heldAcc := w.heldAcc ++ [what], sb := setMore w.sb true }
  else
    let s := s.modAcc ai fun a => { a with st := if what = .none then .dropped else .trapped }
    takeTrap s a.wave
      { cls := cls, code := code, kind := .access, tpc := o.pc, rpc := w.pc, lanes := lanes, iword := o.word
        logix := o.logix, guard := o.guard, mode := o.mode, space := spaceCode a.space, detail := detail
        laneDetail := if cls == .soft then [] else laneAddrs a lanes, what := what }

/-- A release makes the wave's clock advance at issue: an ordered store, or an atomic at BLOCK or wider (R251). -/
def MemOp.releases (o : MemOp) : Bool := o.rel.isSome || (o.atom.getD 0) ≠ 0

/-- An access re-enters S1 after the younger ones (R219): it stands anew at the end, with what an issue reads of the race
state. A start counts in QX again, at its acceptance when QX is at its depth. DEDUCED, log 26. -/
def reissue (s : State) (ai : Nat) : State :=
  let a := s.acc ai
  let w := s.wave a.wave
  let start := a.kind == .start
  let late := start && w.overDepth .copy 1
  let s := s.modAcc ai fun a => { a with st := .dropped }
  let s := if start && !late then
      (s.modWave a.wave fun w => w.countUp .copy 1).modOp a.op fun o => { o with counted := o.counted + 1 }
    else s
  let s := if start || ((s.op a.op).releases && a.space != .spill) then s.modWave a.wave fun w => { w with rc := (w.rc + 1) % 2 ^ 22 } else s
  { s with accs := s.accs ++ [{ a with st := .queued, fail := none, left := a.left && !start, late := late
                                       clk := w.rc, gen := (s.waveBlock a.wave).gen, split := !w.tokens.isEmpty }] }

/-- The D block of a `gmma` or `mma` is released: pending bits, QT and log entry (R209, R213). -/
def tileOver (s : State) (ti : Nat) (st : TileState) : State :=
  let t := s.tile ti
  let dst := (s.op t.op).dst
  let s := (s.modTile ti fun t => { t with st := st }).modWave t.wave fun w => w.unpend dst
  releaseLog (countDown s t.op 1) t.op

/-- The tile of an operation. -/
def State.opTile (s : State) (oi : Nat) : Option Nat := (List.range s.tiles.length).find? fun i => (s.tile i).op == oi

/-- D of a `launch` is written, unless a forced write voided it, and the wave goes on (R224). -/
def launchDone (s : State) (wi : Nat) (d : BitVec 7) (x : Word) : State :=
  let off : Hold → Bool := fun h => match h with | .launch .. => false | _ => true
  let void := ((s.wave wi).holds ++ (s.wave wi).holdsOut).any fun h => match h with
    | .launch _ _ n => (s.op n).voided
    | _ => false
  s.modWave wi fun w =>
    let w := if void then w else w.put d (.u x)
    { w with holds := w.holds.filter off, holdsOut := w.holdsOut.filter off, pend := w.pend.filter (· != d)
             noFlush := true }

/-- The destination of the `launch` in progress. -/
def Wave.launching (w : Wave) : Option (BitVec 7) :=
  (w.holds ++ w.holdsOut).findSome? fun h => match h with | .launch d .. => some d | _ => none

/-- Accesses of an operation that have not taken effect are dropped, and held traps of theirs with them. -/
def dropQueued (s : State) (oi : Nat) : State :=
  let mine (a : Acc) : Bool := a.op == oi && a.kind != .engine && !a.isOver
  let wi := (s.op oi).wave
  let keep (x : TrapWhat) : Bool := match x with
    | .access a => !mine (s.acc a)
    | .start a => !mine (s.acc a)
    | _ => true
  { (s.modWave wi fun w => { w with heldAcc := w.heldAcc.filter keep }) with
    accs := s.accs.map fun a => if mine a then { a with st := .dropped } else a }

/-- Starts of an operation that still hold their QX count: neither accepted nor refused. -/
def State.startsCounted (s : State) (oi : Nat) : Nat :=
  (s.accs.filter fun a => a.op == oi && a.kind == .start && !a.late && (a.st == .queued || a.st == .accepting)).length

/-- `skip` of an access trap: every access of the instruction that has not taken effect is dropped
(R163, R214, R219, R224). DEDUCED, log 27. -/
def dropAcc (s : State) (ai : Nat) : State :=
  let a := s.acc ai
  let n := s.startsCounted a.op
  let s := dropQueued s a.op
  match a.kind with
  | .load | .atomic => settle (s.modOp a.op fun o => { o with voided := true }) a.op
  | .gather => match s.opTile a.op with
    | some ti => tileOver s ti .dropped
    | none => s
  | .scatter => match s.opTile a.op with
    | some ti => tileOver s ti .done
    | none => s
  | .record => match (s.wave a.wave).launching with
    | some d => launchDone s a.wave d 0x8000000C
    | none => s
  | .start => settle (countDown s a.op n) a.op
  | _ => settle s a.op

end Sys2Proof.Machine
end

