-- ==== Sys2Proof/Machine/Memory.lean ====
section
/-!
DEFINITION. The issue of loads, stores, ordered accesses, `spill`, `fill` and atomics: addresses, checks, queue
counts, the operand log, and the accesses that then take the steps of the ordering machine
(R72 to R75, R141, R146, R157 to R174, R296).
-/

namespace Sys2Proof.Machine

/-! ### Address checks (R140, R141, R158) -/

/-- Bytes of shared memory allocated to each slice of a wave's block (R28, R141). -/
def State.sharedAlloc (s : State) (wi : Nat) : Nat := ((s.waveKernel wi).shared + 4095) / 4096 * 4096

/-- Whether an address lies in the aperture window, its word within its channel's 4 KB, and its channel (R140). -/
def inAperture (a : Nat) : Bool := 0x20000000 ≤ a && a < 0x20008000
def apertureWord (a : Nat) : Nat := (a % 0x1000) / 4
def apertureChannel (a : Nat) : Nat := (a - 0x20000000) / 0x1000

/-- The start word of a channel (R158). -/
def isStartWord (a : Nat) : Bool := inAperture a && apertureWord a == 16

/-- The space of an address that passes the checks (R140). -/
def spaceOf (a : Nat) : Space :=
  if a < 0x00800000 then .shared else if a < 0x18000000 then .scratch else if a < 0x20000000 then .spill else .aperture

/-- The lowest code of R141 that applies to one lane's address; `plain` is an unordered 32-bit store, which raises ALIGN at
a misaligned address of the aperture's words. DEDUCED, log 92. -/
def State.memCode (s : State) (wi a width : Nat) (plain : Bool) : Option Nat :=
  let w := s.wave wi
  let misaligned : Option Nat := if a % width ≠ 0 then some 7 else none
  if a < 0x00800000 then
    if (s.waveLaunch wi).slices ≤ a / 0x80000 then some 2
    else if s.sharedAlloc wi ≤ a % 0x80000 then some 3
    else misaligned
  else if 0x10000000 ≤ a && a < 0x18000000 then
    if 0x16000000 ≤ a || s.scratchSize (s.waveLaunch wi).vi w.part.die ≤ a - 0x10000000 then some 4 else misaligned
  else if 0x18000000 ≤ a && a < 0x20000000 then
    if (s.waveKernel wi).spill ≤ a - 0x18000000 then some 5 else misaligned
  else if inAperture a then
    if plain && apertureWord a ≤ 16 then misaligned else some 6
  else some 1

/-- The lower of two codes. -/
def lowerCode (a : Option Nat) (b : Nat) : Option Nat :=
  match a with
  | some x => some (Nat.min x b)
  | none => some b

/-- The MEM code of an instruction's lanes, and the lanes that fail (R141, R158). -/
def State.memCheck (s : State) (wi width : Nat) (plain : Bool) (lanes : List (Nat × Nat)) : Option (Nat × Word) :=
  let bad := lanes.filterMap fun l => (s.memCode wi l.2 width plain).map fun c => (l.1, c)
  match bad.foldl (fun acc x => lowerCode acc x.2) none with
  | some c => some (c, maskOf fun i => bad.any fun x => x.1 == i)
  | none =>
    if plain && lanes.any (fun l => isStartWord l.2) && lanes.any (fun l => !isStartWord l.2) then
      some (8, maskOf fun i => lanes.any fun l => l.1 == i && !isStartWord l.2)
    else none

/-! ### What an instruction asks of memory -/

/-- A memory instruction, its operands read. -/
structure MemReq where
  kind : AccKind
  cls : QClass
  width : Nat
  /-- Lane and address of each access, and the bytes a lane stores or its operands. -/
  lanes : List LaneAcc
  /-- The guard as the operation keeps it (R162). -/
  guard : Word
  dst : List (BitVec 7) := []
  uniform : Bool := false
  /-- Register operands that the log holds (R162); none: it takes no entry. -/
  held : Option (List Reg) := none
  /-- An unordered 32-bit store (R141). -/
  plain : Bool := false
  acq : Option Nat := none
  rel : Option Nat := none
  atom : Option Nat := none
  fn : Nat := 0

def MemReq.pairs (r : MemReq) : List (Nat × Nat) := r.lanes.map fun l => (l.lane, l.addr)

/-- The distinct start words addressed, by rising lowest lane (R171). -/
def MemReq.starts (r : MemReq) : List Nat :=
  if r.plain then r.lanes.foldl (fun acc l => if isStartWord l.addr && !acc.contains l.addr then acc ++ [l.addr] else acc) []
  else []

/-- The class and the count that it adds (R72, R161). -/
def MemReq.count (r : MemReq) : QClass × Nat := if r.starts.isEmpty then (r.cls, 1) else (.copy, r.starts.length)

/-- Queue codes (R73). -/
def queueCode : QClass → Nat
  | .load => 1 | .store => 2 | .copy => 3 | .tile => 4

/-- QUEUES of `sreg` 0x009 (R221). -/
def Wave.queues (w : Wave) : Nat := w.ql + 2 ^ 8 * w.qs + 2 ^ 16 * w.qx + 2 ^ 24 * w.qt

def queueTrap (s : State) (wi : Nat) (word : Word) (c : QClass) : State :=
  issueTrap s wi word .queue (queueCode c) 0 [(s.wave wi).queues]

/-- The destinations that the instruction would widen (R41, R160). -/
def MemReq.widens (r : MemReq) (w : Wave) : List (BitVec 7) :=
  if r.uniform then [] else r.dst.filter fun d => !w.hasSlot d

/-- Numbers of the free entries of a part of the log (R162). -/
def freeEntries (l : List (Option Nat)) : List Nat := (List.range l.length).filter fun i => (l.getD i none).isNone

/-- The argument stores alone take no log entry (R162, R170). -/
def MemReq.logged (r : MemReq) : Option (List Reg) :=
  if !r.lanes.isEmpty && r.starts.isEmpty && r.lanes.all (fun l => inAperture l.addr) then none else r.held

/-- Full-vector entries it needs. -/
def MemReq.fulls (r : MemReq) : Nat := ((r.logged.getD []).filter Reg.isV).length

/-- It must wait for log space (R162). -/
def MemReq.logFull (r : MemReq) (w : Wave) : Bool :=
  match r.logged with
  | none => false
  | some _ =>
    if 4 < r.fulls then (freeEntries w.log).length < 40 || (freeEntries w.full).length < 4
    else (freeEntries w.log).isEmpty || (freeEntries w.full).length < r.fulls

/-- An SC access (R146). -/
def MemReq.sc (r : MemReq) (s : State) (wi : Nat) : Bool :=
  let w := s.wave wi
  r.lanes.any fun l => spaceOf l.addr == .scratch && s.inSc (s.waveLaunch wi).vi w.part.die l.addr

/-- A start store of a block marked for migration stays unissued (R245). -/
def State.startHeld (s : State) (wi : Nat) (r : MemReq) : Bool :=
  !r.starts.isEmpty && (s.waveBlock wi).migrate.isSome

/-! ### Data comparators (R296) -/

def cmpKind (c : Comparator) : Nat := bitsOf c.ctl.toNat 0 2
def cmpLen (c : Comparator) : Nat :=
  let l := bitsOf c.ctl.toNat 4 3
  if cmpKind c = 0 && l < 2 then 2 else l

/-- A comparator is armed for a wave of a launch (R295). -/
def cmpArmed (c : Comparator) (launch : Nat) : Bool :=
  c.ctl.getLsbD 31 && (!c.ctl.getLsbD 30 || c.launch.toNat == launch)

/-- The range of a comparator meets `n` bytes from an address. -/
def cmpHits (c : Comparator) (a n : Nat) : Bool :=
  let size := 2 ^ cmpLen c
  let base := c.addr.toNat / size * size
  a < base + size && base < a + n

/-- Data comparators that match these bytes, accessed as a load, a store or both. -/
def State.dataMatches (s : State) (wi : Nat) (ld st : Bool) (bytes : List (Nat × Nat)) : List Nat :=
  let p := (s.wave wi).part
  let cs := (s.core p.die p.core).cmps
  (List.range cs.length).filter fun i =>
    let c := cs.getD i {}
    cmpArmed c (s.waveLaunch wi).number && bytes.any (fun b => cmpHits c b.1 b.2) &&
      (cmpKind c == 3 || (cmpKind c == 1 && ld) || (cmpKind c == 2 && st))

/-- A data comparator match: the stop is posted and the wave halts before its next issue (R296). -/
def dataStop (s : State) (wi : Nat) (ld st : Bool) (bytes : List (Nat × Nat)) : State :=
  match s.dataMatches wi ld st bytes with
  | [] => s
  | cs => (s.modWave wi fun w => { w with haltDue := true }).post (.stops wi cs)

/-! ### Atomics (R61, R172, R173) -/

/-- The word an atomic leaves: function, MODE, the word, B and D. -/
def atomicNew (fn : Nat) (m : BitVec 16) (x b d : Word) : Word :=
  match fn with
  | 0 => x + b
  | 1 => BitVec.ofNat 32
      (sumRound .f32 (modeRound m) (modeFlush m) [fval .f32 (modeFlush m) x.toNat, fval .f32 (modeFlush m) b.toNat]).1
  | 2 => if modeType m = 0 then (if b.slt x then b else x) else (if b.ult x then b else x)
  | 3 => if modeType m = 0 then (if x.slt b then b else x) else (if x.ult b then b else x)
  | 4 => x &&& b
  | 5 => x ||| b
  | 6 => x ^^^ b
  | 7 => b
  | 8 => if x = d then b else x
  | _ => if x.ult b then x + 1 else x

/-- One lane of an atomic at a home: the old value is received and the new one stored. -/
def atomicLane (s : State) (oi : Nat) (h : Home) (l : LaneAcc) : State :=
  let o := s.op oi
  let old := leWord (s.homeReadN h l.addr 4)
  let new := atomicNew o.fn o.mode old (gotWord l.data 0) (gotWord l.data 1)
  (s.homeWriteN h l.addr (wordLe new)).modOp oi fun o => { o with got := o.got ++ [(l.lane, wordLe old)] }

/-- The lanes of an atomic apply in rising order, and the words they touch are appended (R159, R172). -/
def atomicApply (s : State) (a : Acc) (h : Home) : State :=
  let s := a.lanes.foldl (fun s l => atomicLane s a.op h l) s
  let lines := a.lanes.foldl (fun acc l => insertNat (l.addr / 64) acc) []
  lines.foldl (fun s l => s.persistPush h (64 * l) (s.writerOf a.wave) (a.cuts.contains l)) s

/-! ### Issue -/

/-- The accesses of an instruction, one for each space in order, one for each start (R159, R171). -/
def MemReq.accesses (r : MemReq) (s : State) (oi wi : Nat) : List Acc :=
  let w := s.wave wi
  let split := !w.tokens.isEmpty
  let gen := (s.waveBlock wi).gen
  let mk (sp : Space) (k : AccKind) (ls : List LaneAcc) (clk : Nat) : List Acc :=
    if ls.isEmpty then []
    else [{ op := oi, wave := wi, kind := k, space := sp, width := r.width, lanes := ls, clk := clk, gen := gen, split := split
            cuts := s.cutLines wi sp ls }]
  let of (sp : Space) : List LaneAcc := r.lanes.filter fun l => spaceOf l.addr == sp
  mk .shared r.kind (of .shared) w.rc ++ mk .scratch r.kind (of .scratch) w.rc ++ mk .spill r.kind (of .spill) w.rc
    ++ mk .aperture .arg ((of .aperture).filter fun l => !isStartWord l.addr) w.rc
    ++ (r.starts.mapIdx fun j a => mk .aperture .start (r.lanes.filter fun l => l.addr == a) (w.rc + j)).flatten

/-- Releases made by the instruction: each takes the wave's clock and adds one to it. An ordered form is a release where
a lane of it writes a location that has race state (R251). DEDUCED, log 32. -/
def MemReq.releases (r : MemReq) : Nat :=
  r.starts.length + (if (r.rel.isSome || (r.atom.getD 0) ≠ 0) &&
    r.lanes.any (fun l => spaceOf l.addr == .shared || spaceOf l.addr == .scratch) then 1 else 0)

/-- The SOFT code of the line of an address, where it is marked (R238). -/
def State.mark (s : State) (h : Home) (a : Nat) : Option Nat :=
  let d := s.die (h.die s)
  match (d.marked.find? fun m => m.1 == s.lineKey h a).map (·.2), s.lineKey h a with
  | some c, _ => some c
  | none, .scratch _ l => if d.unwritten && !d.sound.contains l then some 5 else none
  | none, _ => none

/-- SOFT of a memory read: the lowest code and the lanes (R238). -/
def State.softCheck (s : State) (h : Home) (lanes : List LaneAcc) : Option (Nat × Word) :=
  match lanes.foldl (fun acc l => match s.mark h l.addr with
      | some c => lowerCode acc c
      | none => acc) none with
  | none => none
  | some c => some (c, maskOf fun i => lanes.any fun l => l.lane == i && (s.mark h l.addr).isSome)

/-- A marked line of the spill area raises SOFT at the load or atomic that reads it (R238). -/
def State.spillSoft (s : State) (ai : Nat) : Option (Nat × Word) :=
  let a := s.acc ai
  if a.kind.isLoad then s.softCheck (.spill a.wave) a.lanes else none

/-- An access to the spill area performs at issue (R153, R168, R172). -/
def spillPart (s : State) (ai : Nat) : State :=
  let a := s.acc ai
  if a.space != .spill || (s.spillSoft ai).isSome then s
  else
    let h := Home.spill a.wave
    match a.kind with
    | .atomic =>
      (atomicApply s a h).modAcc ai fun a => { a with st := .arrived }
    | .load =>
      let got := a.lanes.map fun l => (l.lane, s.homeReadN h l.addr a.width)
      (s.modOp a.op fun o => { o with got := o.got ++ got }).modAcc ai fun a => { a with st := .arrived }
    | _ =>
      (s.append h (s.writerOf a.wave) (fun _ => false) a.lanes).modAcc ai fun a =>
        { a with st := .done, left := true }

/-- The SOFT trap of a read of the spill area, once its instruction has issued (R238). -/
def spillTrap (s : State) (ai : Nat) : State :=
  if (s.acc ai).space != .spill || (s.acc ai).st != .queued then s
  else match s.spillSoft ai with
    | some (code, lanes) => accessTrap s ai .soft code lanes [code]
    | none => s

/-- The instruction issues: count, log, pending bits, slots and accesses. -/
def memEffect (s : State) (wi : Nat) (word : Word) (r : MemReq) : State :=
  let w := s.wave wi
  let oi := s.ops.length
  let n := r.count
  let sc := r.sc s wi
  let logIx := if r.logged.isSome then (freeEntries w.log).head? else none
  let fullIx := (freeEntries w.full).take r.fulls
  let o : MemOp :=
    { wave := wi, word := word, pc := w.pc, guard := r.guard, mode := w.mode, race := w.race, cls := some n.1
      acq := r.acq, rel := r.rel, atom := r.atom, fn := r.fn, sc := sc, dst := if r.lanes.isEmpty then [] else r.dst
      uniform := r.uniform, counted := n.2, logIx := logIx, fullIx := fullIx }
  let accs := r.accesses s oi wi
  let first := s.accs.length
  let s := { s with ops := s.ops ++ [o], accs := s.accs ++ accs }
  let s := s.modWave wi fun w =>
    { (w.countUp n.1 n.2) with
      rc := (w.rc + r.releases) % 2 ^ 22
      log := match logIx with | some i => w.log.set i (some oi) | none => w.log
      full := fullIx.foldl (fun l i => l.set i (some oi)) w.full
      pend := o.dst ++ w.pend
      slots := if r.lanes.isEmpty then w.slots else (r.widens w).foldl takeSlot w.slots
      holds := (if sc then [Hold.sc oi] else []) ++ (if 4 < r.fulls then [Hold.log oi] else []) ++ w.holds }
  let s := (List.range accs.length).foldl (fun s j => spillPart s (first + j)) s
  let s := if accs.isEmpty || r.cls == .load then s else settle s oi
  let s := dataStop s wi r.kind.isLoad (r.kind == .atomic || !r.kind.isLoad) 
    ((r.pairs.filter fun p => bit w.active p.1).map fun p => (p.2, r.width))
  (List.range accs.length).foldl (fun s j => spillTrap s (first + j)) (advance s wi)

/-- The checks of a memory instruction at issue and then its effect (R75, R141, R146, R162). DEDUCED, log 32. -/
def memIssue (s : State) (wi : Nat) (i : Instr) (regs : List (BitVec 7)) (r : MemReq) : State :=
  let w := s.wave wi
  let word := wordOfInstr i
  let n := r.count
  if w.overDepth n.1 n.2 then queueTrap s wi word n.1
  else if !r.lanes.isEmpty && !(r.widens w).isEmpty && w.qw < w.liveV + (r.widens w).length then
    quotaTrap s wi word ((r.widens w).headD 0)
  else match s.memCheck wi r.width r.plain r.pairs with
    | some (code, lanes) =>
      let lanes := lanes &&& w.pm
      issueTrap s wi word .mem code lanes []
        ((r.pairs.filter fun p => bit lanes p.1))
    | none =>
      if r.logFull w || (r.sc s wi && !allPerformed (s.issuedBefore wi s.ops.length)) || s.startHeld wi r then stall s wi
      else if w.softReads regs then softTrap s wi word (r.guard &&& w.pm) regs
      else memEffect s wi word r

/-! ### Loads and stores (R165 to R169) -/

/-- The lanes that make an access: those in g & PM (R157). -/
def laneAddresses (w : Wave) (a : BitVec 7) (off : Word) : List (Nat × Nat) :=
  (lanesOf w.active).map fun i => (i, ((w.reg a).lane i + off).toNat)

/-- Bytes that a lane stores from the registers from `d`, at a width (R166). -/
def storeData (w : Wave) (d : BitVec 7) (width i : Nat) : Bytes :=
  if width < 4 then natLe width ((w.reg d).lane i).toNat
  else ((List.range (width / 4)).map fun j => wordLe ((w.reg (regFrom d j)).lane i)).flatten

/-- Registers of a data operand by width. -/
def dataRegs (d : BitVec 7) (width : Nat) : List (BitVec 7) := (List.range (Nat.max 1 (width / 4))).map (regFrom d)

/-- A load, ordered or not (R160, R165, R167, R168). -/
def loadInstr (s : State) (i : Instr) (d a : BitVec 7) (off : Word) (width : Nat) (acq : Option Nat) :
    Host.Outcome State Fault Refusal :=
  begin_ s (a :: dataRegs d width) fun wi =>
    let w := s.wave wi
    memIssue s wi i [a]
      { kind := .load, cls := .load, width := width, guard := w.guard, dst := dataRegs d width, acq := acq
        lanes := (laneAddresses w a off).map fun x => { lane := x.1, addr := x.2 }
        uniform := (w.reg a).isU && w.active = w.pm, held := some [w.reg a] }

/-- A store, ordered or not. -/
def storeInstr (s : State) (i : Instr) (d a : BitVec 7) (off : Word) (width : Nat) (rel : Option Nat) :
    Host.Outcome State Fault Refusal :=
  begin_ s (a :: dataRegs d width) fun wi =>
    let w := s.wave wi
    memIssue s wi i (a :: dataRegs d width)
      { kind := .store, cls := .store, width := width, guard := w.guard, rel := rel, plain := width = 4 && rel.isNone
        lanes := (laneAddresses w a off).map fun x => { lane := x.1, addr := x.2, data := storeData w d width x.1 }
        held := some (w.reg a :: (dataRegs d width).map w.reg) }

/-- `lds.8` (R165). -/
def execLds8 (d a : BitVec 7) (imm : BitVec 10) (s : State) : Host.Outcome State Fault Refusal :=
  loadInstr s (.lds8 d a imm) d a (immS imm) 1 none

/-- `lds.16` (R165). -/
def execLds16 (d a : BitVec 7) (imm : BitVec 10) (s : State) : Host.Outcome State Fault Refusal :=
  loadInstr s (.lds16 d a imm) d a (immS imm) 2 none

/-- `lds.32` (R165). -/
def execLds32 (d a : BitVec 7) (imm : BitVec 10) (s : State) : Host.Outcome State Fault Refusal :=
  loadInstr s (.lds32 d a imm) d a (immS imm) 4 none

/-- `lds.64` (R165). -/
def execLds64 (d a : BitVec 7) (imm : BitVec 10) (s : State) : Host.Outcome State Fault Refusal :=
  loadInstr s (.lds64 d a imm) d a (immS imm) 8 none

/-- `lds.128` (R165). -/
def execLds128 (d a : BitVec 7) (imm : BitVec 10) (s : State) : Host.Outcome State Fault Refusal :=
  loadInstr s (.lds128 d a imm) d a (immS imm) 16 none

/-- `ldx.8` (R165). -/
def execLdx8 (d a : BitVec 7) (imm : BitVec 10) (s : State) : Host.Outcome State Fault Refusal :=
  loadInstr s (.ldx8 d a imm) d a (immS imm) 1 none

/-- `ldx.16` (R165). -/
def execLdx16 (d a : BitVec 7) (imm : BitVec 10) (s : State) : Host.Outcome State Fault Refusal :=
  loadInstr s (.ldx16 d a imm) d a (immS imm) 2 none

/-- `ldx.32` (R165). -/
def execLdx32 (d a : BitVec 7) (imm : BitVec 10) (s : State) : Host.Outcome State Fault Refusal :=
  loadInstr s (.ldx32 d a imm) d a (immS imm) 4 none

/-- `ldx.64` (R165). -/
def execLdx64 (d a : BitVec 7) (imm : BitVec 10) (s : State) : Host.Outcome State Fault Refusal :=
  loadInstr s (.ldx64 d a imm) d a (immS imm) 8 none

/-- `ldx.128` (R165). -/
def execLdx128 (d a : BitVec 7) (imm : BitVec 10) (s : State) : Host.Outcome State Fault Refusal :=
  loadInstr s (.ldx128 d a imm) d a (immS imm) 16 none

/-- `sts.8` (R165). -/
def execSts8 (d a : BitVec 7) (imm : BitVec 10) (s : State) : Host.Outcome State Fault Refusal :=
  storeInstr s (.sts8 d a imm) d a (immS imm) 1 none

/-- `sts.16` (R165). -/
def execSts16 (d a : BitVec 7) (imm : BitVec 10) (s : State) : Host.Outcome State Fault Refusal :=
  storeInstr s (.sts16 d a imm) d a (immS imm) 2 none

/-- `sts.32` (R165). -/
def execSts32 (d a : BitVec 7) (imm : BitVec 10) (s : State) : Host.Outcome State Fault Refusal :=
  storeInstr s (.sts32 d a imm) d a (immS imm) 4 none

/-- `sts.64` (R165). -/
def execSts64 (d a : BitVec 7) (imm : BitVec 10) (s : State) : Host.Outcome State Fault Refusal :=
  storeInstr s (.sts64 d a imm) d a (immS imm) 8 none

/-- `sts.128` (R165). -/
def execSts128 (d a : BitVec 7) (imm : BitVec 10) (s : State) : Host.Outcome State Fault Refusal :=
  storeInstr s (.sts128 d a imm) d a (immS imm) 16 none

/-- `stx.8` (R165). -/
def execStx8 (d a : BitVec 7) (imm : BitVec 10) (s : State) : Host.Outcome State Fault Refusal :=
  storeInstr s (.stx8 d a imm) d a (immS imm) 1 none

/-- `stx.16` (R165). -/
def execStx16 (d a : BitVec 7) (imm : BitVec 10) (s : State) : Host.Outcome State Fault Refusal :=
  storeInstr s (.stx16 d a imm) d a (immS imm) 2 none

/-- `stx.32` (R165). -/
def execStx32 (d a : BitVec 7) (imm : BitVec 10) (s : State) : Host.Outcome State Fault Refusal :=
  storeInstr s (.stx32 d a imm) d a (immS imm) 4 none

/-- `stx.64` (R165). -/
def execStx64 (d a : BitVec 7) (imm : BitVec 10) (s : State) : Host.Outcome State Fault Refusal :=
  storeInstr s (.stx64 d a imm) d a (immS imm) 8 none

/-- `stx.128` (R165). -/
def execStx128 (d a : BitVec 7) (imm : BitVec 10) (s : State) : Host.Outcome State Fault Refusal :=
  storeInstr s (.stx128 d a imm) d a (immS imm) 16 none

/-- Bytes of a width code (R95). -/
def widthOf (w : BitVec 3) : Nat := 2 ^ w.toNat

/-- `lds.W.acq` (R168). -/
def execLdsAcq (d a : BitVec 7) (w sc : BitVec 3) (s : State) : Host.Outcome State Fault Refusal :=
  loadInstr s (.ldsAcq d a w sc) d a 0 (widthOf w) (some sc.toNat)

/-- `ldx.W.acq` (R168). -/
def execLdxAcq (d a : BitVec 7) (w sc : BitVec 3) (s : State) : Host.Outcome State Fault Refusal :=
  loadInstr s (.ldxAcq d a w sc) d a 0 (widthOf w) (some sc.toNat)

/-- `sts.W.rel` (R168). -/
def execStsRel (w : BitVec 3) (a b : BitVec 7) (sc : BitVec 3) (s : State) : Host.Outcome State Fault Refusal :=
  storeInstr s (.stsRel w a b sc) b a 0 (widthOf w) (some sc.toNat)

/-- `stx.W.rel` (R168). -/
def execStxRel (w : BitVec 3) (a b : BitVec 7) (sc : BitVec 3) (s : State) : Host.Outcome State Fault Refusal :=
  storeInstr s (.stxRel w a b sc) b a 0 (widthOf w) (some sc.toNat)

/-- Addresses of `spill` and `fill` (R157). -/
def spillAddr (n : BitVec 9) (lane : Nat) : Nat := 0x18000000 + 128 * n.toNat + 4 * lane

/-- `spill` (R169). -/
def execSpill (d : BitVec 7) (n : BitVec 9) (s : State) : Host.Outcome State Fault Refusal :=
  begin_ s [d] fun wi =>
    let w := s.wave wi
    memIssue s wi (.spill d n) [d]
      { kind := .store, cls := .store, width := 4, guard := w.guard
        lanes := (List.range 32).map fun i => { lane := i, addr := spillAddr n i, data := wordLe ((w.reg d).lane i) } }

/-- `fill` (R169). -/
def execFill (d : BitVec 7) (n : BitVec 9) (s : State) : Host.Outcome State Fault Refusal :=
  begin_ s [d] fun wi =>
    memIssue s wi (.fill d n) []
      { kind := .load, cls := .load, width := 4, guard := 0xFFFFFFFF, dst := [d]
        lanes := (List.range 32).map fun i => { lane := i, addr := spillAddr n i } }

/-- An atomic (R172): its operands are B, and D as it was (R173). -/
def atomInstr (s : State) (i : Instr) (types : List Nat) (fn : Nat) (d a b : BitVec 7) (sc : BitVec 3) :
    Host.Outcome State Fault Refusal :=
  begin_ s [d, a, b] fun wi =>
    let w := s.wave wi
    if !types.contains (modeType w.mode) then ill s wi i 6
    else
      memIssue s wi i (if fn = 8 then [d, a, b] else [a, b])
        { kind := .atomic, cls := .load, width := 4, guard := w.guard, dst := [d], atom := some sc.toNat, fn := fn
          lanes := (laneAddresses w a 0).map fun x =>
            { lane := x.1, addr := x.2, data := wordLe ((w.reg b).lane x.1) ++ wordLe ((w.reg d).lane x.1) }
          held := some ([w.reg a, w.reg b] ++ if fn = 8 then [w.reg d] else []) }

/-- `atom.add` (R173). -/
def execAtomAdd (d a b : BitVec 7) (sc : BitVec 3) (s : State) : Host.Outcome State Fault Refusal :=
  atomInstr s (.atomAdd d a b sc) allTypes 0 d a b sc

/-- `atom.fadd` (R173). -/
def execAtomFadd (d a b : BitVec 7) (sc : BitVec 3) (s : State) : Host.Outcome State Fault Refusal :=
  atomInstr s (.atomFadd d a b sc) allTypes 1 d a b sc

/-- `atom.min` (R173). -/
def execAtomMin (d a b : BitVec 7) (sc : BitVec 3) (s : State) : Host.Outcome State Fault Refusal :=
  atomInstr s (.atomMin d a b sc) [0, 1] 2 d a b sc

/-- `atom.max` (R173). -/
def execAtomMax (d a b : BitVec 7) (sc : BitVec 3) (s : State) : Host.Outcome State Fault Refusal :=
  atomInstr s (.atomMax d a b sc) [0, 1] 3 d a b sc

/-- `atom.and` (R173). -/
def execAtomAnd (d a b : BitVec 7) (sc : BitVec 3) (s : State) : Host.Outcome State Fault Refusal :=
  atomInstr s (.atomAnd d a b sc) allTypes 4 d a b sc

/-- `atom.or` (R173). -/
def execAtomOr (d a b : BitVec 7) (sc : BitVec 3) (s : State) : Host.Outcome State Fault Refusal :=
  atomInstr s (.atomOr d a b sc) allTypes 5 d a b sc

/-- `atom.xor` (R173). -/
def execAtomXor (d a b : BitVec 7) (sc : BitVec 3) (s : State) : Host.Outcome State Fault Refusal :=
  atomInstr s (.atomXor d a b sc) allTypes 6 d a b sc

/-- `atom.xchg` (R173). -/
def execAtomXchg (d a b : BitVec 7) (sc : BitVec 3) (s : State) : Host.Outcome State Fault Refusal :=
  atomInstr s (.atomXchg d a b sc) allTypes 7 d a b sc

/-- `atom.cas` (R173). -/
def execAtomCas (d a b : BitVec 7) (sc : BitVec 3) (s : State) : Host.Outcome State Fault Refusal :=
  atomInstr s (.atomCas d a b sc) allTypes 8 d a b sc

/-- `atom.inc` (R173). -/
def execAtomInc (d a b : BitVec 7) (sc : BitVec 3) (s : State) : Host.Outcome State Fault Refusal :=
  atomInstr s (.atomInc d a b sc) allTypes 9 d a b sc

end Sys2Proof.Machine
end

