-- ==== Sys2Proof/Machine/Perform.lean ====
section
/-!
DEFINITION. What an access does when it reaches its home: range locks, soft errors, the watermark, sync records, and
the bytes read or appended (R148, R159, R163, R238, R251, R255 to R257).
-/

namespace Sys2Proof.Machine

/-- The lanes of an access whose bytes lie in a locked range, and the code (R148). -/
def State.rangeCheck (s : State) (h : Home) (lanes : List LaneAcc) : Option (Nat × Word) :=
  let src := lanes.filter fun l => s.readLocked h l.addr
  let dst := lanes.filter fun l => s.writeLocked h l.addr
  if src.isEmpty && dst.isEmpty then none
  else some (if src.isEmpty then 2 else 1, maskOf fun i => (src ++ dst).any fun l => l.lane == i)

/-- The watermark check of an access of a wave (R255). -/
def accessRace (s : State) (ai : Nat) (writes sync : Bool) (alt : Granule → Option Recorded := fun _ => none) :
    State × Option Refused :=
  let a := s.acc ai
  let o := s.op a.op
  raceAccess s o.race (s.whoWave a.wave o.pc a.lanes) (s.waveParty a.wave a.clk) writes sync a.split a.gen
    (s.granules a.wave a.space a.lanes) alt

/-- The RACE trap of an access (R260). -/
def raceTrap (s : State) (ai : Nat) (r : Refused) : State :=
  let a := s.acc ai
  let hit (l : LaneAcc) : Bool := r.all.any fun g => g.addr == 64 * (l.addr / 64)
  accessTrap s ai .race r.code (maskOf fun i => a.lanes.any fun l => l.lane == i && hit l)
    [r.by_.id, r.by_.clk, a.clk, r.granule.addr]

/-- Attach a sync record to the granules of an access (R251). -/
def attachRec (s : State) (ai : Nat) (r : SyncRec) : State :=
  let a := s.acc ai
  (s.granules a.wave a.space a.lanes).foldl (fun s g => s.setSyncRec g r) s

/-- The record a release of a wave builds, with the clock that the access took (R251). -/
def State.releaseRec (s : State) (ai : Nat) : SyncRec :=
  let a := s.acc ai
  let w := s.wave a.wave
  makeRec w.rid a.clk (s.block w.blk).handle w.knows

/-- An acquire of one granule: it merges the record there, or sets LOSSY where the record has been replaced (R251). -/
def acquire (s : State) (wi : Nat) (r : Option SyncRec) (sync : Bool) : State :=
  let own := (s.waveBlock wi).handle
  match r with
  | some r => s.modWave wi fun w => w.learn (mergeRec own w.knows r)
  | none => if sync then s.modWave wi fun w => { w with lossy := true } else s

/-- An acquire of every granule of an access; `alt` gives the record of a store in a buffer. -/
def acquireAll (s : State) (ai : Nat) (alt : Granule → Option (Option SyncRec) := fun _ => none) : State :=
  let a := s.acc ai
  (s.granules a.wave a.space a.lanes).foldl (fun s g => match alt g with
    | some r => acquire s a.wave r false
    | none => acquire s a.wave (s.syncRec g) (s.recLost g)) s

/-- A store of a wave is appended at its home, or traps (S2, S3, R148, R163). -/
def appendStore (s : State) (ai : Nat) : State :=
  let a := s.acc ai
  let o := s.op a.op
  let h := s.homeOf a.wave a.space
  match s.rangeCheck h a.lanes with
  | some (code, lanes) => accessTrap s ai .range code lanes []
  | none =>
    match accessRace s ai true o.rel.isSome with
    | (s, some r) => raceTrap s ai r
    | (s, none) =>
      let s := s.append h (s.writerOf a.wave) a.cuts.contains a.lanes
      let s := match a.sync with
        | some r => attachRec s ai r
        | none => s
      settle (s.modAcc ai fun a => { a with st := .done, left := true }) a.op

/-- A scatter whose D block is not computed yet (R213). -/
def Acc.uncomputed (a : Acc) : Bool := a.kind == .scatter && !a.isOver && a.lanes.any fun l => l.data.isEmpty

/-- What precedes an access in its wave, the other accesses of its own instruction left out: they take their steps
independently (R159). Starts of one instruction stay in order (R171). DEDUCED, log 25. -/
def State.before (s : State) (ai : Nat) : List Acc :=
  let a := s.acc ai
  (s.earlier ai).filter fun e => e.op != a.op || (a.kind == .start && e.kind == .start)

/-- The conditions that S4 and S5 share (R153, R213). -/
def State.mayRead (s : State) (ai : Nat) : Bool :=
  let a := s.acc ai
  (s.before ai).all fun e =>
    !s.pendingOrdered e && !(e.kind.isLoad && !e.performed && e.overlaps a) && !(e.uncomputed && e.overlaps a)

/-- Every line of an access is present (R147). -/
def State.allPresent (s : State) (ai : Nat) : Bool :=
  let a := s.acc ai
  a.lanes.all fun l => s.present (s.homeOf a.wave a.space) l.addr

/-- A wave that can issue parks on an absent line of its access (R147). -/
def parkOn (s : State) (ai : Nat) : State :=
  s.modWave (s.acc ai).wave fun w => if w.stop = .run then { w with stop := .line ai, issued := false } else w

/-- A wave parked on an access goes on (R24). -/
def unpark (s : State) (ai : Nat) : State :=
  let wi := (s.acc ai).wave
  if (s.wave wi).stop = .line ai then traceWake (s.modWave wi fun w => { w with stop := .run }) wi else s

/-- A read reaches the home: SOFT, the watermark check and then its bytes, by lane (S4, R159, R255). The outcome says
whether it performed. -/
def readHome (s : State) (ai : Nat) (sync : Bool) : State × Option (List (Nat × Bytes)) :=
  let a := s.acc ai
  let h := s.homeOf a.wave a.space
  match s.softCheck h a.lanes with
  | some (code, lanes) => (accessTrap s ai .soft code lanes [code], none)
  | none =>
    let buf (g : Granule) : Option Acc := s.seenBuf ai (a.lanes.filter fun l => 64 * (l.addr / 64) == g.addr)
    let alt (g : Granule) : Option Recorded := (buf g).map fun x =>
      ⟨(s.wave x.wave).rid, x.clk, x.gen, x.split, (s.op x.op).rel.isSome⟩
    match accessRace s ai false sync alt with
    | (s, some r) => (raceTrap s ai r, none)
    | (s, none) =>
      let got := a.lanes.map fun l => (l.lane, (List.range a.width).map fun j => s.seen ai h (l.addr + j))
      let s := if sync then acquireAll s ai (fun g => (buf g).map fun x => x.sync) else s
      (s, some got)

/-- An atomic reaches the home (S5, R172, R174, R251). -/
def atomicHome (s : State) (ai : Nat) : State :=
  let a := s.acc ai
  let o := s.op a.op
  let h := s.homeOf a.wave a.space
  match s.softCheck h a.lanes with
  | some (code, lanes) => accessTrap s ai .soft code lanes [code]
  | none => match s.rangeCheck h a.lanes with
    | some (code, lanes) => accessTrap s ai .range code lanes []
    | none => match accessRace s ai true true with
      | (s, some r) => raceTrap s ai r
      | (s', none) =>
        let ordered := o.atom.getD 0 ≠ 0
        -- the acquire reads the granule as it stood before the atomic
        let lossy := (s.granules a.wave a.space a.lanes).any fun g => s.recLost g
        let s := s'
        let s := if ordered then
            let s := acquireAll s ai (fun g => some (s.syncRec g))
            let s := if lossy then s.modWave a.wave fun w => { w with lossy := true } else s
            attachRec s ai (s.releaseRec ai)
          else s
        let s := atomicApply s a h
        settle ((unpark s ai).modAcc ai fun a => { a with st := .done }) a.op

end Sys2Proof.Machine
end

