-- ==== Sys2Proof/Machine/Launch.lean ====
section
/-!
DEFINITION. Launch records: their fields, the reasons of refusal, and queueing (R19, R20, R27, R29, R317 to R319).
-/

namespace Sys2Proof.Machine

/-- A launch record, its fields read (R317). -/
structure Record where
  bytes : Bytes

namespace Record

def num (r : Record) (off n : Nat) : Nat := leNat ((r.bytes.drop off).take n)
def version (r : Record) : Nat := r.num 0x00 2
def nargs (r : Record) : Nat := r.num 0x02 1
def flags (r : Record) : Nat := r.num 0x03 1
def queue (r : Record) : Nat := r.num 0x04 2
def ndep (r : Record) : Nat := r.num 0x06 1
def nrange (r : Record) : Nat := r.num 0x07 1
def bundle (r : Record) : Nat := r.num 0x08 4
def kernel (r : Record) : Nat := r.num 0x0C 2
def gx (r : Record) : Nat := r.num 0x10 4
def gy (r : Record) : Nat := r.num 0x14 2
def gz (r : Record) : Nat := r.num 0x16 2
def threads (r : Record) : Nat := r.num 0x18 4
def sField (r : Record) : Nat := r.num 0x1C 1
def deps (r : Record) : List (Nat × Nat) := (List.range r.ndep).map fun j => (r.num (0x20 + 8 * j) 2, r.num (0x24 + 8 * j) 4)
def args (r : Record) : List Word := (List.range 16).map fun j => BitVec.ofNat 32 (r.num (0x40 + 4 * j) 4)
def ranges (r : Record) : List (Nat × Nat) :=
  (List.range r.nrange).map fun j => (r.num (0x80 + 16 * j) 8, r.num (0x88 + 16 * j) 8)

/-- Waves of a block (R18). -/
def waves (r : Record) : Nat := (r.threads + 31) / 32

/-- Slices of a block, the S field or what 0 takes (R19). -/
def slices (r : Record) : Nat := if r.sField = 0 then (r.waves + 127) / 128 else r.sField

/-- Waves of each slice but the last (R19). -/
def perSlice (r : Record) : Nat := (r.waves + r.slices - 1) / Nat.max 1 r.slices

/-- Every byte that must be zero is (R317). -/
def zeros (r : Record) : Bool :=
  r.num 0x0E 2 = 0 && r.num 0x1D 3 = 0 && r.flags / 8 = 0 &&
    (List.range 4).all fun j => r.num (0x22 + 8 * j) 2 = 0

/-- R19's conditions. -/
def slicesOk (r : Record) : Bool :=
  1 ≤ r.slices && r.slices ≤ 16 && r.perSlice ≤ 128 && (r.slices - 1) * r.perSlice < r.waves

/-- R20's and R18's conditions. -/
def gridOk (r : Record) : Bool :=
  1 ≤ r.gx && r.gx ≤ 2147483647 && 1 ≤ r.gy && r.gy ≤ 65535 && 1 ≤ r.gz && r.gz ≤ 65535 &&
    1 ≤ r.threads && r.threads ≤ 65536

end Record

/-- The generation of this hardware, LOCN.GEN (R10). -/
def generation : Nat := 1

/-- FLAGS of a kernel (R80). -/
def Kernel.idem (k : Kernel) : Bool := bitsOf k.flags 0 1 = 1
def Kernel.direct (k : Kernel) : Bool := bitsOf k.flags 1 1 = 1
def Kernel.portable (k : Kernel) : Bool := bitsOf k.flags 2 1 = 1

/-- The loaded kernel of an interface that a bundle handle and an index name. A handle is the bundle's place among
those loaded since module reset. -/
def State.findKernel (s : State) (vi bundle index : Nat) : Option Nat :=
  (List.range s.kernels.length).find? fun i =>
    let k := s.kernel i
    k.live && k.vi == vi && k.bundle == bundle && k.index == index

/-- The launch that a number names: the one most recently given it (R318). -/
def State.findLaunch (s : State) (vi number : Nat) : Option Nat :=
  (List.range s.launches.length).reverse.find? fun i => (s.launch i).vi == vi && (s.launch i).number == number

/-- The launch a dependence names (R318). -/
def State.findDep (s : State) (vi : Nat) (d : Nat × Nat) : Option Nat :=
  let v := s.vi vi
  let c := 2147483647
  if !((v.queues.getD d.1 ⟨0, false⟩).open_) then none
  else if d.2 = 0 || c < d.2 then none
  else
    let ago := (v.nextLaunch + c - d.2 % c) % c
    if ago < 1 || 2 ^ 30 < ago then none
    else match s.findLaunch vi d.2 with
      | some l => if (s.launch l).queue = d.1 then some l else none
      | none => none

/-- A launch whose blocks are all done, or which was cancelled. -/
def Launch.isOver (l : Launch) : Bool := l.st != .queued

/-- Records that a queue holds. -/
def State.inQueue (s : State) (vi q : Nat) : List Nat :=
  (List.range s.launches.length).filter fun i =>
    (s.launch i).vi == vi && (s.launch i).queue == q && !(s.launch i).isOver

/-- A range of main memory lies in one owner's part of the FABRIC set. -/
def State.rangeOk (s : State) (vi : Nat) (r : Nat × Nat) : Bool :=
  r.2 != 0 && r.1 + r.2 ≤ 2 ^ 57 && s.mayName vi (owner r.1) && s.mayName vi (owner (r.1 + r.2 - 1)) &&
    ((List.range 2048).all fun j =>
      let a := (r.1 / 2 ^ 46 + j) * 2 ^ 46
      r.1 + r.2 ≤ a || s.mayName vi (owner a))

/-- A block of the record fits on some cluster of the interface with every core free (R28, R29). -/
def State.couldFit (s : State) (vi : Nat) (k : Kernel) (r : Record) : Bool :=
  let cap := 16 * (if k.vregs = 0 then 8 else Nat.min 8 (512 / k.vregs))
  (k.shared + 4095) / 4096 * 4096 ≤ Config.sharedBytes && r.perSlice ≤ cap &&
    (List.range 12).any fun cl =>
      r.slices ≤ ((s.vi vi).desc.cores.filter fun c => clusterOf c.die c.core == cl).length

/-- The first reason for which a record is refused (R319). -/
def State.refusal (s : State) (vi : Nat) (r : Record) : Option Nat :=
  let ki := s.findKernel vi r.bundle r.kernel
  let k := match ki with | some i => s.kernel i | none => Kernel.blank
  let q := (s.vi vi).queues.getD r.queue ⟨0, false⟩
  if r.version ≠ 1 || !r.zeros then some 1
  else if ki.isNone || (!k.portable && k.gen ≠ generation) then some 2
  else if r.nargs ≠ k.args then some 3
  else if !r.gridOk then some 4
  else if !r.slicesOk then some 5
  else if 4 < r.ndep || r.deps.any fun d => (s.findDep vi d).isNone then some 6
  else if !q.open_ then some 7
  else if Config.queueRecords ≤ (s.inQueue vi r.queue).length then some 8
  else if 16 < r.nrange || r.ranges.any fun x => !s.rangeOk vi x then some 9
  else if (s.vi vi).desc.spslot < k.spill then some 10
  else if !s.couldFit vi k r then some 11
  else none

/-- Who queues a record. -/
structure Queuer where
  vi : Nat
  proc : Nat
  thread : Nat
  asid : Nat
  entry : Nat
  parent : Option (Nat × SyncRec × List Know × Bool) := none

/-- Queue a record in one indivisible step: its number, or the reason of refusal (R318, R319). -/
def queueRecord (s : State) (u : Queuer) (bs : Bytes) : State × Except Nat Nat :=
  let r : Record := ⟨bs⟩
  match s.refusal u.vi r with
  | some reason => (s, .error reason)
  | none =>
    let v := s.vi u.vi
    let n := v.nextLaunch
    let l : Launch :=
      { vi := u.vi, number := n, queue := r.queue, kernel := (s.findKernel u.vi r.bundle r.kernel).getD 0
        proc := u.proc, thread := u.thread, asid := u.asid, gx := r.gx, gy := r.gy, gz := r.gz, threads := r.threads
        slices := r.slices, raceField := r.flags % 4, traced := bitsOf r.flags 2 1 = 1
        deps := r.deps.filterMap (s.findDep u.vi), args := r.args.take r.nargs, ranges := r.ranges
        pred := (List.range s.launches.length).reverse.find? fun i =>
          (s.launch i).vi == u.vi && (s.launch i).queue == r.queue
        parent := u.parent, tEntry := u.entry, tQueued := s.tick }
    (({ s with launches := s.launches ++ [l] }).modVi u.vi fun v =>
      { v with nextLaunch := if n = 2147483647 then 1 else n + 1 }, .ok n)

/-- The record read of a `launch` has performed: the record is queued and D written (R224). -/
def launchRecord (s : State) (ai : Nat) (bs : Bytes) : State :=
  let wi := (s.acc ai).wave
  match (s.wave wi).launching with
  | none => s
  | some d =>
    let w := s.wave wi
    let l := s.waveLaunch wi
    let r := queueRecord s
      { vi := l.vi, proc := l.proc, thread := l.thread, asid := l.asid, entry := s.tick
        parent := some (wi, s.releaseRec ai, w.know, w.lossy) } bs
    launchDone r.1 wi d (match r.2 with
      | .ok n => BitVec.ofNat 32 n
      | .error e => BitVec.ofNat 32 (0x80000000 + e))

end Sys2Proof.Machine
end

