-- ==== Sys2Proof/Machine/Tensor.lean ====
section
/-!
DEFINITION. Matrix instructions: fragments, exact sums, the tensor core, tile completion and its traps
(R204 to R214, R288).
-/

namespace Sys2Proof.Machine

/-! ### Fragments (R204, R205) -/

/-- A register block. -/
def blockRegs (x : BitVec 4) : List (BitVec 7) := (List.range 8).map fun j => BitVec.ofNat 7 (8 * x.toNat + j)

/-- The lanes of a register as a matrix instruction reads them: an absent lane reads as `z` (R204). -/
def Wave.fragment (w : Wave) (z : Word) (d : BitVec 7) : Lanes :=
  (List.range 32).map fun i => if bit w.pm i then (w.reg d).lane i else z

/-- Byte `kb` of row (or column) `m` of an A (or B) block. -/
def fragByte (blk : List Lanes) (m kb : Nat) : Nat :=
  bitsOf ((blk.getD (kb / 8) []).getD (2 * m + kb / 4 % 2) 0).toNat (8 * (kb % 4)) 8

/-- Element m, n of a C or D block. -/
def fragWord (blk : List Lanes) (m n : Nat) : Word := (blk.getD (m / 2) []).getD (16 * (m % 2) + n) 0

/-- Element k of a run of 64 bytes, by its width in bits (R205). -/
def elemOf (row : List Nat) (width k : Nat) : Nat :=
  if width = 4 then bitsOf (row.getD (k / 2) 0) (4 * (k % 2)) 4
  else if width = 8 then row.getD k 0
  else row.getD (2 * k) 0 + 256 * row.getD (2 * k + 1) 0

/-- The E8M0 scale byte of row r for block b under SEL (R206). -/
def scaleByte (xs : Lanes) (sel r b : Nat) : Nat :=
  let h := (sel / 2 + b / 2) % 2
  bitsOf (xs.getD (r + 16 * h) 0).toNat (8 * (2 * (sel % 2) + b % 2)) 8

/-! ### Results (R207, R208) -/

/-- Formats of A and B, element width in bits, and the scale selector of the MX forms. -/
def TileFn.form : TileFn → FFmt × FFmt × Nat × Option Nat
  | .f8 p => ((pairFmt p).1, (pairFmt p).2, 8, none)
  | .gmma p => ((pairFmt p).1, (pairFmt p).2, 8, none)
  | .bf16 => (.bf16, .bf16, 16, none)
  | .f16 => (.f16, .f16, 16, none)
  | .mxf8 p sel => ((pairFmt p).1, (pairFmt p).2, 8, some sel)
  | .mxf4 sel => (.e2m1, .e2m1, 4, some sel)
  | _ => (.f32, .f32, 8, none)

/-- The terms of one output of a float form: C, and the products (R208). -/
def tileTerms (f : TileFn) (flush : Bool) (c : Word) (row col : List Nat) (sa sb : Nat → Nat) : List FVal :=
  let (fa, fb, width, sel) := f.form
  let product (k : Nat) : FVal :=
    let p := (fval fa flush (elemOf row width k)).mul (fval fb flush (elemOf col width k))
    match sel with
    | none => p
    | some _ =>
      let x := sa (k / 32)
      let y := sb (k / 32)
      if x = 0xFF || y = 0xFF then .nan true else p.scale ((x : Int) + y - 254)
  fval .f32 flush c.toNat :: (List.range (512 / width)).map product

/-- The signs of A and B under `mma.i8` (R207). -/
def intSum (g : Nat) (c : Word) (row col : List Nat) : Int :=
  let v (signed : Bool) (x : Nat) : Int := if signed then sext 8 x else x
  (List.range 64).foldl (fun acc k => acc + v (g < 2) (row.getD k 0) * v (g % 2 = 0) (col.getD k 0)) c.toInt

/-- Row m of A, as bytes: gathered, or from its block. -/
def Tile.row (t : Tile) (got : List (Nat × Bytes)) (m : Nat) : List Nat :=
  match t.fn with
  | .gmma _ => ((got.lookup m).getD []).map BitVec.toNat
  | _ => (List.range 64).map (fragByte t.a m)

/-- Column n of B. -/
def Tile.col (t : Tile) (n : Nat) : List Nat := (List.range 64).map (fragByte t.b n)

/-- The terms of output (m, n). -/
def Tile.terms (t : Tile) (mode : BitVec 16) (got : List (Nat × Bytes)) (m n : Nat) : List FVal :=
  let sel := t.fn.form.2.2.2.getD 0
  tileTerms t.fn (modeFlush mode) (fragWord t.c m n) (t.row got m) (t.col n) (scaleByte t.xa sel m) (scaleByte t.xb sel n)

/-- One output and its flags (R208). -/
def Tile.out (t : Tile) (mode : BitVec 16) (got : List (Nat × Bytes)) (m n : Nat) : Nat × Nat :=
  match t.fn with
  | .zero => (0, 0)
  | .i8 g => wrapOrClamp 32 true (modeSat mode) (intSum g (fragWord t.c m n) (t.row got m) (t.col n))
  | _ => sumRound .f32 (modeRound mode) (modeFlush mode) (t.terms mode got m n)

/-- The 256 outputs, row by row. -/
def Tile.outs (t : Tile) (mode : BitVec 16) (got : List (Nat × Bytes)) : List (Nat × Nat) :=
  (List.range 256).map fun i => t.out mode got (i / 16) (i % 16)

/-- A slow pass is needed (R60). -/
def Tile.slow (t : Tile) (mode : BitVec 16) (got : List (Nat × Bytes)) : Bool :=
  match t.fn with
  | .zero => false
  | .i8 _ => false
  | _ => (List.range 256).any fun i => slowSum (t.terms mode got (i / 16) (i % 16))

/-! ### The tensor core (R209, R288) -/

def TileState.waiting : TileState → Bool
  | .gathering => true
  | .staged => true
  | _ => false

def Tile.isRunning (t : Tile) : Bool := match t.st with | .running _ => true | _ => false

/-- The tile that a partition's core is running, and the one in its input stage. -/
def State.runningTile (s : State) (p : PartRef) : Option Nat :=
  (List.range s.tiles.length).find? fun i => (s.tile i).part == p && match (s.tile i).st with | .running _ => true | _ => false

def State.stagedTile (s : State) (p : PartRef) : Option Nat :=
  (List.range s.tiles.length).find? fun i => (s.tile i).part == p && (s.tile i).st == .staged

def State.stageFull (s : State) (p : PartRef) : Bool := s.tiles.any fun t => t.part == p && t.st.waiting

/-- The clock of the cluster of a partition. -/
def State.partClk (s : State) (p : PartRef) : Nat := s.clk (clusterOf p.die p.core)

/-- A tile that is made again enters the input stage once it is empty (R209, R210). -/
def feedStage (s : State) (p : PartRef) : State :=
  if s.stageFull p then s
  else match (List.range s.tiles.length).find? fun i => (s.tile i).part == p && (s.tile i).st == .rerun with
    | some ti => s.modTile ti fun t => { t with st := .staged }
    | none => s

/-- Start the tile in the input stage when the core is free, from clock `at_` (R209). -/
def startTile (s : State) (p : PartRef) (at_ : Nat) : State :=
  match s.runningTile p, s.stagedTile p with
  | none, some ti =>
    let t := s.tile ti
    let o := s.op t.op
    let slow := t.slow o.mode o.got
    let s := s.modTile ti fun t => { t with st := .running (at_ + 8 * t.passes + if slow then 16 else 0) }
    let s := feedStage s p
    if slow then s.modCore p.die p.core fun c => { c with slowpass := (c.slowpass + 1) % 2 ^ 64 } else s
  | _, _ => s

/-- The tensor core has been idle for at least `n` clocks; one that has run no tile counts as idle (R288). -/
def State.tensorIdle (s : State) (p : PartRef) (n : Nat) : Bool :=
  (s.runningTile p).isNone && !s.stageFull p && (match (s.part p).idleSince with
    | some c => c + n ≤ s.partClk p
    | none => true)

/-- A dense burst is held while Bellows raises the rail one step: the state, and whether the tile must wait (R288). -/
def denseHold (s : State) (p : PartRef) : State × Bool :=
  let cl := clusterOf p.die p.core
  if !s.tensorIdle p 64 then (s, false)
  else match (s.cluster cl).guard with
    | .held => (s, false)
    | .rising => (s, true)
    | .none => if 32 ≤ (s.cluster cl).vcode then (s, false)
      else (s.modCluster cl fun c => { c with guard := .rising }, true)

/-! ### Issue -/

/-- What a matrix instruction asks for. -/
structure TileReq where
  fn : TileFn
  d : BitVec 4
  a : Option (BitVec 4) := none
  b : Option (BitVec 4) := none
  xs : List (BitVec 7) := []

def TileReq.regs (r : TileReq) : List (BitVec 7) :=
  blockRegs r.d ++ (r.a.elim [] blockRegs) ++ (r.b.elim [] blockRegs) ++ r.xs

/-- The D registers without a slot (R204). -/
def TileReq.widens (r : TileReq) (w : Wave) : List (BitVec 7) := (blockRegs r.d).filter fun d => !w.hasSlot d

/-- The operation of a matrix instruction, and its tile. -/
def tileEffect (s : State) (wi : Nat) (word : Word) (r : TileReq) (accs : Nat → List Acc) (log : Option Reg) (st : TileState) :
    State :=
  let w := s.wave wi
  let oi := s.ops.length
  let logIx := if log.isSome then (freeEntries w.log).head? else none
  let fullIx := if log.any Reg.isV then (freeEntries w.full).take 1 else []
  let o : MemOp := { wave := wi, word := word, pc := w.pc, guard := w.guard, mode := w.mode, race := w.race
                     cls := some .tile, dst := blockRegs r.d, counted := 1, logIx := logIx, fullIx := fullIx }
  let frag (x : Option (BitVec 4)) : List Lanes := x.elim [] fun x => (blockRegs x).map (w.fragment 0)
  let t : Tile := { wave := wi, op := oi, part := w.part, fn := r.fn, d := r.d.toNat, a := frag r.a, b := frag r.b
                    c := frag (some r.d), xa := ((r.xs[0]?).map (w.fragment 0)).getD []
                    xb := ((r.xs[1]?).map (w.fragment 0)).getD [], st := st, passes := s.wavePass wi }
  let zero := r.fn == .zero
  let s := { s with ops := s.ops ++ [o], tiles := s.tiles ++ [t], accs := s.accs ++ accs oi }
  let s := s.modWave wi fun w =>
    { (w.countUp .tile 1) with
      log := match logIx with | some i => w.log.set i (some oi) | none => w.log
      full := fullIx.foldl (fun l i => l.set i (some oi)) w.full
      pend := o.dst ++ w.pend
      slots := if zero then w.slots else (r.widens w).foldl takeSlot w.slots }
  startTile s w.part (s.waveClk wi)

/-- Issue of `mma` (R204, R209). -/
def mmaInstr (s : State) (i : Instr) (r : TileReq) : Host.Outcome State Fault Refusal :=
  begin_ s r.regs fun wi =>
    let w := s.wave wi
    let word := wordOfInstr i
    if w.overDepth .tile 1 then queueTrap s wi word .tile
    else if !(r.widens w).isEmpty && w.qw < w.liveV + (r.widens w).length then
      quotaTrap s wi word ((r.widens w).headD 0)
    else if s.stageFull w.part then stall s wi
    else match denseHold s w.part with
      | (s, true) => stall s wi
      | (s, false) =>
        if w.softReads r.regs then softTrap s wi word w.pm r.regs
        else advance (tileEffect s wi word r (fun _ => []) none .staged) wi

/-- `mma.f8` (R207). -/
def execMmaF8 (d a b : BitVec 4) (p : BitVec 2) (s : State) : Host.Outcome State Fault Refusal :=
  mmaInstr s (.mmaF8 d a b p) { fn := .f8 p.toNat, d := d, a := some a, b := some b }

/-- `mma.i8` (R207). -/
def execMmaI8 (d a b : BitVec 4) (g : BitVec 2) (s : State) : Host.Outcome State Fault Refusal :=
  mmaInstr s (.mmaI8 d a b g) { fn := .i8 g.toNat, d := d, a := some a, b := some b }

/-- `mma.bf16` (R207). -/
def execMmaBf16 (d a b : BitVec 4) (s : State) : Host.Outcome State Fault Refusal :=
  mmaInstr s (.mmaBf16 d a b) { fn := .bf16, d := d, a := some a, b := some b }

/-- `mma.f16` (R207). -/
def execMmaF16 (d a b : BitVec 4) (s : State) : Host.Outcome State Fault Refusal :=
  mmaInstr s (.mmaF16 d a b) { fn := .f16, d := d, a := some a, b := some b }

/-- `mma.mxf8` (R206, R207). -/
def execMmaMxf8 (d a b : BitVec 4) (xs : BitVec 7) (sel p : BitVec 2) (s : State) : Host.Outcome State Fault Refusal :=
  mmaInstr s (.mmaMxf8 d a b xs sel p)
    { fn := .mxf8 p.toNat sel.toNat, d := d, a := some a, b := some b, xs := [xs, regFrom xs 1] }

/-- `mma.mxf4` (R206, R207). -/
def execMmaMxf4 (d a b : BitVec 4) (xs : BitVec 7) (sel : BitVec 2) (s : State) : Host.Outcome State Fault Refusal :=
  mmaInstr s (.mmaMxf4 d a b xs sel) { fn := .mxf4 sel.toNat, d := d, a := some a, b := some b, xs := [xs, regFrom xs 1] }

/-- `mmz`: the block is written in the next clock, outside the tensor core (R211). -/
def execMmz (d : BitVec 4) (s : State) : Host.Outcome State Fault Refusal :=
  begin_ s (blockRegs d) fun wi =>
    let w := s.wave wi
    let word := wordOfInstr (.mmz d)
    if w.overDepth .tile 1 then queueTrap s wi word .tile
    else advance (tileEffect s wi word { fn := .zero, d := d } (fun _ => []) none (.due (s.waveClk wi + 1))) wi

/-- The list addresses of a `gmma`: lane and address (R212). -/
def Wave.listAddrs (w : Wave) (xs : BitVec 7) : List (Nat × Nat) :=
  let l := w.fragment 0xFFFFFFFF xs
  ((List.range 32).map fun i => (i, (l.getD i 0).toNat)).filter fun x => x.2 != 0xFFFFFFFF

/-- The checks of a `gmma` list (R141, R212, R228). -/
def State.listCheck (s : State) (wi : Nat) (l : List (Nat × Nat)) : Option (Nat × Word) :=
  match s.memCheck wi 64 false l with
  | some x => some x
  | none =>
    let out := l.filter fun x => spaceOf x.2 != .shared
    if out.isEmpty then none else some (10, maskOf fun i => out.any fun x => x.1 == i)

/-- `gmma` (R212, R213). -/
def execGmma (d b : BitVec 4) (xs : BitVec 7) (p : BitVec 2) (s : State) : Host.Outcome State Fault Refusal :=
  let r : TileReq := { fn := .gmma p.toNat, d := d, b := some b, xs := [xs] }
  begin_ s r.regs fun wi =>
    let w := s.wave wi
    let word := wordOfInstr (.gmma d b xs p)
    let l := w.listAddrs xs
    let gen := (s.waveBlock wi).gen
    let mk (oi : Nat) (k : AccKind) (ls : List (Nat × Nat)) : List Acc :=
      if ls.isEmpty then []
      else [{ op := oi, wave := wi, kind := k, space := .shared, width := 64, clk := w.rc, gen := gen
              split := !w.tokens.isEmpty, lanes := ls.map fun x => { lane := x.1, addr := x.2 } }]
    let rows := l.filter fun x => x.1 < 16
    let stores := l.filter fun x => 16 ≤ x.1
    if w.overDepth .tile 1 then queueTrap s wi word .tile
    else if !(r.widens w).isEmpty && w.qw < w.liveV + (r.widens w).length then
      quotaTrap s wi word ((r.widens w).headD 0)
    else match s.listCheck wi l with
      | some (code, lanes) => issueTrap s wi word .mem code lanes [] (l.filter fun x => bit lanes x.1)
      | none =>
        if s.stageFull w.part || (freeEntries w.log).isEmpty || ((w.reg xs).isV && (freeEntries w.full).isEmpty) then
          stall s wi
        else match denseHold s w.part with
          | (s, true) => stall s wi
          | (s, false) =>
            if w.softReads r.regs then softTrap s wi word w.pm r.regs
            else advance (tileEffect s wi word r (fun oi => mk oi .gather rows ++ mk oi .scatter stores) (some (w.reg xs))
              (if rows.isEmpty then .staged else .gathering)) wi

/-! ### Completion (R208 to R214) -/

/-- The gather of a `gmma` has performed: its tile begins (R213). -/
def gatherDone (s : State) (oi : Nat) (got : List (Nat × Bytes)) : State :=
  match s.opTile oi with
  | none => s
  | some ti =>
    let t := s.tile ti
    let s := s.modOp oi fun o => { o with got := got }
    startTile (s.modTile ti fun t => { t with st := .staged }) t.part (s.partClk t.part)

/-- A tile raises ARITH: the D block is not written, and its operands stay held (R210, R214). -/
def tileTrap (s : State) (ti code : Nat) (flags : List Nat) : State :=
  let t := s.tile ti
  let o := s.op t.op
  let w := s.wave t.wave
  let word (i : Nat) : Nat :=
    (List.range 32).foldl (fun acc b => if flags.getD (32 * i + b) 0 &&& trapBits ≠ 0 then acc + 2 ^ b else acc) 0
  if (w.trapMode && t.op < w.trapOp) || (!w.trapMode && (w.trapHalt || w.trapDue)) then
    s.modWave t.wave fun w => { w with heldAcc := w.heldAcc ++ [.tile ti], sb := setMore w.sb true }
  else
    takeTrap s t.wave
      { cls := .arith, code := code, kind := .access, tpc := o.pc, rpc := w.pc, iword := o.word, logix := o.logix
        guard := o.guard, mode := o.mode, laneDetail := (List.range 8).map fun i => (i, word i), what := .tile ti }

/-- The bytes that scatter row m stores (R212). -/
def scatterRow (outs : List (Nat × Nat)) (m : Nat) : Bytes :=
  ((List.range 16).map fun n => natLe 4 (outs.getD (16 * m + n) (0, 0)).1).flatten

/-- Compute a tile: its D block and flags, or its trap (R204, R208, R210, R211). -/
def tileWrite (s : State) (ti : Nat) : State :=
  let t := s.tile ti
  let o := s.op t.op
  let outs := t.outs o.mode o.got
  let flags := outs.map (·.2)
  let all := flags.foldl (· ||| ·) 0
  match (if modeTrap o.mode then arithCode all else none) with
  | some code =>
    let s := s.modTile ti fun t => { t with st := .trapped }
    let s := (s.modWave t.wave fun w => w.unpend o.dst)
    tileTrap (countDown s t.op 1) ti code flags
  | none =>
    let put (j : Nat) : Reg :=
      if t.fn = .zero then .u 0
      else Reg.ofFn fun l => BitVec.ofNat 32 (outs.getD (16 * (2 * j + l / 16) + l % 16) (0, 0)).1
    let s := if t.voided then s else putAll s t.wave (o.dst.mapIdx fun j d => (d, put j))
    let s := orFstat s t.wave all
    if s.accs.any fun a => a.op == t.op && a.kind == .scatter && !a.isOver then
      let fill (a : Acc) : Acc :=
        if a.op == t.op && a.kind == .scatter then
          { a with lanes := a.lanes.map fun l => { l with data := scatterRow outs (l.lane - 16) } }
        else a
      { (s.modTile ti fun t => { t with st := .scattering }) with accs := s.accs.map fill }
    else tileOver s ti .done

/-- Run a trapped tile again from its held operands, on the partition where its wave now is (R209, R210). -/
def tileRerun (s : State) (ti : Nat) : State :=
  let t := s.tile ti
  let o := s.op t.op
  let p := (s.wave t.wave).part
  let s := s.modWave t.wave fun w =>
    { (w.countUp .tile 1) with
      pend := o.dst ++ w.pend
      slots := (o.dst.filter fun d => !w.hasSlot d).foldl takeSlot w.slots }
  let s := s.modOp t.op fun o => { o with counted := 1 }
  startTile (feedStage (s.modTile ti fun t => { t with st := .rerun, part := p }) p) p (s.partClk p)

/-- A trapped tile is dropped (R210). -/
def tileDrop (s : State) (ti : Nat) : State :=
  let t := s.tile ti
  let s := { s with accs := s.accs.map fun (a : Acc) => if a.op == t.op && a.kind == AccKind.scatter then { a with st := .dropped } else a }
  releaseLog (s.modTile ti fun t => { t with st := .dropped }) t.op

/-- A tile whose D block is due is written (R209, R211). -/
def tileDue (s : State) (ti : Nat) : State :=
  let t := s.tile ti
  match t.st with
  | .due c => if c ≤ s.partClk t.part then tileWrite s ti else s
  | _ => s

/-- TILE_COMPLETE: a tile operation writes its D block (R209, R211). -/
def execTileComplete (ti : Nat) (s : State) : Host.Outcome State Fault Refusal := .next (tileDue s ti)

/-- The tensor core has run its tile for the clocks that the tile occupies it (R209). -/
def tensorEnd (s : State) (p : PartRef) : State :=
  match s.runningTile p with
  | some ti => match (s.tile ti).st with
    | .running c =>
      if c ≤ s.partClk p then
        startTile ((s.modTile ti fun t => { t with st := .due (c + 16) }).modPart p fun x => { x with idleSince := some c }) p c
      else s
    | _ => s
  | none => s

/-- What the tensor core of a partition has completed by now: it is counted before any check of this clock
(R73, R209). -/
def tilesDue (s : State) (p : PartRef) : State :=
  (List.range s.tiles.length).foldl (fun s ti => if (s.tile ti).part == p then tileDue s ti else s)
    ((List.range 3).foldl (fun s _ => tensorEnd s p) s)

/-- OCCUPANCY_END: the occupancy of a unit runs out (R103, R209). -/
def execOccupancyEnd (p : PartRef) (u : ExecUnit) (s : State) : Host.Outcome State Fault Refusal :=
  .next (match u with
    | .tensor => tensorEnd s p
    | u => if s.busyUntil p u ≤ s.partClk p then
        s.modPart p fun x => { x with busy := x.busy.filter fun b => b.1 != u }
      else s)

end Sys2Proof.Machine
end

