-- ==== Sys2Proof/Machine/Resolve.lean ====
section
/-!
DEFINITION. How a trap ends: `tret`, `retry`, `skip` and resumption, and the held accesses that follow
(R219, R233 to R237).
-/

namespace Sys2Proof.Machine

/-- The three ways of R219. -/
inductive Resolution where
  | tret | retry | skip
  deriving DecidableEq, Repr

/-- Fields of the side-buffer entry (R231, R232). -/
def Wave.trapKind (w : Wave) : Nat := bitsOf (w.sb.getD 0 0).toNat 28 2
def Wave.trapCode (w : Wave) : Nat := bitsOf (w.sb.getD 0 0).toNat 8 8
def Wave.trapClass (w : Wave) : Nat := bitsOf (w.sb.getD 0 0).toNat 0 4
def Wave.tpc (w : Wave) : Word := w.sb.getD 1 0
def Wave.rpc (w : Wave) : Word := w.sb.getD 2 0

/-- What a held access or tile failed on is taken as a new trap (R235). DEDUCED, log 28. -/
def heldTrap (s : State) : TrapWhat → State
  | .access a => match (s.acc a).fail with
    | some (cls, code, lanes, detail) => accessTrap s a cls code lanes detail
    | none => s
  | .start a => match (s.acc a).fail with
    | some (cls, code, lanes, detail) => accessTrap s a cls code lanes detail
    | none => s
  | .tile t =>
    let o := s.op (s.tile t).op
    let flags := ((s.tile t).outs o.mode o.got).map (·.2)
    tileTrap s t ((arithCode (flags.foldl (· ||| ·) 0)).getD 1) flags
  | .none => s

/-- The oldest held access is taken as a new trap once trap mode has ended (R235). -/
def takeHeld (s : State) (wi : Nat) : State :=
  match (s.wave wi).heldAcc with
  | [] => s
  | x :: rest =>
    let s := heldTrap (s.modWave wi fun w => { w with heldAcc := rest }) x
    s.modWave wi fun w => { w with sb := setMore w.sb (!rest.isEmpty) }

/-- What `retry` or `skip` of an access trap does to the access: it re-enters S1, or is dropped; one whose log entry
was voided is dropped (R219, R237). -/
def resolveAccess (s : State) (wi : Nat) (skip : Bool) : State :=
  match (s.wave wi).what with
  | .access a => if skip || (s.op (s.acc a).op).voided then dropAcc s a else reissue s a
  | .start a => if skip || (s.op (s.acc a).op).voided then dropAcc s a else reissue s a
  | .tile t => if skip || (s.tile t).voided then tileDrop s t else tileRerun s t
  | .none => s

/-- The skip rule of a stopped instruction: `meet` and `await` clear their token and the arrival stays counted;
`pckpt` withdraws its arrival; `vclaim` and `waitc` have nothing to undo (R46, R177, R180, R182). -/
def skipWait (s : State) (wi : Nat) : State :=
  let w := s.wave wi
  if w.trapClass = 8 && w.trapCode = 2 then
    let nb := (w.sb.getD 10 0).toNat
    if nb = 32 then
      (s.modWave wi fun w => { w with arriving := w.arriving.filter fun a => a.1 != 32 }).modBlock w.blk fun b =>
        { b with ckpt := b.ckpt.filter (· != wi) }
    else s.modWave wi fun w => { w with tokens := w.tokens.filter fun t => t.1 != nb }
  else s

/-- RETURN FROM A TRAP (R219): the effect, then the end of trap mode, then the oldest held access. `tret` of an access
trap is refused before this. DEDUCED, log 23, 24. -/
def resolve (s : State) (wi : Nat) (how : Resolution) : State :=
  let w := s.wave wi
  let s := match w.trapKind with
    | 0 => leaveTrap s wi (if how = .skip then w.tpc + 4 else w.rpc)
    | 1 => if how = .skip then leaveTrap (skipWait s wi) wi (w.tpc + 4) else leaveTrap s wi w.tpc
    | 2 => leaveTrap (resolveAccess s wi (how = .skip)) wi w.rpc
    | _ => leaveTrap s wi (if how = .retry then w.tpc else w.rpc)
  takeHeld s wi

/-- The log entry that a `retry` reads suffered an error (R238). -/
def Wave.badLog (w : Wave) (s : State) : Bool :=
  match w.what with
  | .access a => w.badOps.contains (s.acc a).op
  | .start a => w.badOps.contains (s.acc a).op
  | _ => false

/-- An instruction of trap mode: ILL PRIV outside it (R86, R219). -/
def trapInstr (s : State) (i : Instr) (regs : List (BitVec 7)) (f : Nat → State) : Host.Outcome State Fault Refusal :=
  begin_ s regs fun wi => if (s.wave wi).trapMode then f wi else ill s wi i 7

/-- `tret` (R219): ILL RESOLVE after an access trap. -/
def execTret (s : State) : Host.Outcome State Fault Refusal :=
  trapInstr s .tret [] fun wi => if (s.wave wi).trapKind = 2 then ill s wi .tret 10 else resolve s wi .tret

/-- `retry` (R219). -/
def execRetry (s : State) : Host.Outcome State Fault Refusal :=
  trapInstr s .retry [] fun wi =>
    if (s.wave wi).badLog s then issueTrap s wi (wordOfInstr .retry) .soft 4 0 [4] else resolve s wi .retry

/-- `skip` (R219). -/
def execSkip (s : State) : Host.Outcome State Fault Refusal :=
  trapInstr s .skip [] fun wi => resolve s wi .skip

/-- A U result as a full write, whatever the guard (R39, R220, R221). -/
def putU (s : State) (wi : Nat) (d : BitVec 7) (x : Word) : State := s.modWave wi fun w => w.put d (.u x)

/-- `trd` (R220). -/
def execTrd (d : BitVec 7) (n : BitVec 6) (s : State) : Host.Outcome State Fault Refusal :=
  trapInstr s (.trd d n) [d] fun wi => advance (putU s wi d ((s.wave wi).sb.getD n.toNat 0)) wi

end Sys2Proof.Machine
end

