-- ==== Sys2Proof/Machine/Control.lean ====
section
/-!
DEFINITION. Control transfers, ending, system registers, the pool, race mode, fetch, debug and trace instructions, and
the words that are no native instruction (R70, R86, R98, R215 to R228).
-/

namespace Sys2Proof.Machine

/-- The wave goes on at another PC. -/
def goto (s : State) (wi : Nat) (pc : Word) : State := (advance s wi).modWave wi fun w => { w with pc := pc }

/-- l0 of control and wait instructions: the lowest lane in PM (R215). -/
def Wave.l0 (w : Wave) : Nat := lowest w.pm

/-- A word offset relative to the next instruction (R215). -/
def branchTarget {n : Nat} (pc : Word) (off : BitVec n) : Word := pc + 4 + (off.signExtend 32) * 4

/-- COND (R70). -/
def condHolds (w : Wave) (c : Nat) : Bool :=
  match c with
  | 0 => true
  | 1 => w.z
  | 2 => !w.z
  | 3 => w.n != w.v
  | 4 => w.n == w.v
  | 5 => w.z || w.n != w.v
  | 6 => !w.z && w.n == w.v
  | 7 => !w.c
  | 8 => w.c
  | 9 => w.mz
  | 10 => !w.mz
  | 11 => w.mf
  | _ => !w.mf

/-- `nop` (R88). -/
def execNop (s : State) : Host.Outcome State Fault Refusal := begin_ s [] fun wi => advance s wi

/-- `br.cond` (R70, R215, R304). -/
def execBr (c : BitVec 5) (off : BitVec 19) (s : State) : Host.Outcome State Fault Refusal :=
  begin_ s [] fun wi =>
    let w := s.wave wi
    let taken := condHolds w c.toNat
    let s := if c = 0 then s else emitBranch s wi taken
    goto s wi (if taken then branchTarget w.pc off else w.pc + 4)

/-- `jmp` and `ret`: pc := a[l0] with its low bits cleared (R215). -/
def jumpTo (s : State) (i : Instr) (a : BitVec 7) : Host.Outcome State Fault Refusal :=
  begin_ s [a] fun wi =>
    let w := s.wave wi
    let pc := (w.reg a).lane w.l0 &&& 0xFFFFFFFC
    if w.softReads [a] then softTrap s wi (wordOfInstr i) w.pm [a] else goto (emitTarget s wi pc) wi pc

/-- `jmp` (R215). -/
def execJmp (a : BitVec 7) (s : State) : Host.Outcome State Fault Refusal := jumpTo s (.jmp a) a

/-- `ret` (R215). -/
def execRet (a : BitVec 7) (s : State) : Host.Outcome State Fault Refusal := jumpTo s (.ret a) a

/-- `call` (R215): the link as a full write. -/
def execCall (d : BitVec 7) (off : BitVec 17) (s : State) : Host.Outcome State Fault Refusal :=
  begin_ s [d] fun wi =>
    let pc := (s.wave wi).pc
    goto (putU s wi d (pc + 4)) wi (branchTarget pc off)

/-- `exit` (R25, R217): ILL PRIV in trap mode; otherwise the wave issues nothing further. -/
def execExit (s : State) : Host.Outcome State Fault Refusal :=
  begin_ s [] fun wi =>
    if (s.wave wi).trapMode then ill s wi .exit 7
    else (advance s wi).modWave wi fun w => { w with exited := true }

/-- `trap n` retires and raises DEBUG USER (R217, R218). -/
def execTrap (n : BitVec 8) (s : State) : Host.Outcome State Fault Refusal :=
  begin_ s [] fun wi =>
    let w := s.wave wi
    takeTrap (advance s wi) wi
      { cls := .debug, code := 1, kind := .completed, tpc := w.pc, rpc := w.pc + 4, iword := wordOfInstr (.trap n)
        guard := w.guard, mode := w.mode, detail := [n.toNat] }

/-- The wait that a trap interrupted at this instruction, when the wave comes back to it (R234). -/
def Wave.taken (w : Wave) : Option Stop :=
  if w.trapMode then none else match w.suspended with
    | some (pc, st) => if pc = w.pc then some st else none
    | none => none

/-- `sleep n` (R217): a sleeper that a trap interrupted finishes its remaining count. -/
def execSleep (n : BitVec 24) (s : State) : Host.Outcome State Fault Refusal :=
  begin_ s [] fun wi =>
    let left := match (s.wave wi).taken with
      | some (.asleep m) => m
      | _ => n.toNat
    if left = 0 then advance s wi
    else s.modWave wi fun w => { w with stop := .sleep (s.waveClk wi + left), issued := false }

/-- `mode` (R67, R68). -/
def execMode (m : BitVec 16) (s : State) : Host.Outcome State Fault Refusal :=
  begin_ s [] fun wi => (advance s wi).modWave wi fun w => { w with mode := m }

/-! ### System registers (R10, R221, R222) -/

/-- LOCN of a core (R10). -/
def State.locn (s : State) (p : PartRef) : Nat :=
  2 ^ 28 * generation + 2 ^ 24 + 2 ^ 19 * (p.core / 16) + 2 ^ 15 * (p.core % 16) + 2 * s.moduleNo + p.die

/-- CC of `sreg` 0x00A. -/
def Wave.cc (w : Wave) : Nat :=
  let b (x : Bool) (i : Nat) : Nat := if x then 2 ^ i else 0
  b w.z 0 + b w.n 1 + b w.c 2 + b w.v 3 + b w.mz 4 + b w.mf 5

/-- Race mode codes (R225). -/
def raceCode : RaceMode → Nat
  | .off => 1 | .report => 2 | .fault => 3

/-- The value of a system register (R221). -/
def State.sregValue (s : State) (wi idx : Nat) : Word :=
  let w := s.wave wi
  let b := s.waveBlock wi
  let l := s.waveLaunch wi
  let cl := s.cluster w.cluster
  let n (x : Nat) : Word := BitVec.ofNat 32 x
  match idx with
  | 0x000 => n (s.locn w.part)
  | 0x001 => n w.mode.toNat
  | 0x002 => w.fstat
  | 0x003 => w.hm
  | 0x004 => w.pm
  | 0x005 => n w.pri
  | 0x006 => n w.qv
  | 0x007 => n w.qw
  | 0x008 => n w.liveV
  | 0x009 => n w.queues
  | 0x00A => n w.cc
  | 0x010 => n (b.lin % l.gx)
  | 0x011 => n (b.lin / l.gx % l.gy)
  | 0x012 => n (b.lin / l.gx / l.gy)
  | 0x013 => n l.gx
  | 0x014 => n l.gy
  | 0x015 => n l.gz
  | 0x016 => n w.idx
  | 0x017 => n w.slice
  | 0x018 => n l.slices
  | 0x019 => n l.threads
  | 0x01A => n ((l.threads + 31) / 32)
  | 0x01B => n l.number
  | 0x020 => (s.core w.part.die w.part.core).tallow.signExtend 32
  | 0x021 => n (passCount cl.pass)
  | 0x022 => n cl.step
  | 0x023 => w.gatecnt
  | 0x024 => n (raceCode w.race)
  | 0x025 => n (b.gen % 2 ^ 22)
  | _ => 0

/-- `sreg` (R221). -/
def execSreg (d : BitVec 7) (idx : BitVec 10) (s : State) : Host.Outcome State Fault Refusal :=
  begin_ s [d] fun wi => advance (putU s wi d (s.sregValue wi idx.toNat)) wi

/-- `sset` (R22, R221): FSTAT and PRI are written; every other index is read-only, ILL STATE. -/
def execSset (a : BitVec 7) (idx : BitVec 10) (s : State) : Host.Outcome State Fault Refusal :=
  begin_ s [a] fun wi =>
    let w := s.wave wi
    let x := (w.reg a).lane w.l0
    if idx.toNat ≠ 2 && idx.toNat ≠ 5 then ill s wi (.sset a idx) 8
    else if w.softReads [a] then softTrap s wi (wordOfInstr (.sset a idx)) w.pm [a]
    else if idx.toNat = 2 then (advance s wi).modWave wi fun w => { w with fstat := x &&& 0x7F }
    else (advance s wi).modWave wi fun w => { w with pri := x.toNat % 16 }

/-- `rdclk` (R222). -/
def execRdclk (d : BitVec 7) (s : State) : Host.Outcome State Fault Refusal :=
  begin_ s [d, regFrom d 1] fun wi =>
    let t := s.tick
    advance (putU (putU s wi d (BitVec.ofNat 32 t)) wi (regFrom d 1) (BitVec.ofNat 32 (t / 2 ^ 32))) wi

/-! ### The pool (R42 to R44, R223) -/

/-- `vclaim` (R223): `vclaim 0` retires at once; otherwise the wave waits in CLAIM. -/
def execVclaim (n : BitVec 7) (s : State) : Host.Outcome State Fault Refusal :=
  begin_ s [] fun wi =>
    let w := s.wave wi
    if n = 0 then advance s wi
    else if 128 < w.qw + n.toNat then
      issueTrap s wi (wordOfInstr (.vclaim n)) .shape 4 0 [0, w.liveV, w.qw, n.toNat]
    else
      (s.modWave wi fun w => w.stopAt (.claim n.toNat)).modPart w.part fun p =>
        { p with claims := p.claims ++ [(wi, n.toNat)] }

/-- The slots of a list without its `n` highest-numbered free ones (R43). -/
def dropHighest (l : List Slot) (n : Nat) : List Slot :=
  let free := (l.filter fun x => x.reg.isNone).map (·.phys)
  let sorted := free.foldl (fun acc x => insertNat x acc) []
  let out := sorted.drop (sorted.length - n)
  l.filter fun x => !(x.reg.isNone && out.contains x.phys)

/-- `vrel` (R223). -/
def execVrel (n : BitVec 7) (s : State) : Host.Outcome State Fault Refusal :=
  begin_ s [] fun wi =>
    let w := s.wave wi
    if w.qw < n.toNat || w.qw - n.toNat < w.liveV then
      issueTrap s wi (wordOfInstr (.vrel n)) .shape 3 0 [0, w.liveV, w.qw, n.toNat]
    else (advance s wi).modWave wi fun w =>
      { w with qw := w.qw - n.toNat, share := Nat.min w.share (w.qw - n.toNat), slots := dropHighest w.slots n.toNat }

/-! ### `launch` (R224) -/

/-- The MEM code of a record address: R141 over its bytes, then RECORD (R224, R228). -/
def State.recordCheck (s : State) (wi a : Nat) : Option Nat :=
  let at_ (j : Nat) : Nat := (a + j) % 2 ^ 32
  let codes := ((List.range 6).map fun j => s.memCode wi (at_ (64 * j)) 1 false) ++ [s.memCode wi (at_ 383) 1 false]
  let low := codes.foldl (fun acc c => match c with | some x => lowerCode acc x | none => acc) none
  match (if a % 64 ≠ 0 then lowerCode low 7 else low) with
  | some c => some c
  | none => if spaceOf a == .spill || spaceOf (at_ 383) == .spill then some 11 else none

/-- `launch` (R224): the record is read once the condition of `fence.module` holds, and the wave issues nothing more
until D is written. -/
def execLaunch (d a : BitVec 7) (s : State) : Host.Outcome State Fault Refusal :=
  begin_ s [d, a] fun wi =>
    let w := s.wave wi
    let word := wordOfInstr (.launch d a)
    let addr := (w.reg a).lane w.l0
    match s.recordCheck wi addr.toNat with
    | some code => issueTrap s wi word .mem code (maskOf (· == w.l0)) [] [(w.l0, addr.toNat)]
    | none =>
      if w.softReads [a] then softTrap s wi word w.pm [a]
      else
        let oi := s.ops.length
        let o : MemOp := { wave := wi, word := word, pc := w.pc, guard := w.guard, mode := w.mode, race := w.race, cls := none }
        let acc : Acc :=
          { op := oi, wave := wi, kind := .record, space := spaceOf addr.toNat, width := 64, clk := w.rc
            gen := (s.waveBlock wi).gen, split := !w.tokens.isEmpty
            lanes := (List.range 6).map fun j => { lane := w.l0, addr := addr.toNat + 64 * j } }
        let s := { s with ops := s.ops ++ [o], accs := s.accs ++ [acc] }
        (advance s wi).modWave wi fun w =>
          { w with rc := (w.rc + 1) % 2 ^ 22, holds := .launch d addr oi :: w.holds, pend := d :: w.pend }

/-! ### Race mode, fetch, debug and trace (R225 to R227) -/

/-- The nearest permitted mode (R225). -/
def clampRace (v : ViDesc) (m : RaceMode) : RaceMode :=
  if raceCode m < raceCode v.raceMin then v.raceMin else if raceCode v.raceMax < raceCode m then v.raceMax else m

/-- The mode that a code names (R225). -/
def raceOf (c : Nat) : RaceMode := if c = 2 then .report else if c = 3 then .fault else .off

/-- `rcmode` (R225). -/
def execRcmode (m : BitVec 2) (s : State) : Host.Outcome State Fault Refusal :=
  begin_ s [] fun wi =>
    let v := (s.vi (s.waveLaunch wi).vi).desc
    (advance s wi).modWave wi fun w => { w with race := clampRace v (raceOf m.toNat) }

/-- `iinv` (R226). -/
def execIinv (s : State) : Host.Outcome State Fault Refusal :=
  begin_ s [] fun wi =>
    let p := (s.wave wi).part
    advance (s.modCore p.die p.core fun c => { c with fetch := [] }) wi

/-- A policy to continue is in force for a tag: only while a debugger is attached (R227). PRESUMED, log 31. -/
def State.brkContinues (s : State) (tag : Nat) : Bool := s.attached && s.brkGo.contains tag

/-- `brk` (R227): it retires; under a policy to continue it is counted, and otherwise the wave halts. -/
def execBrk (tag : BitVec 16) (s : State) : Host.Outcome State Fault Refusal :=
  begin_ s [] fun wi =>
    let s := advance s wi
    if s.brkContinues tag.toNat then
      { s with brkCount := setNat s.brkCount tag.toNat ((lookupNat s.brkCount tag.toNat).getD 0 + 1) }
    else (s.modWave wi fun w => { w with halted := true }).post (.brk wi tag.toNat)

/-- `trc 0` (R227). -/
def execTrcStop (s : State) : Host.Outcome State Fault Refusal := begin_ s [] fun wi => traceStop (advance s wi) wi

/-- `trc 1` (R227). -/
def execTrcStart (s : State) : Host.Outcome State Fault Refusal := begin_ s [] fun wi => traceStart (advance s wi) wi

/-- `trc 2` (R227): a SYNC packet; no effect with no trace region. -/
def execTrcSync (s : State) : Host.Outcome State Fault Refusal :=
  begin_ s [] fun wi => let s := advance s wi; if (s.traceBuf wi).isSome then emitSync s wi else s

/-! ### Words that are no native instruction (R86, R98, R216) -/

/-- XLT PORTABLE of a word (R98). -/
def portableTrap (s : State) (word : Word) : Host.Outcome State Fault Refusal :=
  begin_ s [] fun wi => issueTrap s wi word .xlt 1

/-- `xperm` on native hardware (R98). -/
def execXperm (d a b : BitVec 7) (s : State) : Host.Outcome State Fault Refusal :=
  portableTrap s (wordOfInstr (.xperm d a b))

/-- `xbcast` on native hardware (R98). -/
def execXbcast (d a b : BitVec 7) (s : State) : Host.Outcome State Fault Refusal :=
  portableTrap s (wordOfInstr (.xbcast d a b))

/-- `xredux.add` on native hardware (R98). -/
def execXreduxAdd (d a : BitVec 7) (s : State) : Host.Outcome State Fault Refusal :=
  portableTrap s (wordOfInstr (.xreduxAdd d a))

/-- `xredux.min` on native hardware (R98). -/
def execXreduxMin (d a : BitVec 7) (s : State) : Host.Outcome State Fault Refusal :=
  portableTrap s (wordOfInstr (.xreduxMin d a))

/-- `xredux.max` on native hardware (R98). -/
def execXreduxMax (d a : BitVec 7) (s : State) : Host.Outcome State Fault Refusal :=
  portableTrap s (wordOfInstr (.xreduxMax d a))

/-- `xscan` on native hardware (R98). -/
def execXscan (d a : BitVec 7) (s : State) : Host.Outcome State Fault Refusal :=
  portableTrap s (wordOfInstr (.xscan d a))

/-- `xballot` on native hardware (R98). -/
def execXballot (d : BitVec 7) (k : BitVec 4) (c : BitVec 3) (s : State) : Host.Outcome State Fault Refusal :=
  portableTrap s (wordOfInstr (.xballot d k c))

/-- `xwidth` on native hardware (R98). -/
def execXwidth (d : BitVec 7) (s : State) : Host.Outcome State Fault Refusal :=
  portableTrap s (wordOfInstr (.xwidth d))

/-- PORTABLE_ONLY_WORD (R98). -/
def execPortableOnlyWord (word : Word) (s : State) : Host.Outcome State Fault Refusal := portableTrap s word

/-- Codes of R86; `mode` with a forbidden immediate is MODEIMM. -/
def errorCode : DecodeError → Nat
  | .opcode => 1 | .subop => 2 | .zero => 3 | .align => 4 | .modeimm => 5 | .portable => 1

/-- The ILL code that an instruction meets at issue in its wave: ALIGN and TYPE under MODE, PRIV, STATE
(R66, R86). -/
def issueIll (w : Wave) : Instr → Option Nat
  | .tret => if w.trapMode then none else some 7
  | .retry => if w.trapMode then none else some 7
  | .skip => if w.trapMode then none else some 7
  | .trd .. => if w.trapMode then none else some 7
  | .exit => if w.trapMode then some 7 else none
  | .sset _ idx => if idx.toNat ≠ 2 && idx.toNat ≠ 5 then some 8 else none
  | .add d a b => typedCheck w.mode allTypes [d, a, b]
  | .sub d a b => typedCheck w.mode allTypes [d, a, b]
  | .mul d a b => typedCheck w.mode allTypes [d, a, b]
  | .mulhi d a b => typedCheck w.mode [0, 1, 6] [d, a, b]
  | .fma d a b => typedCheck w.mode allTypes [d, a, b]
  | .fms d a b => typedCheck w.mode allTypes [d, a, b]
  | .fnma d a b => typedCheck w.mode allTypes [d, a, b]
  | .min d a b => typedCheck w.mode allTypes [d, a, b]
  | .max d a b => typedCheck w.mode allTypes [d, a, b]
  | .abs d a => typedCheck w.mode allTypes [d, a]
  | .neg d a => typedCheck w.mode allTypes [d, a]
  | .addi d a _ => typedCheck w.mode [0, 1] [d, a]
  | .cmpEq _ a b => typedCheck w.mode allTypes [a, b]
  | .cmpNe _ a b => typedCheck w.mode allTypes [a, b]
  | .cmpLt _ a b => typedCheck w.mode allTypes [a, b]
  | .cmpLe _ a b => typedCheck w.mode allTypes [a, b]
  | .cmpGt _ a b => typedCheck w.mode allTypes [a, b]
  | .cmpGe _ a b => typedCheck w.mode allTypes [a, b]
  | .cmpOrd _ a b => typedCheck w.mode [2, 3, 4, 5] [a, b]
  | .cmpEqU _ a b => typedCheck w.mode [2, 3, 4, 5] [a, b]
  | .cmpNeU _ a b => typedCheck w.mode [2, 3, 4, 5] [a, b]
  | .cmpLtU _ a b => typedCheck w.mode [2, 3, 4, 5] [a, b]
  | .cmpLeU _ a b => typedCheck w.mode [2, 3, 4, 5] [a, b]
  | .cmpGtU _ a b => typedCheck w.mode [2, 3, 4, 5] [a, b]
  | .cmpGeU _ a b => typedCheck w.mode [2, 3, 4, 5] [a, b]
  | .cmpUno _ a b => typedCheck w.mode [2, 3, 4, 5] [a, b]
  | .reduxAdd .. => typedCheck w.mode [0, 1, 2] []
  | .reduxMin .. => typedCheck w.mode [0, 1, 2] []
  | .reduxMax .. => typedCheck w.mode [0, 1, 2] []
  | .reduxAddn .. => typedCheck w.mode [0, 1, 2] []
  | .scanAdd .. => typedCheck w.mode [0, 1, 2] []
  | .scanAddn .. => typedCheck w.mode [0, 1, 2] []
  | .rcp d a => typedCheck w.mode [2, 3, 4, 5] [d, a]
  | .rsq d a => typedCheck w.mode [2, 3, 4, 5] [d, a]
  | .sqrt d a => typedCheck w.mode [2, 3, 4, 5] [d, a]
  | .ex2 d a => typedCheck w.mode [2, 3, 4] [d, a]
  | .lg2 d a => typedCheck w.mode [2, 3, 4] [d, a]
  | .sinpi d a => typedCheck w.mode [2, 3, 4] [d, a]
  | .cospi d a => typedCheck w.mode [2, 3, 4] [d, a]
  | .tanh d a => typedCheck w.mode [2, 3, 4] [d, a]
  | .scl d a _ _ => typedCheck w.mode [2, 3, 4, 5] [d, a]
  | .atomMin .. => typedCheck w.mode [0, 1] []
  | .atomMax .. => typedCheck w.mode [0, 1] []
  | _ => none

/-- The ILL code that a word raises: its own, where it is no instruction; an instruction stands at or beyond CODELEN,
and raises the code that it meets in its wave, and otherwise TARGET, which comes after every code of R86
(R87, R216, R228). A portable-only word has no ILL code of its own. DEDUCED, log 22. -/
def illCode (w : Wave) (word : Word) : Nat :=
  match decode word with
  | .error .portable => 9
  | .error e => errorCode e
  | .ok i => (issueIll w i).getD 9

/-- ILL_WORD (R86, R87, R216). -/
def execIllWord (word : Word) (s : State) : Host.Outcome State Fault Refusal :=
  begin_ s [] fun wi => issueTrap s wi word .ill (illCode (s.wave wi) word)

end Sys2Proof.Machine
end

