-- ==== Sys2Proof/Machine/CopyBase.lean ====
section
/-!
DEFINITION. Copies before they move: template records and their holes, the element walk, the spans of a copy, range
locks, and the parts of the race check that a copy makes (R148, R184 to R192, R196, R200, R255, R258).
-/

namespace Sys2Proof.Machine

/-! ### Template records (R185, R186) -/

/-- The fields of a 128-byte record. -/
def parseTemplate (bs : Bytes) : Template :=
  let num (o n : Nat) : Nat := leNat ((bs.drop o).take n)
  { ctrl := num 0 4, mask := num 4 2, src := num 8 8, dst := num 0x10 8
    count := (List.range 5).map fun k => num (0x18 + 4 * k) 4
    sstride := (List.range 5).map fun k => sext 32 (num (0x2C + 4 * k) 4)
    dstride := (List.range 5).map fun k => sext 32 (num (0x40 + 4 * k) 4)
    inc := num 0x54 4, cnt := num 0x58 8, aux := (List.range 4).map fun k => num (0x60 + 4 * k) 4
    holes := (List.range 8).map fun k => num (0x70 + k) 1 }

namespace Template

def modeNo (t : Template) : Nat := bitsOf t.ctrl 0 4
def scope (t : Template) : Nat := bitsOf t.ctrl 4 3
/-- Bytes of an element. -/
def esize (t : Template) : Nat := 2 ^ bitsOf t.ctrl 7 3
def ndim (t : Template) : Nat := bitsOf t.ctrl 10 3
def det (t : Template) : Bool := bitsOf t.ctrl 17 1 == 1

def spaceNo (n : Nat) : TSpace := if n = 0 then .shared else if n = 1 then .scratch else .main
def sspace (t : Template) : TSpace := spaceNo (bitsOf t.ctrl 13 2)
def dspace (t : Template) : TSpace := spaceNo (bitsOf t.ctrl 15 2)
def cspace (t : Template) : TSpace := spaceNo (bitsOf t.ctrl 18 2)
def aspace (t : Template) : TSpace := spaceNo (bitsOf t.ctrl 20 1)

def mode (t : Template) : CopyMode :=
  [CopyMode.copy, .halo, .bin, .gather, .rscatter, .agather, .decode].getD t.modeNo .copy

/-- A count, 1 above NDIM (R185). -/
def countOf (t : Template) (k : Nat) : Nat := if k < t.ndim then t.count.getD k 0 else 1

/-- The product of the counts (R197). -/
def elements (t : Template) : Nat := ((List.range 5).map t.countOf).foldl (· * ·) 1

def auxOf (t : Template) (k : Nat) : Nat := t.aux.getD k 0
def sstr (t : Template) (k : Nat) : Int := t.sstride.getD k 0
def dstr (t : Template) (k : Nat) : Int := t.dstride.getD k 0

/-- A record with no reserved value, given its two reserved fields (R185). -/
def loadable (t : Template) (rsv : Nat) : Bool :=
  rsv == 0 && bitsOf t.ctrl 21 11 == 0 && t.modeNo ≤ 6 && t.scope ≤ 4 && bitsOf t.ctrl 7 3 ≤ 4 && 1 ≤ t.ndim &&
    t.ndim ≤ 5 && bitsOf t.ctrl 13 2 ≤ 2 && bitsOf t.ctrl 15 2 ≤ 2 && bitsOf t.ctrl 18 2 ≤ 2

/-- Replace one 32-bit half of a 64-bit field. -/
def setLow (x v : Nat) : Nat := x / 2 ^ 32 * 2 ^ 32 + v
def setHigh (x v : Nat) : Nat := x % 2 ^ 32 + v * 2 ^ 32

/-- Fill one hole (R188). -/
def fillHole (t : Template) (args : List Word) (h : Nat) : Template :=
  let v := (args.getD (h / 16) 0).toNat
  match h % 16 with
  | 1 => { t with src := setLow t.src v }
  | 2 => { t with src := setHigh t.src v }
  | 3 => { t with dst := setLow t.dst v }
  | 4 => { t with dst := setHigh t.dst v }
  | 5 => { t with count := t.count.set 0 v }
  | 6 => { t with count := t.count.set 1 v }
  | 7 => { t with count := t.count.set 2 v }
  | 8 => { t with count := t.count.set 3 v }
  | 9 => { t with count := t.count.set 4 v }
  | 10 => { t with cnt := setLow t.cnt v }
  | 11 => { t with cnt := setHigh t.cnt v }
  | 12 => { t with inc := v }
  | 13 => { t with mask := v }
  | 14 => { t with aux := t.aux.set 0 v }
  | 15 => { t with aux := t.aux.set 1 v }
  | _ => t

/-- No MASK hole has an argument above 16 bits (R188). -/
def holesOk (t : Template) (args : List Word) : Bool :=
  t.holes.all fun h => h % 16 != 13 || (args.getD (h / 16) 0).toNat < 65536

/-- Fill the holes in order (R188). -/
def fill (t : Template) (args : List Word) : Template := t.holes.foldl (fun t h => t.fillHole args h) t

/-! ### The element walk (R190) -/

/-- Indices of a dimension list, dimension 0 innermost: offsets of source and destination. -/
def walkDims (t : Template) : Nat → List (Int × Int)
  | 0 => [(0, 0)]
  | k + 1 =>
    (List.range (t.countOf k)).flatMap fun (i : Nat) =>
      (walkDims t k).map fun o => (o.1 + i * t.sstr k, o.2 + i * t.dstr k)

/-- Source and destination address of each element, in the order of R190. -/
def elems (t : Template) : List (Int × Int) :=
  (walkDims t 5).map fun o => ((t.src : Int) + o.1, (t.dst : Int) + o.2)

/-- Lowest and highest byte that a walk from `base` with these strides touches. -/
def extent (t : Template) (base : Nat) (str : Nat → Int) (dims : List Nat) : Int × Int :=
  let lo := dims.foldl (fun acc k => acc + min 0 (((t.countOf k : Int) - 1) * str k)) (base : Int)
  let hi := dims.foldl (fun acc k => acc + max 0 (((t.countOf k : Int) - 1) * str k)) (base : Int)
  (lo, hi + t.esize - 1)

/-- Slices that a multicast delivers to (R190); none: the destination as it stands. -/
def slices (t : Template) : List Nat := (List.range 16).filter fun j => bitsOf t.mask j 1 == 1

/-- Rows of the destination of a BIN copy (R194). -/
def nb (t : Template) : Nat := bitsOf (t.auxOf 2) 0 16
def cap (t : Template) : Nat := bitsOf (t.auxOf 2) 16 16
def binRows (t : Template) : Nat := t.nb * t.cap + t.auxOf 3

/-- Participants of a collective (R196). -/
def peersNo (t : Template) : Nat := bitsOf (t.auxOf 1) 0 11

/-- AUX0 and AUX1 of a DECODE copy as a 57-bit address (R198). -/
def context (t : Template) : Nat := (t.auxOf 0 + t.auxOf 1 * 2 ^ 32) % 2 ^ 57

end Template

/-! ### Address ranges -/

/-- A range of bytes in a space, as integers before they are checked. -/
structure Range where
  space : TSpace
  lo : Int
  hi : Int

/-- The bytes of a list of `n` entries of `w` bytes at an AUX address (R193, R194, R196). -/
def auxRange (t : Template) (k n w : Nat) : List Range :=
  if n = 0 then [] else [⟨t.aspace, t.auxOf k, t.auxOf k + n * w - 1⟩]

/-- The source ranges that a copy reads: data first, then its lists. -/
def Template.reads (t : Template) : List Range :=
  let all := [0, 1, 2, 3, 4]
  match t.mode with
  | .gather =>
    let rows := t.auxOf 1
    let lo := t.extent t.src t.sstr [0]
    (if rows = 0 then [] else
      [⟨t.sspace, lo.1 + min 0 (((rows : Int) - 1) * t.sstr 1), lo.2 + max 0 (((rows : Int) - 1) * t.sstr 1)⟩])
      ++ auxRange t 0 (t.countOf 1) 4
  | .bin => let e := t.extent t.src t.sstr all; ⟨t.sspace, e.1, e.2⟩ :: auxRange t 0 (t.countOf 1) 4
  | .decode => [⟨.main, t.src, (t.src : Int) + t.countOf 0 - 1⟩]
  | _ => let e := t.extent t.src t.sstr all; [⟨t.sspace, e.1, e.2⟩]

/-- The destination range of a copy, which a multicast repeats in each slice (R190). -/
def Template.writes (t : Template) : List Range :=
  let all := [0, 1, 2, 3, 4]
  let one : Int × Int := match t.mode with
    | .bin =>
      let e := t.extent t.dst t.dstr [0]
      (e.1 + min 0 (((t.binRows : Int) - 1) * t.dstr 1), e.2 + max 0 (((t.binRows : Int) - 1) * t.dstr 1))
    | .rscatter => ((t.dst : Int), (t.dst : Int) + 4 * (t.elements / Nat.max 1 t.peersNo) - 1)
    | .agather => ((t.dst : Int), (t.dst : Int) + 4 * t.elements * t.peersNo - 1)
    | .decode =>
      let f := Config.maxFrame t.context
      let plane : Int := max 0 (((f.2 : Int) - 1) * t.dstr 1)
      ((t.dst : Int) + min 0 (2 * t.dstr 2) + min 0 (((f.2 : Int) - 1) * t.dstr 1),
        (t.dst : Int) + max 0 (2 * t.dstr 2) + plane + f.1 * t.esize - 1)
    | _ => t.extent t.dst t.dstr all
  if t.mask = 0 then [⟨t.dspace, one.1, one.2⟩]
  else
    let base := t.dst % 0x80000 + t.dst / 0x800000 * 0x800000
    t.slices.map fun (j : Nat) =>
      let d : Int := (base : Int) + 0x80000 * j - t.dst
      ⟨t.dspace, one.1 + d, one.2 + d⟩

/-- Lists that a copy reads or bumps without a lock: bump words and peer lists (R194, R196). -/
def Template.lists (t : Template) : List Range :=
  match t.mode with
  | .bin => auxRange t 1 (t.nb + 1) 4
  | .rscatter => auxRange t 0 t.peersNo 2
  | .agather => auxRange t 0 t.peersNo 2
  | _ => []

/-- The span of whole lines that a range touches; MAIN addresses have 57 bits. -/
def Range.span (r : Range) (blk : Nat) : Span :=
  let m (x : Int) : Nat := match r.space with
    | .main => (x % (2 ^ 57 : Nat)).toNat
    | _ => x.toNat
  ⟨r.space, blk, m r.lo / 64, m r.hi / 64⟩

/-! ### Locks (R148, R184) -/

/-- Two spans of copies overlap; scratchpad and main memory are compared as the copies `c` and `d` see them.
DEDUCED, log 48. -/
def spansMeet (c d : Copy) (x y : Span) : Bool :=
  x.space == y.space && x.lo ≤ y.hi && y.lo ≤ x.hi &&
    (match x.space with
      | .shared => x.blk == y.blk
      | .scratch => c.vi == d.vi && c.die == d.die
      | .main => c.asid == d.asid)

def anyMeet (c d : Copy) (xs ys : List Span) : Bool := xs.any fun x => ys.any fun y => spansMeet c d x y

/-- A copy overlaps an earlier one (R153, R184). -/
def copiesOverlap (c d : Copy) : Bool :=
  anyMeet c d c.dsts (d.srcs ++ d.dsts) || anyMeet c d c.srcs d.dsts

/-- A copy that another party's lock refuses: the holder (R148). The read lock of a HALO copy is recorded later and is
not tested at acceptance (R192). DEDUCED, log 33. -/
def State.lockConflict (s : State) (c : Copy) : Option Copy :=
  s.copies.find? fun d => d.st != .done && d.wave != c.wave &&
    (anyMeet c d c.dsts (d.rlocks ++ d.wlocks) || anyMeet c d c.srcs d.wlocks)

/-! ### Race checks of a copy (R255, R258) -/

/-- Granules of spans in shared memory and scratchpad. -/
def State.spanGranules (s : State) (c : Copy) (spans : List Span) : List Granule :=
  spans.flatMap fun sp =>
    let ls := (List.range (sp.hi + 1 - sp.lo)).map (sp.lo + ·)
    match sp.space with
    | .shared => ls.map fun g => ⟨some sp.blk, (s.block sp.blk).die, g, 64 * g⟩
    | .scratch => ls.map fun g => ⟨none, c.die, s.scratchPhys c.vi c.die (64 * g) / 64, 64 * g⟩
    | .main => []

/-- Who a copy's access is made for (R261). -/
def State.whoCopy (s : State) (c : Copy) (lanes : Word) : Who :=
  { vi := c.vi, die := c.die, copy := true, pc := c.pc, lanes := lanes, launch := (s.launch c.launch).number
    lin := (s.block c.blk).lin, idx := (s.wave c.wave).idx, gen := (s.block c.blk).gen }

/-- A copy as a party of the race check. -/
def State.partyOf (s : State) (c : Copy) : Party :=
  { rid := c.rid, clk := c.clk, clk0 := c.clk, knows := ⟨c.know, c.pg, c.lossy⟩, blk := c.blk
    handle := (s.block c.blk).handle, anc := s.anc c.launch c.die, copy := true }

/-- Under fault, a RACE that cannot refuse an access is handled as under report (R258). DEDUCED, log 34. -/
def lateMode : RaceMode → RaceMode
  | .fault => .report
  | m => m

/-- A phase of a barrier has completed: HALO copies that waited for it record their read lock and are checked
(R192, R258). DEDUCED, log 34. -/
def haloStart (s : State) (blk nb phase : Nat) : State :=
  let gen := (s.block blk).gen
  (List.range s.copies.length).foldl (fun s ci =>
    let c := s.copy ci
    if c.st == .active && c.blk == blk && c.halo == some (nb, phase) then
      let s := s.modCopy ci fun c => { c with rlocks := c.srcs }
      let p : Party := { s.partyOf c with halo := some gen }
      (raceAccess s (lateMode c.race) (s.whoCopy c 0) p false false true gen (s.spanGranules c c.srcs)).1
    else s) s

end Sys2Proof.Machine
end

