-- ==== Sys2Proof/Machine/Sync.lean ====
section
/-!
DEFINITION. Fences, waits, counters, named barriers, `pckpt`, and the events that end a stop
(R44, R46, R73, R154, R175 to R183, R217, R252).
-/

namespace Sys2Proof.Machine

/-! ### Fences and waits -/

/-- `fence` (R154, R175): nothing later issues until its condition holds. -/
def execFence (sc : BitVec 3) (s : State) : Host.Outcome State Fault Refusal :=
  begin_ s [] fun wi =>
    let n := s.ops.length
    advance (s.modWave wi fun w => { w with holds := .fence sc.toNat n :: w.holds }) wi

/-- `pfence` (R154, R181): its earlier stores are first appended; then nothing later issues until the writes it covers
are durable. -/
def execPfence (sc : BitVec 3) (s : State) : Host.Outcome State Fault Refusal :=
  begin_ s [] fun wi =>
    if (s.issuedBefore wi s.ops.length).any fun a => a.kind.isStore && a.kind != .start && !a.isOver then stall s wi
    else
      let n := s.ops.length
      let q := s.appends
      advance (s.modWave wi fun w => { w with holds := .pfence sc.toNat n q :: w.holds }) wi

/-- Every named counter is at or below its limit; one at or above its depth places no condition (R73). -/
def Wave.queuesAt (w : Wave) (ql qs qx qt : Nat) : Bool :=
  (24 ≤ ql || w.ql ≤ ql) && (16 ≤ qs || w.qs ≤ qs) && (8 ≤ qx || w.qx ≤ qx) && (4 ≤ qt || w.qt ≤ qt)

/-- `wait` (R73, R176). -/
def execWait (ql qs : BitVec 5) (qx : BitVec 4) (qt : BitVec 3) (s : State) : Host.Outcome State Fault Refusal :=
  begin_ s [] fun wi =>
    if (s.wave wi).queuesAt ql.toNat qs.toNat qx.toNat qt.toNat then advance s wi
    else s.modWave wi fun w => { w with stop := .wait ql.toNat qs.toNat qx.toNat qt.toNat, issued := false }

/-- A stop ends: the wave goes on after the instruction that stopped it. DEDUCED, log 23. -/
def wake (s : State) (wi : Nat) : State :=
  traceWake ((advance s wi).modWave wi fun w => { w with stop := .run }) wi

/-- WAIT ends once its counters are low enough; PARK on an absent line ends once the line is present (R24). -/
def retest (s : State) (wi : Nat) : State :=
  match (s.wave wi).stop with
  | .wait ql qs qx qt => if (s.wave wi).queuesAt ql qs qx qt then wake s wi else s
  | .line a => if s.allPresent a || (s.acc a).st != .queued then
      traceWake (s.modWave wi fun w => { w with stop := .run }) wi else s
  | _ => s

/-- `waitc` (R141, R146, R154, R158, R177). -/
def execWaitc (a b : BitVec 7) (scope : BitVec 3) (s : State) : Host.Outcome State Fault Refusal :=
  begin_ s [a, b, regFrom b 1] fun wi =>
    let w := s.wave wi
    let word := wordOfInstr (.waitc a b scope)
    let addr := ((w.reg a).lane w.l0).toNat
    let code := match s.memCode wi addr 8 false with
      | some c => some c
      | none => if spaceOf addr == Space.spill then some 9 else none
    match code with
    | some c => issueTrap s wi word .mem c (maskOf (· == w.l0)) [] [(w.l0, addr)]
    | none =>
      let sc := spaceOf addr == Space.scratch && s.inSc (s.waveLaunch wi).vi w.part.die addr
      if sc && !allPerformed (s.issuedBefore wi s.ops.length) then stall s wi
      else if w.softReads [a, b, regFrom b 1] then softTrap s wi word w.pm [a, b, regFrom b 1]
      else
        let target := pairVal ((w.reg b).lane w.l0) ((w.reg (regFrom b 1)).lane w.l0) % 2 ^ 63
        let o : MemOp := { wave := wi, word := word, pc := w.pc, guard := w.guard, mode := w.mode, race := w.race, cls := none
                           acq := some scope.toNat, sc := sc }
        let acc : Acc := { op := s.ops.length, wave := wi, kind := .counter, space := spaceOf addr, width := 8, clk := w.rc
                           gen := (s.waveBlock wi).gen, split := !w.tokens.isEmpty
                           lanes := [{ lane := w.l0, addr := addr }] }
        let ai := s.accs.length
        ({ s with ops := s.ops ++ [o], accs := s.accs ++ [acc] }).modWave wi fun w =>
          { w with stop := .waitc ai target, issued := false }

/-- The counter load of a `waitc` has performed, with this value (R177, R183). DEDUCED, log 54. -/
def counterSeen (s : State) (ai : Nat) (v : Nat) : State :=
  let wi := (s.acc ai).wave
  match (s.wave wi).stop with
  | .waitc a target =>
    if a ≠ ai then s
    else if 2 ^ 63 ≤ v then
      let w := s.wave wi
      let o := s.op (s.acc ai).op
      let addr := ((s.acc ai).lanes.head?.map (·.addr)).getD 0
      takeTrap (s.modAcc ai fun a => { a with st := .dropped }) wi
        { cls := .copy, code := 1, kind := .wait, tpc := w.pc, rpc := w.pc, iword := o.word, guard := o.guard, mode := o.mode
          detail := [v % 2 ^ 32, v / 2 ^ 32, addr] }
    else if target ≤ v then wake (s.modAcc ai fun a => { a with st := .done }) wi
    else s
  | _ => s

/-! ### Named barriers (R178 to R180, R252) -/

def Block.phaseOf (b : Block) (nb : Nat) : Nat := b.phase.getD nb 0

/-- A wave of a block has ended for barriers. -/
def State.endedWave (s : State) (wi : Nat) : Bool := (s.wave wi).ended

/-- The phase that a wave's token records. -/
def Wave.token (w : Wave) (nb : Nat) : Option Nat := w.tokens.lookup nb

/-- Leaving BAR: the acquire of R252 at a generation. -/
def leaveAcquire (s : State) (wi gen : Nat) : State :=
  let b := s.waveBlock wi
  s.modWave wi fun w =>
    let k := b.know.foldl (mergeItem b.handle) ⟨w.know, w.pg, w.lossy⟩
    { w with pg := gen, know := k.know, lossy := k.lossy || b.lossy }

/-- The generation at which a phase of a barrier completed. -/
def Block.genOf (b : Block) (nb phase : Nat) : Nat :=
  ((b.phaseGen.find? fun x => x.1 == nb && x.2.1 == phase).map (·.2.2)).getD b.gen

/-- The phase that a wave waits for has completed. -/
def State.barReady (s : State) (wi nb : Nat) : Bool :=
  match (s.wave wi).token nb with
  | some p => p < (s.waveBlock wi).phaseOf nb
  | none => false

/-- A wave leaves BAR: it clears its token (R179). -/
def leaveBar (s : State) (wi nb : Nat) : State :=
  let p := ((s.wave wi).token nb).getD 0
  let s := leaveAcquire s wi ((s.waveBlock wi).genOf nb p)
  wake (s.modWave wi fun w => { w with tokens := w.tokens.filter fun t => t.1 != nb }) wi

/-- A wave stopped at a barrier leaves it once the phase has completed and it is not halted (R24, R300). -/
def retestBar (s : State) (wi : Nat) : State :=
  match (s.wave wi).stop with
  | .bar nb _ => if s.barReady wi nb && !(s.wave wi).halted then leaveBar s wi nb else s
  | .pckpt =>
    let w := s.wave wi
    match w.ckptDone with
    | some g =>
      if w.halted then s
      else wake ((leaveAcquire s wi g).modWave wi fun w => { w with ckptDone := none, noFlush := true }) wi
    | none => s
  | _ => s

/-- A barrier-phase step ends: every wave of the block halts (R300). -/
def stepEnds (s : State) (blk : Nat) (completed : Option Nat) : State :=
  if (s.block blk).phaseStep then
    let s := (s.block blk).waves.foldl (fun s wi =>
      if (s.wave wi).ended then s else s.modWave wi fun w => { w with halted := true, issued := false }) s
    let s := s.modBlock blk fun b => { b with phaseStep := false }
    match completed with
    | some nb => s.post (.phaseDone blk nb)
    | none => s
  else s

/-- The block's barrier generation advances (R178, R252). -/
def nextGen (s : State) (blk : Nat) : State := s.modBlock blk fun b => { b with gen := (b.gen + 1) % 2 ^ 22 }

/-- Waves of a block that have not ended. -/
def State.living (s : State) (blk : Nat) : List Nat := (s.block blk).waves.filter fun wi => !s.endedWave wi

/-- Complete every phase in which each wave has arrived or ended, and which some wave has arrived in or waits for
(R178). -/
def completePhases (s : State) (blk : Nat) : State :=
  (List.range 32).foldl (fun s nb =>
    let b := s.block blk
    let here := b.arrived.getD nb []
    if !here.isEmpty && (s.living blk).all here.contains then
      let p := b.phaseOf nb
      let s := (nextGen s blk).modBlock blk fun b =>
        { b with phase := b.phase.set nb (p + 1), arrived := b.arrived.set nb [], phaseGen := (nb, p, b.gen) :: b.phaseGen }
      b.waves.foldl retestBar (stepEnds (haloStart s blk nb p) blk (some nb))
    else s) s

/-- Every wave at `pckpt` or ended: the checkpoint may begin (R182). -/
def State.ckptAll (s : State) (blk : Nat) : Bool :=
  let b := s.block blk
  !b.ckpt.isEmpty && (s.living blk).all b.ckpt.contains

/-- SYNC BARDL: every wave that has not ended is in BAR with its arrival counted (R180). A block that waits for its
checkpoint is not deadlocked. -/
def barDeadlock (s : State) (blk : Nat) : State :=
  let live := s.living blk
  let stuck (wi : Nat) : Bool := (s.wave wi).state == .bar && (s.wave wi).arriving.isEmpty && !(s.wave wi).trapDue
  if live.isEmpty || !live.all stuck || s.ckptAll blk then s
  else live.foldl (fun s wi =>
    let w := s.wave wi
    let (nb, i) : Nat × Instr := match w.stop with
      | .bar n false => (n, .meet (BitVec.ofNat 5 n))
      | .bar n true => (n, .await (BitVec.ofNat 5 n))
      | _ => (32, .pckpt)
    takeTrap s wi
      { cls := .sync, code := 2, kind := .wait, tpc := w.pc, rpc := w.pc, iword := wordOfInstr i
        guard := w.stopGuard, mode := w.stopMode, detail := [nb] }) s

/-- After arrivals, endings and departures: completions, then the deadlock check (R178, R180). -/
def barriers (s : State) (blk : Nat) : State :=
  let s := completePhases s blk
  let s := if s.ckptAll blk && (s.block blk).ckptSeq.isNone then
      let q := s.appends
      s.modBlock blk fun b => { b with ckptSeq := some q }
    else s
  barDeadlock s blk

/-- An arrival is made: the token records the phase, and the arrival is counted later (R154, R179). -/
def arriveAt (s : State) (wi nb : Nat) : State :=
  let p := (s.waveBlock wi).phaseOf nb
  let n := s.ops.length
  s.modWave wi fun w => { w with tokens := (nb, p) :: w.tokens, arriving := w.arriving ++ [(nb, n)] }

/-- SYNC BARTWICE or BARWAIT (R180, R183). -/
def barTrap (s : State) (wi : Nat) (i : Instr) (code nb : Nat) : State :=
  issueTrap s wi (wordOfInstr i) .sync code 0 [nb]

/-- `arrive` (R179). -/
def execArrive (nb : BitVec 5) (s : State) : Host.Outcome State Fault Refusal :=
  begin_ s [] fun wi =>
    if ((s.wave wi).token nb.toNat).isSome then barTrap s wi (.arrive nb) 3 nb.toNat
    else advance (arriveAt s wi nb.toNat) wi

/-- Stop at a barrier, and leave it at once where its phase has completed. -/
def waitBar (s : State) (wi nb : Nat) (aw : Bool) : State :=
  let s := s.modWave wi fun w => (w.stopAt (.bar nb aw))
  if s.barReady wi nb then leaveBar s wi nb else barDeadlock s (s.wave wi).blk

/-- `meet` (R179, R180): a wave that a trap took out of BAR waits again with no new arrival. -/
def execMeet (nb : BitVec 5) (s : State) : Host.Outcome State Fault Refusal :=
  begin_ s [] fun wi =>
    if (s.wave wi).taken = some (.bar nb.toNat false) then waitBar s wi nb.toNat false
    else if ((s.wave wi).token nb.toNat).isSome then barTrap s wi (.meet nb) 3 nb.toNat
    else (arriveAt s wi nb.toNat).modWave wi fun w => w.stopAt (.bar nb.toNat false)

/-- `await` (R179, R180). -/
def execAwait (nb : BitVec 5) (s : State) : Host.Outcome State Fault Refusal :=
  begin_ s [] fun wi =>
    if ((s.wave wi).token nb.toNat).isNone then barTrap s wi (.await nb) 4 nb.toNat
    else waitBar s wi nb.toNat true

/-- `pckpt` (R182): the wave enters BAR, and arrives once its queues are empty. -/
def execPckpt (s : State) : Host.Outcome State Fault Refusal :=
  begin_ s [] fun wi =>
    if (s.wave wi).taken = some .pckpt then
      let s := s.modWave wi fun w => w.stopAt .pckpt
      if (s.wave wi).ckptDone.isSome then retestBar s wi else barDeadlock s (s.wave wi).blk
    else
      let n := s.ops.length
      s.modWave wi fun w =>
        { w.stopAt .pckpt with ckptDone := none, arriving := w.arriving ++ [(32, n)] }

/-- An arrival of a wave may be counted: the release condition at BLOCK, and for `pckpt` empty queues (R154, R182). -/
def State.mayArrive (s : State) (wi : Nat) (a : Nat × Nat) : Bool :=
  let w := s.wave wi
  releaseReady 1 (s.issuedBefore wi a.2) && (a.1 != 32 || (w.ql = 0 && w.qs = 0 && w.qx = 0 && w.qt = 0))

/-- ARRIVAL: the first arrival of wave `w` whose condition holds is counted (R154, R178, R252). -/
def execArrival (wi : Nat) (s : State) : Host.Outcome State Fault Refusal :=
  .next (match (s.wave wi).arriving.find? (s.mayArrive wi) with
    | none => s
    | some a =>
      if (s.wave wi).ended || (s.wave wi).saved then s
      else
        let w := s.wave wi
        let s := (s.modBlock w.blk fun b => b.gather w).modWave wi fun w =>
          { w with rc := (w.rc + 1) % 2 ^ 22, arriving := w.arriving.erase a }
        let s := s.modBlock w.blk fun b =>
          if a.1 = 32 then { b with ckpt := b.ckpt ++ [wi] }
          else { b with arrived := b.arrived.set a.1 ((b.arrived.getD a.1 []) ++ [wi]) }
        barriers s w.blk)

/-! ### Events that end a stop -/

/-- SLEEP_ELAPSED (R24, R217). -/
def execSleepElapsed (wi : Nat) (s : State) : Host.Outcome State Fault Refusal :=
  .next (match (s.wave wi).stop with
    | .sleep u => if (s.wave wi).resident && u ≤ s.waveClk wi then wake s wi else s
    | _ => s)

/-- Slots of a partition that are on no list, rising (R44). DEDUCED, log 18. -/
def State.freeSlots (s : State) (p : PartRef) : List Nat :=
  let used := ((s.residents p).map fun i => (s.wave i).slots.map (·.phys)).flatten
  (List.range Config.poolSlots).filter fun x => !used.contains x

/-- Slots reserved, claimed and free (R44). -/
def State.poolFree (s : State) (p : PartRef) : Nat :=
  Config.poolSlots - ((s.residents p).map fun i => (s.wave i).qw).sum

/-- Insert into a list of slots that rises by number. -/
def insertSlot (x : Slot) : List Slot → List Slot
  | [] => [x]
  | y :: ys => if x.phys < y.phys then x :: y :: ys else y :: insertSlot x ys

/-- CLAIM_GRANT: the head claim of a partition is granted when enough is free (R44). -/
def execClaimGrant (p : PartRef) (s : State) : Host.Outcome State Fault Refusal :=
  .next (match (s.part p).claims with
    | [] => s
    | (wi, n) :: rest =>
      if s.poolFree p < n then s
      else
        let new := ((s.freeSlots p).take n).map fun x => (⟨x, none⟩ : Slot)
        wake ((s.modPart p fun x => { x with claims := rest }).modWave wi fun w =>
          { w with qw := w.qw + n, slots := new.foldl (fun l x => insertSlot x l) w.slots }) wi)

/-- A wave counts in the claim-deadlock check as stopped (R46). -/
def Wave.blocked (w : Wave) : Bool := w.state == .claim || w.state == .bar || w.state == .halt || w.state == .trap

/-- CLAIM_DEADLOCK: the check of R46 for one block on one partition. -/
def execClaimDeadlock (p : PartRef) (blk : Nat) (s : State) : Host.Outcome State Fault Refusal :=
  .next (
    let mine := (s.part p).claims.filter fun c => (s.wave c.1).blk == blk
    let least := mine.foldl (fun (acc : Option Nat) c => lowerCode acc c.2) none
    match least with
    | none => s
    | some n =>
      let free := s.poolFree p
      if free < n && ((s.residents p).filter fun i => (s.wave i).blk == blk).all fun i => (s.wave i).blocked then
        let s := s.modPart p fun x => { x with claims := x.claims.filter fun c => (s.wave c.1).blk != blk }
        mine.foldl (fun s c =>
          let w := s.wave c.1
          takeTrap s c.1
            { cls := .sync, code := 1, kind := .wait, tpc := w.pc, rpc := w.pc
              iword := wordOfInstr (.vclaim (BitVec.ofNat 7 c.2)), guard := w.stopGuard, mode := w.stopMode
              detail := [c.2, free] }) s
      else s)

end Sys2Proof.Machine
end

