-- ==== Sys2Proof/Machine/Steps.lean ====
section
/-!
DEFINITION. The steps of the ordering machine that a wave's own accesses take: S2, S4 and S5
(R147, R152 to R154, R159, R168 to R171, R177, R213, R224).
-/

namespace Sys2Proof.Machine

/-- Two stores to overlapping bytes. An argument word is one location whatever the channel (R170). -/
def storesMeet (a b : Acc) : Bool :=
  a.overlaps b || (a.kind == .arg && b.kind == .arg &&
    a.lanes.any fun x => b.lanes.any fun y => apertureWord x.addr == apertureWord y.addr)

/-- The conditions of S2 (R153, R213), and that of R155: a store leaves after the earlier loads and atomics of its wave to
overlapping bytes have performed. DEDUCED, log 81. -/
def State.mayLeave (s : State) (ai : Nat) : Bool :=
  let a := s.acc ai
  let es := s.before ai
  a.kind.isStore && a.st == .queued && !a.uncomputed &&
    es.all (fun e => !(e.inQueue && storesMeet e a) && !s.pendingOrdered e &&
      !(e.kind.isLoad && !e.performed && e.overlaps a)) &&
    (match (s.op a.op).rel with
      | some scope => releaseReady scope es
      | none => true)

/-- The wave of an access is on a core that has power (R242, R269). -/
def State.powered (s : State) (wi : Nat) : Bool :=
  let w := s.wave wi
  w.resident && (s.core w.part.die w.part.core).gate != .gated

/-- The conditions of S4, presence left out. A record is read under the condition of `fence.module` (R224). -/
def State.mayLoad (s : State) (ai : Nat) : Bool :=
  let a := s.acc ai
  a.st == .queued && (a.kind == .load || a.kind == .counter || a.kind == .gather || a.kind == .record) &&
    s.powered a.wave && s.mayRead ai && (a.kind != .record || fenceReady 3 (s.issuedBefore a.wave a.op)) &&
    (a.kind != .counter || (match (s.wave a.wave).stop with | .waitc x _ => x == ai | _ => false))

/-- The conditions of S5, presence left out (R153). -/
def State.mayAtomic (s : State) (ai : Nat) : Bool :=
  let a := s.acc ai
  let scope := (s.op a.op).atom.getD 0
  a.st == .queued && a.kind == .atomic && s.powered a.wave && s.mayRead ai &&
    (s.before ai).all (fun e => !(e.kind.isStore && !e.isOver && e.overlaps a)) &&
    (scope = 0 || releaseReady scope (s.before ai))

/-- An access may take its step at its home, or leave its queue, now. -/
def State.mayStep (s : State) (ai : Nat) : Bool :=
  s.mayLeave ai || ((s.mayLoad ai || s.mayAtomic ai) && s.allPresent ai)

/-- No access of the same instruction in an earlier space, in the order of R159, may take its step now. -/
def State.inTurn (s : State) (ai : Nat) : Bool :=
  (List.range s.accs.length).all fun j =>
    !((s.acc j).op == (s.acc ai).op && spaceCode (s.acc j).space < spaceCode (s.acc ai).space && (s.acc j).kind != .engine && s.mayStep j)

/-- An argument store writes the argument words of its wave (R170). -/
def Wave.setArgs (w : Wave) (lanes : List LaneAcc) : Wave :=
  { w with args := lanes.foldl (fun l x => l.set (apertureWord x.addr) (leWord x.data)) w.args }

/-- The scatter of a `gmma` that has been appended ends its tile (R213). -/
def scatterOver (s : State) (ai : Nat) : State :=
  let a := s.acc ai
  if a.kind == .scatter && a.st == .done then
    match s.opTile a.op with
    | some ti => tileOver s ti .done
    | none => s
  else s

/-- S2: what leaving the store queue does, by space (R153, R170, R171, R251). -/
def leaveStore (s : State) (ai : Nat) : State :=
  let a := s.acc ai
  match a.kind with
  | .arg =>
    let s := s.modWave a.wave fun w => w.setArgs a.lanes
    settle (s.modAcc ai fun a => { a with st := .done, left := true }) a.op
  | .start => settle (s.modAcc ai fun a => { a with st := .accepting, left := true }) a.op
  | _ =>
    let r := if (s.op a.op).rel.isSome then some (s.releaseRec ai) else none
    let n := s.steps
    if a.space == .shared then
      scatterOver (appendStore (s.modAcc ai fun a => { a with sync := r }) ai) ai
    else settle (s.modAcc ai fun a => { a with sync := r, st := .block, left := true, entered := n }) a.op

/-- LEAVE (S2). -/
def execLeave (ai : Nat) (s : State) : Host.Outcome State Fault Refusal :=
  .next (if s.mayLeave ai && s.inTurn ai then leaveStore s ai else s)

/-- An access to the spill area has performed at issue; its operation goes on (R144, R164). -/
def arriveSpill (s : State) (ai : Nat) : State := settle (s.modAcc ai fun a => { a with st := .done }) (s.acc ai).op

/-- A counter load of `waitc` that is not the one it retires on is no acquire (R177). DEDUCED, log 54. -/
def pollCounter (s : State) (ai : Nat) : State :=
  let wi := (s.acc ai).wave
  let old := (s.wave wi).knows
  match (s.wave wi).stop, readHome s ai true with
  | .waitc _ target, (t, some got) =>
    let v := leNat ((got.head?.map (·.2)).getD [])
    let t := if target ≤ v && v < 2 ^ 63 then t else t.modWave wi fun w => w.learn old
    counterSeen t ai v
  | _, (t, _) => t

/-- S4: what a load does once its conditions hold and its lines are present (R153, R177, R213, R224). -/
def performLoad (s : State) (ai : Nat) : State :=
  let a := s.acc ai
  match a.kind with
  | .counter => pollCounter s ai
  | _ =>
    match readHome s ai (s.op a.op).acq.isSome with
    | (s, none) => s
    | (s, some got) =>
      let s := (unpark s ai).modAcc ai fun a => { a with st := .done }
      match a.kind with
      | .record => launchRecord s ai (got.map (·.2)).flatten
      | .gather => gatherDone s a.op got
      | _ => settle (s.modOp a.op fun o => { o with got := o.got ++ got }) a.op

/-- LOAD (S4): a load of an absent line parks its wave (R147). -/
def execLoad (ai : Nat) (s : State) : Host.Outcome State Fault Refusal :=
  .next (
    let a := s.acc ai
    if a.st == .arrived && a.kind == .load && s.powered a.wave then arriveSpill s ai
    else if s.mayLoad ai then
      (if !s.allPresent ai then parkOn s ai else if s.inTurn ai then performLoad s ai else s)
    else s)

/-- ATOMIC (S5). -/
def execAtomic (ai : Nat) (s : State) : Host.Outcome State Fault Refusal :=
  .next (
    let a := s.acc ai
    if a.st == .arrived && a.kind == .atomic && s.powered a.wave then arriveSpill s ai
    else if s.mayAtomic ai then
      (if !s.allPresent ai then parkOn s ai else if s.inTurn ai then atomicHome s ai else s)
    else s)

end Sys2Proof.Machine
end

