-- ==== Sys2Proof/Machine/Accept.lean ====
section
/-!
DEFINITION. S6: the acceptance or refusal of a start (R148, R153, R171, R184, R188 to R200, R253, R258).
-/

namespace Sys2Proof.Machine

/-! ### What a start names (R171, R185) -/

/-- The data of a start: that of the highest lane that addresses its start word. -/
def Acc.startWord (a : Acc) : Nat := leNat ((a.lanes.getLast?.map (·.data)).getD [])

/-- The channel that a start names. -/
def Acc.startChannel (a : Acc) : Nat := apertureChannel ((a.lanes.head?.map (·.addr)).getD 0x20000000)

/-- The template of the wave's kernel that a start names (R200 TEMPLATE). -/
def State.startTemplate (s : State) (ai : Nat) : Option Template :=
  let a := s.acc ai
  let x := a.startWord
  let die := (s.wave a.wave).part.die
  if 65536 ≤ x || !((s.waveKernel a.wave).tmpls.getD die []).contains x then none
  else (s.die die).templates[x]?

/-! ### Refusals (R187, R191 to R200) -/

namespace Template

def auxZero (t : Template) (ks : List Nat) : Bool := ks.all fun k => t.auxOf k == 0

/-- The rule of the collectives (R196). DEDUCED, log 47. -/
def collectiveOk (t : Template) : Bool :=
  2 ≤ t.peersNo && t.peersNo ≤ 1024 && bitsOf (t.auxOf 1) 11 5 == 0 && bitsOf (t.auxOf 1) 17 15 == 0 &&
    t.auxZero [2, 3] && t.esize == 4 && t.sspace == .scratch && t.dspace == .scratch

/-- The NDIM and AUX rules of each mode, and the shapes that the collectives and DECODE ask for. DEDUCED, log 47. -/
def modeOk (t : Template) : Bool :=
  match t.mode with
  | .copy => t.auxZero [0, 1, 2, 3]
  | .halo => t.auxOf 0 < 16 && t.auxZero [1, 2, 3] && t.sspace == .shared
  | .gather => t.ndim == 2 && t.auxOf 0 % 4 == 0 && t.auxZero [2, 3]
  | .bin => t.ndim == 2 && t.auxOf 0 % 4 == 0 && t.auxOf 1 % 4 == 0 && 1 ≤ t.nb && t.nb ≤ 4096 && 1 ≤ t.cap
  | .rscatter => t.collectiveOk && t.elements % Nat.max 1 t.peersNo == 0
  | .agather => t.collectiveOk
  | .decode =>
    let fmt := bitsOf (t.auxOf 2) 2 2
    bitsOf (t.auxOf 2) 0 2 ≤ 2 && fmt ≤ 2 && t.esize == (if fmt = 2 then 1 else 2) && t.auxOf 2 < 16 &&
      t.auxZero [3] && t.sspace == .main

/-- ARGUMENT of R200 does not apply. -/
def argsOk (t : Template) : Bool :=
  (List.range t.ndim).all (fun k => t.countOf k != 0) && t.mask < 65536 && t.modeOk

end Template

/-- A range whose bytes the wave may address under codes 0x01 to 0x05 of R141. -/
def State.rangeFits (s : State) (wi : Nat) (r : Range) : Bool :=
  match r.space with
  | .main => true
  | .shared =>
    let alloc : Int := s.sharedAlloc wi
    0 ≤ r.lo && r.hi < 0x80000 * (s.waveLaunch wi).slices && r.lo % 0x80000 < alloc && r.hi % 0x80000 < alloc &&
      (r.lo / 0x80000 == r.hi / 0x80000 || alloc == 0x80000)
  | .scratch =>
    let size : Int := s.scratchSize (s.waveLaunch wi).vi (s.wave wi).part.die
    0x10000000 ≤ r.lo && r.hi < 0x10000000 + size && r.hi < 0x16000000

/-- SPACE of R200. Slices that the block has not are MULTICAST's. DEDUCED, log 46. -/
def State.spaceOk (s : State) (wi : Nat) (t : Template) : Bool :=
  let mask := t.mask % 2 ^ (s.waveLaunch wi).slices
  let writes : List Range :=
    if t.mask = 0 then t.writes
    else if t.dspace != .shared then ({ t with mask := 0 } : Template).writes
    else if mask = 0 then [] else ({ t with mask := mask } : Template).writes
  (t.reads ++ t.lists ++ writes).all (s.rangeFits wi)

/-- MULTICAST of R191: a mask needs DSPACE SHARED and names only slices of the block. DEDUCED, log 46. -/
def State.multicastOk (s : State) (wi : Nat) (t : Template) : Bool :=
  t.mask == 0 || (t.dspace == .shared && t.mask < 2 ^ (s.waveLaunch wi).slices)

/-- CNTADDR of R187 and R199. -/
def State.counterOk (s : State) (wi : Nat) (t : Template) : Bool :=
  t.cnt % 16 == 0 && bitsOf t.ctrl 18 2 != 3 &&
    (t.cspace == .main || (t.cnt < 2 ^ 32 && s.rangeFits wi ⟨t.cspace, t.cnt, t.cnt + 15⟩))

/-- A byte that a list of a copy holds, at its home. -/
def State.listByte (s : State) (blk vi die : Nat) (sp : TSpace) (a : Nat) : Byte :=
  match sp with
  | .shared => s.homeRead (.shared blk) a
  | _ => s.homeRead (.scratch vi die) a

/-- `w` bytes of a list of a copy. -/
def State.listNum (s : State) (blk vi die : Nat) (sp : TSpace) (a w : Nat) : Nat :=
  leNat ((List.range w).map fun i => s.listByte blk vi die sp (a + i))

def Template.collective (t : Template) : Bool := t.mode == .rscatter || t.mode == .agather

/-- The peer list of a collective (R196). -/
def State.peerList (s : State) (wi : Nat) (t : Template) : List Nat :=
  let w := s.wave wi
  if t.collective then
    (List.range t.peersNo).map fun q =>
      s.listNum w.blk (s.waveLaunch wi).vi w.part.die t.aspace (t.auxOf 0 + 2 * q) 2
  else []

/-- LOCN[10:0] of a die of this module (R10, R272). -/
def State.locnOf (s : State) (die : Nat) : Nat := 2 * s.moduleNo + die

/-- PEER of R200. -/
def State.peersOk (s : State) (wi : Nat) (ring : List Nat) : Bool :=
  (ring.filter fun e => e == s.locnOf (s.wave wi).part.die).length == 1 &&
    ring.all fun e => e < 2 ^ 11 && s.mayName (s.waveLaunch wi).vi (e / 2, e % 2)

/-- The lowest code of R200 that refuses a start; `holes` says that its arguments fit their holes (R188). -/
def State.startRefusal (s : State) (wi : Nat) (t : Template) (holes : Bool) : Option Nat :=
  if !holes || !t.argsOk then some 0x11
  else if !s.spaceOk wi t then some 0x12
  else if !s.multicastOk wi t then some 0x13
  else if !s.counterOk wi t then some 0x14
  else if t.collective && !s.peersOk wi (s.peerList wi t) then some 0x15
  else none

/-! ### Destination lines (R147, R190 to R198) -/

/-- The lines of a run of bytes. -/
def linesOf (lo n : Int) : List Nat :=
  if n ≤ 0 then [] else (List.range ((lo + n - 1) / 64 - lo / 64 + 1).toNat).map fun i => (lo / 64).toNat + i

/-- Append the numbers that are not there yet. -/
def addNew {α : Type} [BEq α] (acc : List α) (l : List α) : List α :=
  l.foldl (fun acc x => if acc.contains x then acc else acc ++ [x]) acc

namespace Template

/-- Slices that the destination is delivered to; slice 0 stands for the destination as it is (R190). -/
def parts (t : Template) : List Nat := if t.mask = 0 then [0] else t.slices

/-- What a part adds to a destination address (R190). -/
def shift (t : Template) (j : Nat) : Int :=
  if t.mask = 0 then 0
  else ((t.dst % 0x80000 + t.dst / 0x800000 * 0x800000 + 0x80000 * j : Nat) : Int) - t.dst

/-- Destination addresses in a space: MAIN has 57 bits. DEDUCED, log 48. -/
def wrapTo (sp : TSpace) (a : Int) : Int := match sp with
  | .main => a % (2 ^ 57 : Nat)
  | _ => a

/-- Lines of one walk of elements. -/
def walkLines (t : Template) (j : Nat) : List Nat :=
  t.elems.foldl (fun acc e => addNew acc (linesOf (wrapTo t.dspace (e.2 + t.shift j)) t.esize)) []

/-- Lines of destination row `r` of a BIN copy (R194). -/
def rowLines (t : Template) (r j : Nat) : List Nat :=
  (List.range (t.countOf 0)).foldl (fun acc (i : Nat) =>
    addNew acc (linesOf (wrapTo t.dspace (t.dst + r * t.dstr 1 + i * t.dstr 0 + t.shift j)) t.esize)) []

/-- Width, height and base of the three planes of a frame (R198). -/
def planes (t : Template) (w h : Nat) : List (Nat × Nat × Int) :=
  [(w, h, (t.dst : Int)), ((w + 1) / 2, (h + 1) / 2, t.dst + t.dstr 2), ((w + 1) / 2, (h + 1) / 2, t.dst + 2 * t.dstr 2)]

/-- Lines of the planes of a frame. DESIGN CHOICE, log 15. -/
def frameLines (t : Template) (w h j : Nat) : List Nat :=
  (t.planes w h).foldl (fun acc p => (List.range p.2.1).foldl (fun acc (r : Nat) =>
    addNew acc (linesOf (wrapTo t.dspace (p.2.2 + r * t.dstr 1 + t.shift j)) (p.1 * t.esize))) acc) []

/-- The lines whose presence acceptance clears, by part. DEDUCED, log 49. -/
def destLines (t : Template) : List (Nat × Nat) :=
  match t.mode with
  | .rscatter => (linesOf t.dst (4 * (t.elements / Nat.max 1 t.peersNo) : Nat)).map fun l => (0, l)
  | .agather => (linesOf t.dst (4 * t.elements * t.peersNo : Nat)).map fun l => (0, l)
  | .bin => t.parts.flatMap fun j =>
      ((List.range t.binRows).foldl (fun acc r => addNew acc (t.rowLines r j)) []).map fun l => (j, l)
  | .decode => t.parts.flatMap fun j =>
      (t.frameLines (Config.maxFrame t.context).1 (Config.maxFrame t.context).2 j).map fun l => (j, l)
  | _ => t.parts.flatMap fun j => (t.walkLines j).map fun l => (j, l)

/-- The lines still to be moved at acceptance: a part is a slice, or for ALL-GATHER a participant. `p` is the position
of the issuing die. BIN and DECODE learn theirs later. -/
def firstTodo (t : Template) (p : Nat) : List (Nat × Nat) :=
  match t.mode with
  | .bin => []
  | .decode => []
  | .agather => (List.range t.peersNo).flatMap fun q =>
      (linesOf ((t.dst + 4 * t.elements * p : Nat) : Int) (4 * t.elements : Nat)).map fun l => (q, l)
  | _ => t.destLines

end Template

/-- Clear or set the presence bits of a copy's destination lines, in the stores that have them (R147). -/
def markLines (s : State) (c : Copy) (lines : List Nat) (p : Bool) : State :=
  match c.t.dspace with
  | .shared => lines.foldl (fun s l => s.setPresent (.shared c.blk) (64 * l) p) s
  | .scratch => lines.foldl (fun s l => s.setPresent (.scratch c.vi c.die) (64 * l) p) s
  | .main => s

/-! ### Acceptance (R148, R153, R171, R253, R258) -/

/-- The copy that a start would begin. DEDUCED, log 35. -/
def State.newCopy (s : State) (ai : Nat) (t : Template) : Copy :=
  let a := s.acc ai
  let o := s.op a.op
  let w := s.wave a.wave
  let l := s.waveLaunch a.wave
  let h := a.startChannel
  let b := s.block w.blk
  let ring := s.peerList a.wave t
  let clk := ((s.core w.part.die w.part.core).chanClk.getD h 0 + 1) % 2 ^ 22
  let kn := mergeItem b.handle w.knows (.party w.rid a.clk)
  { wave := a.wave, op := a.op, blk := w.blk, launch := b.launch, vi := l.vi, asid := l.asid, die := w.part.die
    core := w.part.core, chan := h, tix := a.startWord, t := t, pc := o.pc, race := o.race
    srcs := t.reads.map fun r => r.span w.blk, dsts := t.writes.map fun r => r.span w.blk
    todo := t.firstTodo (ring.idxOf (s.locnOf w.part.die))
    bumps := if t.mode = .bin then (List.range (t.countOf 1)).map (2 * ·) else []
    halo := if t.mode = .halo then some (t.auxOf 0 % 16, b.phaseOf (t.auxOf 0 % 16)) else none
    nth := (s.copies.filter fun c => c.die == w.part.die && c.tix == a.startWord && c.t.collective).length
    ring := ring, rid := s.tagOf b.launch w.part.die * 2 ^ 15 + (12288 + 8 * w.part.core + h), clk := clk
    know := kn.know, pg := kn.pg, lossy := kn.lossy }

/-- A refused start traps at acceptance and withdraws its own QX count (R171, R200). DEDUCED, log 26. -/
def refuseStart (s : State) (ai : Nat) (cls : TrapClass) (code : Nat) (detail : List Nat) : State :=
  let a := s.acc ai
  accessTrap (countDown s a.op 1) ai cls code (maskOf fun i => a.lanes.any fun l => l.lane == i) detail

/-- The generic address of the first line in which two copies' spans meet. -/
def meetAddr (c d : Copy) (xs ys : List Span) : Nat :=
  ((xs.flatMap fun x => (ys.filter fun y => spansMeet c d x y).map fun y => 64 * Nat.max x.lo y.lo).head?).getD 0

/-- The race checks of an acceptance: the state after them, or what refuses the copy (R258). Refused, it leaves no
watermark changed (R257). -/
def copyRace (s : State) (c : Copy) (lanes : Word) : State × Option Refused :=
  let gen := (s.block c.blk).gen
  let who := s.whoCopy c lanes
  let p := s.partyOf c
  let reads := if c.t.mode = .halo then [] else s.spanGranules c c.srcs
  let a := raceAccess s c.race who p false false true gen reads
  let b := raceAccess a.1 c.race who p true false true gen (s.spanGranules c c.dsts)
  match a.2, b.2 with
  | none, none => b
  | some x, some y => ({ s with vis := b.1.vis }, some (if y.code < x.code then y else x))
  | some x, none => ({ s with vis := b.1.vis }, some x)
  | none, some y => ({ s with vis := b.1.vis }, some y)

/-- Line `l` of a multicast's destination lies in a slice without its image, to which a delivery takes no lock and clears
no presence bit (R191). -/
def State.lateLine (s : State) (c : Copy) (l : Nat) : Bool := c.t.mask != 0 && (s.block c.blk).late.contains (l / 8192)

/-- The copy enters its channel's queue: its clock, its locks, and its destination's presence (R147, R148, R253). -/
def enqueueCopy (s : State) (ai : Nat) (c : Copy) : State :=
  let s := s.modCore c.die c.core fun x => { x with chanClk := x.chanClk.set c.chan c.clk }
  let c := { c with rlocks := if c.t.mode = .halo then [] else c.srcs, wlocks := c.dsts.filter fun x => !s.lateLine c x.lo }
  let s := markLines { s with copies := s.copies ++ [c] } c ((c.t.destLines.map (·.2)).filter fun l => !s.lateLine c l) false
  settle (s.modAcc ai fun a => { a with st := .done }) (s.acc ai).op

/-- S6 of a start whose template is found. DEDUCED, log 33. -/
def acceptStart (s : State) (ai : Nat) (t : Template) (holes : Bool) : State :=
  let a := s.acc ai
  match s.startRefusal a.wave t holes with
  | some code => refuseStart s ai .mem code []
  | none =>
    let c := s.newCopy ai t
    match s.lockConflict (if t.mode = .halo then { c with srcs := [] } else c) with
    | some d =>
      refuseStart s ai .race 4 [d.rid, d.clk, c.clk, meetAddr c d (c.srcs ++ c.dsts) (d.rlocks ++ d.wlocks)]
    | none => match copyRace s c (maskOf fun i => a.lanes.any fun l => l.lane == i) with
      | (s, some r) => refuseStart s ai .race r.code [r.by_.id, r.by_.clk, c.clk, r.granule.addr]
      | (s, none) => enqueueCopy s ai c

/-- The conditions of S6 at a scope (R153). A start that is made again waits until QX has room for it (R72, R163). -/
def State.mayAccept (s : State) (ai scope : Nat) : Bool :=
  let a := s.acc ai
  a.st == .accepting && releaseReady scope (s.before ai) && !(a.late && (s.wave a.wave).overDepth .copy 1)

/-- A start that was made again with QX at its depth is counted now (R72, R163). DEDUCED, log 26. -/
def countLate (s : State) (ai : Nat) : State :=
  let a := s.acc ai
  if a.late then
    ((s.modWave a.wave fun w => w.countUp .copy 1).modOp a.op fun o => { o with counted := o.counted + 1 }).modAcc ai
      fun a => { a with late := false }
  else s

/-- ACCEPT (S6). -/
def execAccept (ai : Nat) (s : State) : Host.Outcome State Fault Refusal :=
  .next (match s.startTemplate ai with
    | none => if s.mayAccept ai 0 then refuseStart (countLate s ai) ai .mem 0x10 [] else s
    | some t =>
      let args := (s.wave (s.acc ai).wave).args
      if s.mayAccept ai t.scope then acceptStart (countLate s ai) ai (t.fill args) (t.holesOk args) else s)

end Sys2Proof.Machine
end

