-- ==== Sys2Proof/Machine/Arith.lean ====
section
/-!
DEFINITION. Lane arithmetic, logic, shifts, bit fields, immediates, moves and select (R106 to R114).
-/

namespace Sys2Proof.Machine

/-! ### Result shapes (R37) -/

/-- Whether the integer shape rules for A apply: type I32 or U32 with saturation off. -/
def affine (m : BitVec 16) : Bool := (modeType m = 0 || modeType m = 1) && !modeSat m

/-- Sum of two register contents where neither is V. -/
def addShape : Reg → Reg → Option Reg
  | .u x, .a b s => some (.a (b + x) s)
  | .a b s, .u x => some (.a (b + x) s)
  | .a b s, .a c t => some (.a (b + c) (s + t))
  | _, _ => none

def negShape : Reg → Reg
  | .u x => .u (-x)
  | .a b s => .a (-b) (-s)
  | .v l => .v l

def mulShape : Reg → Reg → Option Reg
  | .u x, .a b s => some (.a (x * b) (x * s))
  | .a b s, .u x => some (.a (x * b) (x * s))
  | _, _ => none

def shlShape : Reg → Reg → Option Reg
  | .a b s, .u k => some (.a (b <<< (k.toNat % 32)) (s <<< (k.toNat % 32)))
  | _, _ => none

/-! ### Typed arithmetic -/

/-- A typed operation of `ops` into `d`, with an A result where the shape rules give one. -/
def arithInstr (s : State) (i : Instr) (types : List Nat) (d : BitVec 7) (ops : List (BitVec 7))
    (shape : List Reg → Option Reg) (fi : List Int → Int) (ff : (BitVec 16) → FFmt → List Nat → Nat × Nat) :
    Host.Outcome State Fault Refusal :=
  typedInstr s i types (d :: ops) fun w =>
    let r := typedRes w.mode d (ops.map w.typed) fi (ff w.mode)
    let writes := match (if affine w.mode then shape (ops.map w.reg) else none) with
      | some x => [(d, x)]
      | none => r.1
    { reads := (ops.map (typedRegs (modeType w.mode))).flatten, writes := writes, flags := r.2
      clocks := typeClocks w.mode }

/-- The exact sum of terms made from operand values, rounded once under MODE (R53, R58). -/
def sumOf (terms : List FVal → List FVal) (m : BitVec 16) (f : FFmt) (xs : List Nat) : Nat × Nat :=
  sumRound f (modeRound m) (modeFlush m) (terms (xs.map (fval f (modeFlush m))))

def noShape (_ : List Reg) : Option Reg := none

/-- Pick operands of a two- or three-operand function. -/
def on1 {α : Type} (z : α) (f : α → α) : List α → α
  | [a] => f a
  | _ => z
def on2 {α β : Type} (z : β) (f : α → α → β) : List α → β
  | [a, b] => f a b
  | _ => z
def on3 {α β : Type} (z : β) (f : α → α → α → β) : List α → β
  | [d, a, b] => f d a b
  | _ => z

/-- `add` (R106). -/
def execAdd (d a b : BitVec 7) (s : State) : Host.Outcome State Fault Refusal :=
  arithInstr s (.add d a b) allTypes d [a, b] (on2 none addShape) (on2 0 (· + ·)) (sumOf (on2 [] fun x y => [x, y]))

/-- `sub` (R106). -/
def execSub (d a b : BitVec 7) (s : State) : Host.Outcome State Fault Refusal :=
  arithInstr s (.sub d a b) allTypes d [a, b] (on2 none fun x y => addShape x (negShape y)) (on2 0 (· - ·))
    (sumOf (on2 [] fun x y => [x, y.neg]))

/-- `mul` (R106). -/
def execMul (d a b : BitVec 7) (s : State) : Host.Outcome State Fault Refusal :=
  arithInstr s (.mul d a b) allTypes d [a, b] (on2 none mulShape) (on2 0 (· * ·)) (sumOf (on2 [] fun x y => [x.mul y]))

/-- `fma`: d + a * b (R107); an A input gives V. DEDUCED, log 88. -/
def execFma (d a b : BitVec 7) (s : State) : Host.Outcome State Fault Refusal :=
  arithInstr s (.fma d a b) allTypes d [d, a, b] noShape (on3 0 fun z x y => z + x * y)
    (sumOf (on3 [] fun z x y => [z, x.mul y]))

/-- `fms`: a * b - d (R107). -/
def execFms (d a b : BitVec 7) (s : State) : Host.Outcome State Fault Refusal :=
  arithInstr s (.fms d a b) allTypes d [d, a, b] noShape (on3 0 fun z x y => x * y - z)
    (sumOf (on3 [] fun z x y => [x.mul y, z.neg]))

/-- `fnma`: d - a * b (R107). -/
def execFnma (d a b : BitVec 7) (s : State) : Host.Outcome State Fault Refusal :=
  arithInstr s (.fnma d a b) allTypes d [d, a, b] noShape (on3 0 fun z x y => z - x * y)
    (sumOf (on3 [] fun z x y => [z, (x.mul y).neg]))

/-- `min` (R109). -/
def execMin (d a b : BitVec 7) (s : State) : Host.Outcome State Fault Refusal :=
  arithInstr s (.min d a b) allTypes d [a, b] noShape (on2 0 fun x y => if y < x then y else x)
    fun m f => on2 (0, 0) (minmax f false (modeFlush m))

/-- `max` (R109). -/
def execMax (d a b : BitVec 7) (s : State) : Host.Outcome State Fault Refusal :=
  arithInstr s (.max d a b) allTypes d [a, b] noShape (on2 0 fun x y => if x < y then y else x)
    fun m f => on2 (0, 0) (minmax f true (modeFlush m))

/-- A float operation on the sign alone (R109): a NaN becomes canonical. -/
def signOp (g : Bool → Bool) (m : BitVec 16) (f : FFmt) (xs : List Nat) : Nat × Nat :=
  match fval f (modeFlush m) (xs.headD 0) with
  | .nan i => (fmtNaN f, if i then fNV else 0)
  | .inf n => (signBit f (g n) + fmtMax f + 1, 0)
  | .fin n k e => if k = 0 then (signBit f (g n), 0) else (FVal.fin (g n) k e).toFmt f 0 false false

/-- `abs` (R109). -/
def execAbs (d a : BitVec 7) (s : State) : Host.Outcome State Fault Refusal :=
  arithInstr s (.abs d a) allTypes d [a] noShape (on1 0 fun x => if x < 0 then -x else x) (signOp fun _ => false)

/-- `neg` (R109). -/
def execNeg (d a : BitVec 7) (s : State) : Host.Outcome State Fault Refusal :=
  arithInstr s (.neg d a) allTypes d [a]
    (fun rs => match rs with | [.a b t] => some (negShape (.a b t)) | _ => none)
    (on1 0 fun x => -x) (signOp fun n => !n)

/-- `addi` (R106). -/
def execAddi (d a : BitVec 7) (imm : BitVec 10) (s : State) : Host.Outcome State Fault Refusal :=
  typedInstr s (.addi d a imm) [0, 1] [d, a] fun w =>
    let rs := [w.reg a, .u (immS imm)]
    let r := typedRes w.mode d (rs.map fun x => [x]) (on2 0 fun x y => x + sext 32 (y % 2 ^ 32).toNat) (fun _ _ => (0, 0))
    { reads := [a], flags := r.2
      writes := match (if affine w.mode then on2 none addShape rs else none) with
        | some x => [(d, x)]
        | none => r.1 }

/-- The high half of an exact product (R108): bits [2w-1:w]. -/
def mulhiLane (t : Nat) (xs : List Word) : Word × Nat :=
  let r := intRange t
  let one (ys : List Nat) : Nat × Nat :=
    (((on2 0 (· * ·) (ys.map (elemInt t))) / (2 ^ r.1 : Nat) % (2 ^ r.1 : Nat)).toNat, 0)
  if r.1 = 32 then let y := one (xs.map BitVec.toNat); (BitVec.ofNat 32 y.1, 0) else onHalves one xs

/-- `mulhi` (R108). -/
def execMulhi (d a b : BitVec 7) (s : State) : Host.Outcome State Fault Refusal :=
  typedInstr s (.mulhi d a b) [0, 1, 6] [d, a, b] fun w =>
    let r := mapR [w.reg a, w.reg b] (mulhiLane (modeType w.mode))
    { reads := [a, b], writes := [(d, r.reg)], flags := r.flags }

/-! ### Logic, shifts and bit fields (R110 to R112) -/

/-- An untyped function of whole lanes, over these register contents. -/
def wordOp (d : BitVec 7) (reads : List (BitVec 7)) (rs : List Reg) (f : List Word → Word) : LaneOp :=
  { reads := reads, writes := [(d, (mapR rs fun xs => (f xs, 0)).reg)] }

/-- `and`: a & b (R110). -/
def execAnd (d a b : BitVec 7) (s : State) : Host.Outcome State Fault Refusal :=
  laneFree s (.and d a b) [d, a, b] fun w => wordOp d [a, b] [w.reg a, w.reg b] (on2 0 (· &&& ·))

/-- `or`: a | b (R110). -/
def execOr (d a b : BitVec 7) (s : State) : Host.Outcome State Fault Refusal :=
  laneFree s (.or d a b) [d, a, b] fun w => wordOp d [a, b] [w.reg a, w.reg b] (on2 0 (· ||| ·))

/-- `xor`: a ^ b (R110). -/
def execXor (d a b : BitVec 7) (s : State) : Host.Outcome State Fault Refusal :=
  laneFree s (.xor d a b) [d, a, b] fun w => wordOp d [a, b] [w.reg a, w.reg b] (on2 0 (· ^^^ ·))

/-- `andn`: a & ~b (R110). -/
def execAndn (d a b : BitVec 7) (s : State) : Host.Outcome State Fault Refusal :=
  laneFree s (.andn d a b) [d, a, b] fun w => wordOp d [a, b] [w.reg a, w.reg b] (on2 0 fun x y => x &&& ~~~y)

/-- `not`: ~a (R110). -/
def execNot (d a : BitVec 7) (s : State) : Host.Outcome State Fault Refusal :=
  laneFree s (.not d a) [d, a] fun w => wordOp d [a] [w.reg a] (on1 0 fun x => ~~~x)

/-- `shl`: a << n (R110), with the A shape of R37 under every MODE. DEDUCED, log 88. -/
def execShl (d a b : BitVec 7) (s : State) : Host.Outcome State Fault Refusal :=
  laneFree s (.shl d a b) [d, a, b] fun w =>
    let o := wordOp d [a, b] [w.reg a, w.reg b] (on2 0 fun x y => x <<< (y.toNat % 32))
    match shlShape (w.reg a) (w.reg b) with
    | some r => { o with writes := [(d, r)] }
    | none => o

/-- `shr`: a >> n, zeros shifted in (R110). -/
def execShr (d a b : BitVec 7) (s : State) : Host.Outcome State Fault Refusal :=
  laneFree s (.shr d a b) [d, a, b] fun w => wordOp d [a, b] [w.reg a, w.reg b] (on2 0 fun x y => x >>> (y.toNat % 32))

/-- `sra`: a >> n, copies of bit 31 shifted in (R110). -/
def execSra (d a b : BitVec 7) (s : State) : Host.Outcome State Fault Refusal :=
  laneFree s (.sra d a b) [d, a, b] fun w => wordOp d [a, b] [w.reg a, w.reg b] (on2 0 fun x y => x.sshiftRight (y.toNat % 32))

/-- `rol`: a rotated left by n (R110). -/
def execRol (d a b : BitVec 7) (s : State) : Host.Outcome State Fault Refusal :=
  laneFree s (.rol d a b) [d, a, b] fun w => wordOp d [a, b] [w.reg a, w.reg b] (on2 0 fun x y => x.rotateLeft (y.toNat % 32))

/-- pos, and the mask of len ones, of a bit-field operand (R111). -/
def fieldPos (b : Word) : Nat := bitsOf b.toNat 0 5
def fieldMask (b : Word) : Word :=
  let len := bitsOf b.toNat 8 6
  if 32 ≤ len then 0xFFFFFFFF else BitVec.ofNat 32 (2 ^ len - 1)

/-- `bfe`: an unsigned field of a (R111). -/
def execBfe (d a b : BitVec 7) (s : State) : Host.Outcome State Fault Refusal :=
  laneFree s (.bfe d a b) [d, a, b] fun w => wordOp d [a, b] [w.reg a, w.reg b] (on2 0 fun x y => (x >>> fieldPos y) &&& fieldMask y)

/-- `bfi`: a field inserted in d (R111). -/
def execBfi (d a b : BitVec 7) (s : State) : Host.Outcome State Fault Refusal :=
  laneFree s (.bfi d a b) [d, a, b] fun w => wordOp d [d, a, b] [w.reg d, w.reg a, w.reg b] (on3 0 fun z x y =>
    (z &&& ~~~(fieldMask y <<< fieldPos y)) ||| ((x &&& fieldMask y) <<< fieldPos y))

/-- `popc`: set bits of a (R112). -/
def execPopc (d a : BitVec 7) (s : State) : Host.Outcome State Fault Refusal :=
  laneFree s (.popc d a) [d, a] fun w => wordOp d [a] [w.reg a] (on1 0 fun x => BitVec.ofNat 32 (popcount x))

/-- `clz`: zero bits above the highest set bit (R112). -/
def execClz (d a : BitVec 7) (s : State) : Host.Outcome State Fault Refusal :=
  laneFree s (.clz d a) [d, a] fun w => wordOp d [a] [w.reg a]
    (on1 0 fun x => if x = 0 then 32 else BitVec.ofNat 32 (31 - Nat.log2 x.toNat))

/-- `brev`: bit i moved to bit 31 - i (R112). -/
def execBrev (d a : BitVec 7) (s : State) : Host.Outcome State Fault Refusal :=
  laneFree s (.brev d a) [d, a] fun w => wordOp d [a] [w.reg a] (on1 0 fun x => maskOf fun i => bit x (31 - i))

/-- `andi`: a & e, e zero-extended (R110). -/
def execAndi (d a : BitVec 7) (imm : BitVec 10) (s : State) : Host.Outcome State Fault Refusal :=
  laneFree s (.andi d a imm) [d, a] fun w => wordOp d [a] [w.reg a, .u (immZ imm)] (on2 0 (· &&& ·))

/-- `ori`: a | e, e zero-extended (R110). -/
def execOri (d a : BitVec 7) (imm : BitVec 10) (s : State) : Host.Outcome State Fault Refusal :=
  laneFree s (.ori d a imm) [d, a] fun w => wordOp d [a] [w.reg a, .u (immZ imm)] (on2 0 (· ||| ·))

/-- `xori`: a ^ e, e zero-extended (R110). -/
def execXori (d a : BitVec 7) (imm : BitVec 10) (s : State) : Host.Outcome State Fault Refusal :=
  laneFree s (.xori d a imm) [d, a] fun w => wordOp d [a] [w.reg a, .u (immZ imm)] (on2 0 (· ^^^ ·))

/-- `shli`: a << n (R110), with the A shape of R37 under every MODE. DEDUCED, log 88. -/
def execShli (d a : BitVec 7) (n : BitVec 5) (s : State) : Host.Outcome State Fault Refusal :=
  laneFree s (.shli d a n) [d, a] fun w =>
    let o := wordOp d [a] [w.reg a] (on1 0 fun x => x <<< n.toNat)
    match shlShape (w.reg a) (.u (immZ n)) with
    | some r => { o with writes := [(d, r)] }
    | none => o

/-- `shri` (R110). -/
def execShri (d a : BitVec 7) (n : BitVec 5) (s : State) : Host.Outcome State Fault Refusal :=
  laneFree s (.shri d a n) [d, a] fun w => wordOp d [a] [w.reg a] (on1 0 fun x => x >>> n.toNat)

/-- `srai` (R110). -/
def execSrai (d a : BitVec 7) (n : BitVec 5) (s : State) : Host.Outcome State Fault Refusal :=
  laneFree s (.srai d a n) [d, a] fun w => wordOp d [a] [w.reg a] (on1 0 fun x => x.sshiftRight n.toNat)

/-! ### Immediates, moves and select (R113, R114) -/

/-- `li`: e, zero-extended (R113). -/
def execLi (d : BitVec 7) (imm : BitVec 17) (s : State) : Host.Outcome State Fault Refusal :=
  laneFree s (.li d imm) [d] fun _ => { writes := [(d, .u (immZ imm))] }

/-- `lih`: e in the high half, d's low half kept (R113). -/
def execLih (d : BitVec 7) (imm : BitVec 16) (s : State) : Host.Outcome State Fault Refusal :=
  laneFree s (.lih d imm) [d] fun w =>
    wordOp d [d] [w.reg d] (on1 0 fun x => (immZ imm <<< 16) ||| (x &&& 0xFFFF))

/-- `mov`: the source's shape and value (R114). -/
def execMov (d a : BitVec 7) (s : State) : Host.Outcome State Fault Refusal :=
  laneFree s (.mov d a) [d, a] fun w => { reads := [a], writes := [(d, w.reg a)] }

/-- What `sel` gives (R37, R114): the chosen operand's shape where the mask covers all or none of PM; a lane of a V takes its
operand by its own bit, an absent one too. -/
def selReg (pm k : Word) (a b : Reg) : Reg :=
  let mix := Reg.ofFn fun i => if bit k i then a.lane i else b.lane i
  let chosen (x : Reg) : Reg := match x with
    | .v _ => mix
    | x => x
  if k &&& pm = pm then chosen a
  else if k &&& pm = 0 then chosen b
  else match a, b with
    | .u x, .u y => if x = y then .u x else mix
    | _, _ => mix

/-- `sel` (R114). DEDUCED, log 19. -/
def execSel (d a b : BitVec 7) (km : BitVec 3) (s : State) : Host.Outcome State Fault Refusal :=
  laneFree s (.sel d a b km) [d, a, b] fun w =>
    { reads := [a, b], writes := [(d, selReg w.pm (w.k.getD km.toNat 0) (w.reg a) (w.reg b))] }

end Sys2Proof.Machine
end

