-- ==== Sys2Proof/Machine/System.lean ====
section
/-!
DEFINITION. The system cores: threads of Chanter processes, their registers, the memory that they reach, and the
calls that they make (R8 to R10, R149, R199, R273, R315, R316).
-/

namespace Sys2Proof.Machine

/-! ### Threads and processes -/

def State.proc (s : State) (i : Nat) : Process := s.procs.getD i { vi := 0, alive := false }

def State.modProc (s : State) (i : Nat) (f : Process → Process) : State := { s with procs := s.procs.modify i f }

def State.thread (s : State) (i : Nat) : SysThread := s.threads.getD i { proc := 0 }

def State.modThread (s : State) (i : Nat) (f : SysThread → SysThread) : State := { s with threads := s.threads.modify i f }

def State.modSysCore (s : State) (i : Nat) (f : SysCore → SysCore) : State := { s with sysCores := s.sysCores.modify i f }

/-- A register: x0 reads as zero and takes no write. -/
def SysThread.get (t : SysThread) (r : Nat) : BitVec 64 := if r = 0 then 0 else t.x.getD r 0

def SysThread.put (t : SysThread) (r : Nat) (v : BitVec 64) : SysThread := if r = 0 then t else { t with x := t.x.set r v }

/-- Argument `k` of a call: a0 is x10 (R316). -/
def SysThread.arg (t : SysThread) (k : Nat) : Nat := (t.get (10 + k)).toNat

/-- The thread that a system core runs, where its process is alive and no call holds it (R315, R316). -/
def State.running (s : State) (core : Nat) : Option Nat :=
  match s.sysCores[core]? with
  | some c => match c.thread with
    | some t => if !c.held && t < s.threads.length && !(s.thread t).waiting && (s.proc (s.thread t).proc).alive then some t else none
    | none => none
  | none => none

/-- The ASIDs that an interface holds live: those of its processes (R273, R311). -/
def State.liveAsids (s : State) (vi : Nat) : List Nat :=
  ((s.procs.filter fun p => p.alive && p.vi == vi).map (·.asid)).eraseDups

/-- Chanter may give a process of an interface this ASID: a job of the interface has it, or no one has it and the interface
holds fewer than its limit (R273, R311). DEDUCED, log 87. -/
def State.asidFree (s : State) (vi asid : Nat) : Bool :=
  (s.liveAsids vi).contains asid ||
    (!(s.procs.any fun p => p.alive && p.asid == asid) && (s.liveAsids vi).length < (s.vi vi).desc.asids)

/-! ### What a process reaches (R8, R9, R315) -/

/-- Where a byte of a process's memory lies. -/
inductive SysAt where
  | own (va : Nat)
  | host (addr : Nat)
  | main (die pa : Nat) (dsc : Bool) (va : Nat)
  deriving DecidableEq, Repr

/-- A process names HBM by 57-bit main-memory addresses, translated at the owner die's sites under its ASID (R8, R273): a
miss posts a fault, and the access waits. The Sv57 tables are Chanter's. DESIGN CHOICE, log 86. -/
def sysPlace (s : State) (pi va : Nat) (want : Want) : State × Option SysAt :=
  let p := s.proc pi
  match p.pages.lookup (va / 4096) with
  | none => (s, if va < 2 ^ 57 then some (.own va) else none)
  | some (.host a) => (s, some (.host (a + va % 4096)))
  | some (.main m) =>
    let m := m + va % 4096
    let o := owner m
    if o.1 ≠ s.moduleNo || !s.mayName p.vi o then (s, none)
    else match translate s o.2 p.asid m want with
      | (s, .frame pa dsc) => (s, some (.main o.2 pa dsc m))
      | (s, .miss) => (postFault s o.2 p.asid m want none, none)
      | (s, _) => (s, none)

/-- `n` bytes at a place. -/
def sysRead (s : State) (pi n : Nat) : SysAt → State × Bytes
  | .own va => (s, (s.proc pi).mem.readN va n)
  | .host a => (s, s.hostMem.readN a n)
  | .main die pa dsc _ => mainRead s (s.proc pi).vi die pa n dsc

/-- Bytes stored at a place. -/
def sysWrite (s : State) (pi : Nat) (bs : Bytes) : SysAt → State
  | .own va => s.modProc pi fun p => { p with mem := p.mem.writeN va bs }
  | .host a => { s with hostMem := s.hostMem.writeN a bs }
  | .main die pa dsc va => mainWrite s die (s.proc pi).asid va pa dsc bs

/-- The runs of 64 B lines that `n` bytes from an address make: address and length. -/
def lineRuns (va n : Nat) : List (Nat × Nat) :=
  (List.range ((va + n + 63) / 64 - va / 64)).map fun i =>
    let lo := Nat.max va (64 * (va / 64 + i))
    (lo, Nat.min (va + n) (64 * (va / 64 + i) + 64) - lo)

/-- The places of these runs; none where one is not reached. -/
def sysPlaces (s : State) (pi : Nat) (want : Want) : List (Nat × Nat) → State × Option (List (SysAt × Nat))
  | [] => (s, some [])
  | r :: rs => match sysPlace s pi r.1 want with
    | (s, none) => (s, none)
    | (s, some x) => match sysPlaces s pi want rs with
      | (s, none) => (s, none)
      | (s, some xs) => (s, some ((x, r.2) :: xs))

/-- `n` bytes of a process's memory; none where it does not reach them all now. -/
def procRead (s : State) (pi va n : Nat) : State × Option Bytes :=
  match sysPlaces s pi .read (lineRuns va n) with
  | (s, none) => (s, none)
  | (s, some xs) =>
    let r := xs.foldl (fun (acc : State × Bytes) x =>
      match sysRead acc.1 pi x.2 x.1 with
      | (s, bs) => (s, acc.2 ++ bs)) (s, [])
    (r.1, some r.2)

/-- Bytes stored in a process's memory; none where it does not reach them all now. -/
def procWrite (s : State) (pi va : Nat) (bs : Bytes) : State × Option Unit :=
  match sysPlaces s pi .write (lineRuns va bs.length) with
  | (s, none) => (s, none)
  | (s, some xs) =>
    let r := xs.foldl (fun (acc : State × Bytes) x =>
      (sysWrite acc.1 pi (acc.2.take x.2) x.1, acc.2.drop x.2)) (s, bs)
    (r.1, some ())

/-! ### Calls (R316) -/

/-- A device call: the thread that makes it and its process. -/
structure Call where
  thread : Nat
  proc : Nat
  vi : Nat
  asid : Nat
  arg : Nat → Nat

/-- The thread of a system core executes `ecall` with this number in a7; calls are made once Chanter runs (R316, R321).
DEDUCED, log 66. -/
def State.callOf (s : State) (core num : Nat) : Option Call :=
  if s.boot ≠ 6 then none
  else match s.running core with
    | none => none
    | some t =>
      let th := s.thread t
      if th.arg 7 ≠ num then none
      else some { thread := t, proc := th.proc, vi := (s.proc th.proc).vi, asid := (s.proc th.proc).asid, arg := th.arg }

/-- A call returns its value in a0, and in a1 what follows a refusal, and the thread goes on (R316). -/
def SysThread.returns (t : SysThread) (value : Int) (more : List Nat) : SysThread :=
  let t := t.put 10 (BitVec.ofInt 64 value)
  let t := match more with
    | [] => t
    | m :: _ => t.put 11 (BitVec.ofNat 64 m)
  { t with pc := t.pc + 4, waiting := false }

/-- A call of a thread returns. -/
def ret (s : State) (t : Nat) (value : Int) (more : List Nat := []) : State :=
  (s.modThread t fun x => x.returns value more).post (.ret (s.proc (s.thread t).proc).vi value more)

/-- Error codes of R316. -/
def eINVAL : Int := -1
def eFULL : Int := -2
def eNOENT : Int := -3
def eBUSY : Int := -4
def ePERM : Int := -5
def eTIMEOUT : Int := -6
def eREFUSED : Int := -7

/-- A device call of a system core: with no such call, nothing happens. -/
def sysCall (s : State) (core num : Nat) (f : Call → State) : Host.Outcome State Fault Refusal :=
  .next (match s.callOf core num with
    | none => s
    | some c => f c)

/-! ### What else a system core does (R10, R149, R315) -/

/-- LOCN as a system core reads it: CLUS, CORE and DIE read 0 (R10). -/
def State.locnHub (s : State) : Nat := 2 ^ 28 + 2 ^ 24 + s.moduleNo * 2

/-- A thread starts, in a process. -/
def spawnThread (s : State) (pi : Nat) (pc : BitVec 64) : State :=
  { s with threads := s.threads ++ [({ proc := pi, pc := pc } : SysThread)] }

/-- A process ends: its calls are given up, and no core runs its threads (R310, R311). -/
def endProcess (s : State) (pi value : Nat) : State :=
  let mine (t : Nat) : Bool := (s.thread t).proc == pi
  let drop (c : SysCore) : SysCore := if c.thread.any mine then { c with thread := none } else c
  { (s.modProc pi fun p => { p with alive := false, exit := value }) with
    waiters := s.waiters.filter (fun w => !mine w.thread), sysCores := s.sysCores.map drop }

/-- A run of bytes of one line. -/
def inLine (a n : Nat) : Bool := n != 0 && a % 64 + n ≤ 64

/-- SYSTEM_CORE_ACCESS (R9, R10, R149, R315): an access is checked against no lock; one that is not reached waits. What a
core's own RVA23 instructions compute arrives as what they leave. DESIGN CHOICE, log 86. -/
def execSystemCoreAccess (core : Nat) (act : SysAct) (s : State) : Host.Outcome State Fault Refusal :=
  let by_ (f : Nat → Nat → State) : State := match s.running core with
    | some t => f t (s.thread t).proc
    | none => s
  .next (match act with
    | .load rd va n => by_ fun t pi =>
      if !inLine va n then s
      else match procRead s pi va n with
        | (s, none) => s
        | (s, some bs) =>
          (if n ≤ 8 then s.modThread t fun x => x.put rd (BitVec.ofNat 64 (leNat bs)) else s).post (.data bs)
    | .store va data => by_ fun _ pi => if inLine va data.length then (procWrite s pi va data).1 else s
    | .locn rd => by_ fun t _ => s.modThread t fun x => x.put rd (BitVec.ofNat 64 s.locnHub)
    | .reg rd v => by_ fun t _ => s.modThread t fun x => x.put rd v
    | .jump pc => by_ fun t _ => s.modThread t fun x => { x with pc := pc }
    | .page va place => by_ fun _ pi => s.modProc pi fun p =>
        let others := p.pages.filter fun x => x.1 != va / 4096
        { p with pages := match place with
            | none => others
            | some x => (va / 4096, x) :: others }
    | .run thread =>
      if s.boot = 6 && !(s.sysCores.any fun c => thread.isSome && c.thread == thread) then
        s.modSysCore core fun c => if c.held then c else { c with thread := thread }
      else s
    | .spawn pi pc => if s.boot = 6 && (s.proc pi).alive then spawnThread s pi pc else s
    | .exit value => by_ fun _ pi => endProcess s pi value)

end Sys2Proof.Machine
end

