-- ==== Sys2Proof/Machine/Elf.lean ====
section
/-!
DEFINITION. The bytes of a bundle: an ELF64 file, its loadable segments, its device sections and their relocations
(R324, R325).
-/

namespace Sys2Proof.Machine

/-! ### Runs of bytes -/

/-- `n` bytes of a run from an offset, as a number. -/
def numAt (bs : Bytes) (off n : Nat) : Nat := leNat ((bs.drop off).take n)

/-- Replace bytes of a run. -/
def putAt (bs : Bytes) (off : Nat) (new : Bytes) : Bytes := bs.take off ++ new ++ bs.drop (off + new.length)

/-- The bytes before a NUL. -/
def nameAt (bs : Bytes) (off : Nat) : Bytes := (bs.drop off).takeWhile (· != 0)

/-! ### The parts of a bundle (R324) -/

/-- What a relocation names: a place in a device section, or a plain value (R325). -/
inductive Sym where
  | place (shType off : Nat)
  | value (v : Nat)
  deriving DecidableEq, Repr

/-- One Elf64_Rela entry against a device section (R324, R325). -/
structure Rela where
  sect : Nat
  off : Nat
  typ : Nat
  sym : Sym
  addend : Int
  deriving DecidableEq, Repr

/-- A loadable segment: its address, its length in memory, and its bytes. -/
structure Segment where
  va : Nat
  size : Nat
  bytes : Bytes
  deriving DecidableEq, Repr

/-- A bundle as its file gives it; a section is its sh_type, its place in the file and its bytes. -/
structure BundleImage where
  eMachine : Nat
  eType : Nat
  entry : Nat
  segments : List Segment
  sections : List (Nat × Nat × Bytes)
  rela : List Rela
  deriving DecidableEq, Repr

/-- The bytes of a device section. -/
def BundleImage.section_ (b : BundleImage) (ty : Nat) : Bytes := ((b.sections.lookup ty).map (·.2)).getD []

/-- The place in the file of a device section. -/
def BundleImage.at_ (b : BundleImage) (ty : Nat) : Nat := ((b.sections.lookup ty).map (·.1)).getD 0

def codeType : Nat := 0x80000001
def kdescType : Nat := 0x80000002
def tmplType : Nat := 0x80000003
def dataType : Nat := 0x80000004
def nelnathType : Nat := 0x80000005
def relaType : Nat := 0x80000006

/-! ### ELF64 (R324; the layout is that of the published format). PRESUMED, log 74. -/

/-- A section header. -/
structure ElfSection where
  ty : Nat
  addr : Nat
  off : Nat
  size : Nat
  link : Nat
  info : Nat

def elfSections (bs : Bytes) : List ElfSection :=
  (List.range (numAt bs 0x3C 2)).map fun i =>
    let o := numAt bs 0x28 8 + numAt bs 0x3A 2 * i
    { ty := numAt bs (o + 4) 4, addr := numAt bs (o + 0x10) 8, off := numAt bs (o + 0x18) 8, size := numAt bs (o + 0x20) 8
      link := numAt bs (o + 0x28) 4, info := numAt bs (o + 0x2C) 4 }

/-- The segments of type PT_LOAD. -/
def elfSegments (bs : Bytes) : List Segment :=
  ((List.range (numAt bs 0x38 2)).map fun i => numAt bs 0x20 8 + numAt bs 0x36 2 * i).filterMap fun o =>
    if numAt bs o 4 = 1 then
      some { va := numAt bs (o + 0x10) 8, size := numAt bs (o + 0x28) 8
             bytes := (bs.drop (numAt bs (o + 8) 8)).take (numAt bs (o + 0x20) 8) }
    else none

def isDevice (ty : Nat) : Bool := codeType ≤ ty && ty ≤ nelnathType

/-- The section that an entry of a relocation section patches: the one that its header names, or the device section
whose addresses hold r_offset. PRESUMED, log 74. -/
def relaTarget (secs : List ElfSection) (r : ElfSection) (off : Nat) : Option ElfSection :=
  if r.info ≠ 0 then secs[r.info]? else secs.find? fun x => isDevice x.ty && x.addr ≤ off && off < x.addr + x.size

/-- A symbol of the table that a relocation section names. -/
def elfSym (bs : Bytes) (secs : List ElfSection) (r : ElfSection) (i : Nat) : Option Sym :=
  match secs[r.link]? with
  | none => none
  | some tab =>
    let o := tab.off + 24 * i
    let shndx := numAt bs (o + 6) 2
    let value := numAt bs (o + 8) 8
    if tab.size < 24 * (i + 1) || shndx = 0 then none
    else match secs[shndx]? with
      | some x => some (if isDevice x.ty then .place x.ty (value - x.addr) else .value value)
      | none => some (.value value)

/-- The entries of one relocation section; none where one names no symbol or no place. -/
def elfRelas (bs : Bytes) (secs : List ElfSection) (r : ElfSection) : Option (List Rela) :=
  (List.range (r.size / 24)).mapM fun i =>
    let o := r.off + 24 * i
    match relaTarget secs r (numAt bs o 8), elfSym bs secs r (numAt bs (o + 12) 4) with
    | some x, some sym =>
      some { sect := x.ty, off := numAt bs o 8 - x.addr, typ := numAt bs (o + 8) 4, sym := sym
             addend := sext 64 (numAt bs (o + 16) 8) }
    | _, _ => none

/-- Read a bundle; none where the bytes are no ELF64 file, little-endian, that holds what its headers name. -/
def parseBundle (bs : Bytes) : Option BundleImage :=
  let secs := elfSections bs
  if bs.length < 64 || bs.take 6 != [0x7F, 0x45, 0x4C, 0x46, 2, 1] ||
      bs.length < numAt bs 0x28 8 + numAt bs 0x3A 2 * numAt bs 0x3C 2 ||
      bs.length < numAt bs 0x20 8 + numAt bs 0x36 2 * numAt bs 0x38 2 ||
      secs.any (fun x => (isDevice x.ty || x.ty == relaType) && bs.length < x.off + x.size) then none
  else match (secs.filter fun x => x.ty == relaType).mapM (elfRelas bs secs) with
    | none => none
    | some rela =>
      some { eMachine := numAt bs 18 2, eType := numAt bs 16 2, entry := numAt bs 0x18 8, segments := elfSegments bs
             sections := (secs.filter fun x => isDevice x.ty).map fun x => (x.ty, x.off, (bs.drop x.off).take x.size)
             rela := rela.flatten }

/-- The header fields of a bundle (R324). -/
def BundleImage.headerOk (b : BundleImage) : Bool := b.eMachine == 243 && b.eType == 3

end Sys2Proof.Machine
end

