-- ==== Sys2Proof/Machine/Lanes.lean ====
section
/-!
DEFINITION. Compares, mask instructions, shape instructions, permutes, quad exchanges, reductions and scans
(R115 to R129).
-/

namespace Sys2Proof.Machine

/-! ### Compare (R90, R115, R116) -/

/-- The relations of R90. -/
inductive Rel where
  | eq | ne | lt | le | gt | ge | ord | eqU | neU | ltU | leU | gtU | geU | uno
  deriving DecidableEq, Repr

/-- Whether a relation holds of an outcome (R90). -/
def Rel.holds (r : Rel) (o : Option Ordering) : Bool :=
  match r, o with
  | .eq, some .eq | .ne, some .lt | .ne, some .gt | .lt, some .lt | .gt, some .gt => true
  | .le, some .lt | .le, some .eq | .ge, some .gt | .ge, some .eq | .ord, some _ => true
  | .eqU, none | .neU, none | .ltU, none | .leU, none | .gtU, none | .geU, none | .uno, none => true
  | .eqU, some .eq | .neU, some .lt | .neU, some .gt | .ltU, some .lt | .gtU, some .gt => true
  | .leU, some .lt | .leU, some .eq | .geU, some .gt | .geU, some .eq => true
  | _, _ => false

/-- Relations defined for the float types alone (R90). -/
def Rel.floatOnly : Rel → Bool
  | .eq | .ne | .lt | .le | .gt | .ge => false
  | _ => true

/-- Relations under which a quiet NaN is invalid (R115). -/
def Rel.signals : Rel → Bool
  | .lt | .le | .gt | .ge => true
  | _ => false

/-- The outcomes of the elements of one lane, element 0 first, and the flags. -/
def cmpLane (m : BitVec 16) (r : Rel) (xs : List Word) : List (Option Ordering) × Nat :=
  let t := modeType m
  let fl (f : FFmt) (x y : Nat) : Option Ordering × Nat :=
    let a := fval f (modeFlush m) x
    let b := fval f (modeFlush m) y
    (a.cmp b, if a == .nan true || b == .nan true || (r.signals && (a.isNaN || b.isNaN)) then fNV else 0)
  match typeFmt t with
  | some .f64 => match pairVals xs with
    | [x, y] => let o := fl .f64 x y; ([o.1], o.2)
    | _ => ([], 0)
  | some .f32 => match xs with
    | [x, y] => let o := fl .f32 x.toNat y.toNat; ([o.1], o.2)
    | _ => ([], 0)
  | some f => match xs with
    | [x, y] =>
      let lo := fl f (bitsOf x.toNat 0 16) (bitsOf y.toNat 0 16)
      let hi := fl f (bitsOf x.toNat 16 16) (bitsOf y.toNat 16 16)
      ([lo.1, hi.1], lo.2 ||| hi.2)
    | _ => ([], 0)
  | none => match xs with
    | [x, y] =>
      let c (u v : Nat) : Option Ordering := some (compare (elemInt t u) (elemInt t v))
      if t = 6 then
        ([c (bitsOf x.toNat 0 16) (bitsOf y.toNat 0 16), c (bitsOf x.toNat 16 16) (bitsOf y.toNat 16 16)], 0)
      else ([c x.toNat y.toNat], 0)
    | _ => ([], 0)

/-- Z, N, C and V of two integers (R69). -/
def intCodes (x y : Word) : Bool × Bool × Bool × Bool :=
  let d := x - y
  (x == y, d.msb, y.toNat ≤ x.toNat, x.msb != y.msb && d.msb != x.msb)

/-- Z, N, C and V of a float outcome (R116). -/
def floatCodes : Option Ordering → Bool × Bool × Bool × Bool
  | some .lt => (false, true, false, false)
  | some .eq => (true, false, true, false)
  | some .gt => (false, false, true, false)
  | none => (false, false, true, true)

/-- What a compare does (R115, R116); its flags are those of PM's lanes. DEDUCED, log 20. -/
def cmpOp (r : Rel) (k : BitVec 4) (a b : BitVec 7) (w : Wave) : LaneOp :=
  let regs := w.typed a ++ w.typed b
  let outs := (List.range 32).map fun i => cmpLane w.mode r (regs.map fun x => x.lane i)
  let m := maskOf fun i => bit w.pm i && ((outs.getD i ([], 0)).1.all r.holds) && !(outs.getD i ([], 0)).1.isEmpty
  let cc :=
    if regs.all Reg.isU then
      match typeFmt (modeType w.mode) with
      | some _ => some (floatCodes ((outs.getD 0 ([], 0)).1.headD none))
      | none => some (intCodes ((w.reg a).lane 0) ((w.reg b).lane 0))
    else none
  { reads := (typedRegs (modeType w.mode) a) ++ typedRegs (modeType w.mode) b
    flags := outs.map (·.2), guarded := false, unit := .mask, mask := some (k, m), cc := cc }

/-- The compare instruction of a relation. -/
def cmpInstr (s : State) (i : Instr) (r : Rel) (k : BitVec 4) (a b : BitVec 7) : Host.Outcome State Fault Refusal :=
  typedInstr s i (if r.floatOnly then [2, 3, 4, 5] else allTypes) [a, b] (cmpOp r k a b)

/-- `cmp.eq` (R90, R115, R116). -/
def execCmpEq (m : BitVec 4) (a b : BitVec 7) (s : State) : Host.Outcome State Fault Refusal :=
  cmpInstr s (.cmpEq m a b) .eq m a b

/-- `cmp.ne` (R90, R115, R116). -/
def execCmpNe (m : BitVec 4) (a b : BitVec 7) (s : State) : Host.Outcome State Fault Refusal :=
  cmpInstr s (.cmpNe m a b) .ne m a b

/-- `cmp.lt` (R90, R115, R116). -/
def execCmpLt (m : BitVec 4) (a b : BitVec 7) (s : State) : Host.Outcome State Fault Refusal :=
  cmpInstr s (.cmpLt m a b) .lt m a b

/-- `cmp.le` (R90, R115, R116). -/
def execCmpLe (m : BitVec 4) (a b : BitVec 7) (s : State) : Host.Outcome State Fault Refusal :=
  cmpInstr s (.cmpLe m a b) .le m a b

/-- `cmp.gt` (R90, R115, R116). -/
def execCmpGt (m : BitVec 4) (a b : BitVec 7) (s : State) : Host.Outcome State Fault Refusal :=
  cmpInstr s (.cmpGt m a b) .gt m a b

/-- `cmp.ge` (R90, R115, R116). -/
def execCmpGe (m : BitVec 4) (a b : BitVec 7) (s : State) : Host.Outcome State Fault Refusal :=
  cmpInstr s (.cmpGe m a b) .ge m a b

/-- `cmp.ord` (R90, R115, R116). -/
def execCmpOrd (m : BitVec 4) (a b : BitVec 7) (s : State) : Host.Outcome State Fault Refusal :=
  cmpInstr s (.cmpOrd m a b) .ord m a b

/-- `cmp.eq.u` (R90, R115, R116). -/
def execCmpEqU (m : BitVec 4) (a b : BitVec 7) (s : State) : Host.Outcome State Fault Refusal :=
  cmpInstr s (.cmpEqU m a b) .eqU m a b

/-- `cmp.ne.u` (R90, R115, R116). -/
def execCmpNeU (m : BitVec 4) (a b : BitVec 7) (s : State) : Host.Outcome State Fault Refusal :=
  cmpInstr s (.cmpNeU m a b) .neU m a b

/-- `cmp.lt.u` (R90, R115, R116). -/
def execCmpLtU (m : BitVec 4) (a b : BitVec 7) (s : State) : Host.Outcome State Fault Refusal :=
  cmpInstr s (.cmpLtU m a b) .ltU m a b

/-- `cmp.le.u` (R90, R115, R116). -/
def execCmpLeU (m : BitVec 4) (a b : BitVec 7) (s : State) : Host.Outcome State Fault Refusal :=
  cmpInstr s (.cmpLeU m a b) .leU m a b

/-- `cmp.gt.u` (R90, R115, R116). -/
def execCmpGtU (m : BitVec 4) (a b : BitVec 7) (s : State) : Host.Outcome State Fault Refusal :=
  cmpInstr s (.cmpGtU m a b) .gtU m a b

/-- `cmp.ge.u` (R90, R115, R116). -/
def execCmpGeU (m : BitVec 4) (a b : BitVec 7) (s : State) : Host.Outcome State Fault Refusal :=
  cmpInstr s (.cmpGeU m a b) .geU m a b

/-- `cmp.uno` (R90, R115, R116). -/
def execCmpUno (m : BitVec 4) (a b : BitVec 7) (s : State) : Host.Outcome State Fault Refusal :=
  cmpInstr s (.cmpUno m a b) .uno m a b

/-! ### Mask instructions (R117 to R119) -/

def Wave.mask (w : Wave) (k : BitVec 4) : Word := w.k.getD k.toNat 0

/-- An instruction that writes a mask register from masks (R117). -/
def maskInstr (s : State) (i : Instr) (k : BitVec 4) (f : Wave → Word) : Host.Outcome State Fault Refusal :=
  laneFree s i [] fun w => { guarded := false, unit := .mask, mask := some (k, f w) }

/-- `kand` (R117). -/
def execKand (d a b : BitVec 4) (s : State) : Host.Outcome State Fault Refusal :=
  maskInstr s (.kand d a b) d fun w => w.mask a &&& w.mask b

/-- `kor` (R117). -/
def execKor (d a b : BitVec 4) (s : State) : Host.Outcome State Fault Refusal :=
  maskInstr s (.kor d a b) d fun w => w.mask a ||| w.mask b

/-- `kxor` (R117). -/
def execKxor (d a b : BitVec 4) (s : State) : Host.Outcome State Fault Refusal :=
  maskInstr s (.kxor d a b) d fun w => w.mask a ^^^ w.mask b

/-- `kandn` (R117). -/
def execKandn (d a b : BitVec 4) (s : State) : Host.Outcome State Fault Refusal :=
  maskInstr s (.kandn d a b) d fun w => w.mask a &&& ~~~(w.mask b)

/-- `knot` (R117). -/
def execKnot (d a : BitVec 4) (s : State) : Host.Outcome State Fault Refusal :=
  maskInstr s (.knot d a) d fun w => ~~~(w.mask a)

/-- `kmov` (R117). -/
def execKmov (d a : BitVec 4) (s : State) : Host.Outcome State Fault Refusal :=
  maskInstr s (.kmov d a) d fun w => w.mask a

/-- `kset`: a[l0] (R118). -/
def execKset (d : BitVec 4) (v : BitVec 7) (s : State) : Host.Outcome State Fault Refusal :=
  laneFree s (.kset d v) [v] fun w =>
    { reads := [v], guarded := false, unit := .mask, mask := some (d, (w.reg v).lane (lowest w.pm)) }

/-- `kget`: all 32 bits of a mask (R118). -/
def execKget (v : BitVec 7) (a : BitVec 4) (s : State) : Host.Outcome State Fault Refusal :=
  laneFree s (.kget v a) [v] fun w => { unit := .mask, writes := [(v, .u (w.mask a))] }

/-- `kpop`: set bits within PM (R118). -/
def execKpop (v : BitVec 7) (a : BitVec 4) (s : State) : Host.Outcome State Fault Refusal :=
  laneFree s (.kpop v a) [v] fun w =>
    { unit := .mask, writes := [(v, .u (BitVec.ofNat 32 (popcount (w.mask a &&& w.pm))))] }

/-- `kfirst`: the lowest set bit within PM, or 32 (R118). -/
def execKfirst (v : BitVec 7) (a : BitVec 4) (s : State) : Host.Outcome State Fault Refusal :=
  laneFree s (.kfirst v a) [v] fun w =>
    { unit := .mask, writes := [(v, .u (BitVec.ofNat 32 ((lanesOf (w.mask a &&& w.pm)).headD 32)))] }

/-- `ktest`: MZ and MF of a conjunction (R119). -/
def execKtest (a b : BitVec 4) (s : State) : Host.Outcome State Fault Refusal :=
  laneFree s (.ktest a b) [] fun w => { guarded := false, unit := .mask, test := some (w.mask a &&& w.mask b) }

/-! ### Shape instructions (R120, R121) -/

/-- `shape`: the shape code (R120). -/
def execShape (d a : BitVec 7) (s : State) : Host.Outcome State Fault Refusal :=
  laneFree s (.shape d a) [d, a] fun w =>
    { reads := [a], writes := [(d, .u (BitVec.ofNat 32 (w.reg a).shape))] }

/-- `sassert`: SHAPE ASSERT above the bound, and otherwise nothing (R120). -/
def execSassert (a : BitVec 7) (n : BitVec 3) (s : State) : Host.Outcome State Fault Refusal :=
  begin_ s [a] fun wi =>
    let w := s.wave wi
    if !s.unitFree wi .vector then stall s wi
    else if n.toNat < (w.reg a).shape then
      issueTrap s wi (wordOfInstr (.sassert a n)) .shape 2 0 [a.toNat, w.liveV, w.qw]
    else laneEffect s wi { reads := [a], guarded := false }

/-- `sforce`: a U or A register becomes V (R121). -/
def execSforce (d : BitVec 7) (s : State) : Host.Outcome State Fault Refusal :=
  laneFree s (.sforce d) [d] fun w => { reads := [d], writes := [(d, .v (w.reg d).lanes)], guarded := false }

/-- The compaction of R38. -/
def compact (pm : Word) (r : Reg) : Reg :=
  match r with
  | .v l =>
    let lo := lowest pm
    let x := l.getD lo 0
    if (lanesOf pm).all fun i => l.getD i 0 == x then .u x
    else if bit pm (lo + 1) then
      let st := l.getD (lo + 1) 0 - x
      let b := x - BitVec.ofNat 32 lo * st
      if (lanesOf pm).all fun i => l.getD i 0 == b + BitVec.ofNat 32 i * st then .a b st else .v l
    else .v l
  | r => r

/-- `scompact` (R38, R121). -/
def execScompact (d : BitVec 7) (s : State) : Host.Outcome State Fault Refusal :=
  laneFree s (.scompact d) [d] fun w => { reads := [d], writes := [(d, compact w.pm (w.reg d))], guarded := false }

/-! ### Lane index, permutes, quad exchanges (R122 to R126) -/

/-- `lane` (R122). -/
def execLane (d : BitVec 7) (s : State) : Host.Outcome State Fault Refusal :=
  laneFree s (.lane d) [d] fun _ => { writes := [(d, .a 0 1)] }

/-- A permute of `a` by a source lane for each lane (R123, R124). -/
def permInstr (s : State) (i : Instr) (d a b : BitVec 7) (src : Nat → Word → Nat) :
    Host.Outcome State Fault Refusal :=
  laneFree s i [d, a, b] fun w =>
    { reads := [a, b], writes := [(d, Reg.ofFn fun l => (w.reg a).lane (src l ((w.reg b).lane l)))] }

/-- `perm` (R123). -/
def execPerm (d a b : BitVec 7) (s : State) : Host.Outcome State Fault Refusal :=
  permInstr s (.perm d a b) d a b fun _ n => n.toNat % 32

/-- `lmove.lo` (R124). -/
def execLmoveLo (d a b : BitVec 7) (s : State) : Host.Outcome State Fault Refusal :=
  permInstr s (.lmoveLo d a b) d a b fun l n => if n.toNat ≤ l then l - n.toNat else l

/-- `lmove.hi` (R124). -/
def execLmoveHi (d a b : BitVec 7) (s : State) : Host.Outcome State Fault Refusal :=
  permInstr s (.lmoveHi d a b) d a b fun l n => if l + n.toNat ≤ 31 then l + n.toNat else l

/-- `lmove.flip` (R124). -/
def execLmoveFlip (d a b : BitVec 7) (s : State) : Host.Outcome State Fault Refusal :=
  permInstr s (.lmoveFlip d a b) d a b fun l n => l ^^^ (n.toNat % 32)

/-- `lmove.rot` (R124). -/
def execLmoveRot (d a b : BitVec 7) (s : State) : Host.Outcome State Fault Refusal :=
  permInstr s (.lmoveRot d a b) d a b fun l n => (l + 32 - n.toNat % 32) % 32

/-- `bcast` (R123). -/
def execBcast (d a b : BitVec 7) (s : State) : Host.Outcome State Fault Refusal :=
  laneFree s (.bcast d a b) [d, a, b] fun w =>
    { reads := [a, b], writes := [(d, .u ((w.reg a).lane (((w.reg b).lane (lowest w.pm)).toNat % 32)))] }

/-- A quad exchange with partner lane xor x (R126). -/
def quadInstr (s : State) (i : Instr) (d a : BitVec 7) (x : Nat) : Host.Outcome State Fault Refusal :=
  laneFree s i [d, a] fun w =>
    let p := w.pm ||| w.hm
    { reads := [a], writes := [(d, Reg.ofFn fun l => (w.reg a).lane (if bit p l && bit p (l ^^^ x) then l ^^^ x else l))] }

/-- `qswap.h` (R126). -/
def execQswapH (d a : BitVec 7) (s : State) : Host.Outcome State Fault Refusal := quadInstr s (.qswapH d a) d a 1

/-- `qswap.v` (R126). -/
def execQswapV (d a : BitVec 7) (s : State) : Host.Outcome State Fault Refusal := quadInstr s (.qswapV d a) d a 2

/-- `qswap.d` (R126). -/
def execQswapD (d a : BitVec 7) (s : State) : Host.Outcome State Fault Refusal := quadInstr s (.qswapD d a) d a 3

/-- `helper`: HM := kA & ~PM (R125). -/
def execHelper (a : BitVec 4) (s : State) : Host.Outcome State Fault Refusal :=
  laneFree s (.helper a) [] fun w => { guarded := false, unit := .mask, hm := some (w.mask a &&& ~~~w.pm) }

/-! ### Reductions and scans (R127 to R129) -/

/-- A sum over words under MODE: value, flags, and whether it needs a slow pass (R55, R58, R60). The sum of no words is
0 (R128). -/
def sumWords (m : BitVec 16) (xs : List Word) : Word × Nat × Bool :=
  if xs.isEmpty then (0, 0, false)
  else match typeFmt (modeType m) with
  | some _ =>
    let ts := xs.map fun x => fval .f32 (modeFlush m) x.toNat
    let r := sumRound .f32 (modeRound m) (modeFlush m) ts
    (BitVec.ofNat 32 r.1, r.2, slowSum ts)
  | none =>
    let r := wrapOrClamp 32 (modeType m = 0) (modeSat m)
      (xs.foldl (fun acc x => acc + elemInt (modeType m) x.toNat) 0)
    (BitVec.ofNat 32 r.1, r.2, false)

/-- Types of reductions and scans (R91). -/
def reduxTypes : List Nat := [0, 1, 2]

/-- Elements of `n` registers from `a` that contribute: those of lanes in L, register by register (R129). -/
def reduxElems (w : Wave) (a : BitVec 7) (n : Nat) : List Word :=
  ((List.range n).map fun r => (lanesOf w.active).map fun l => (w.reg (regFrom a r)).lane l).flatten

/-- Registers from `a`. -/
def regRun (a : BitVec 7) (n : Nat) : List (BitVec 7) := (List.range n).map (regFrom a)

/-- A sum reduction of `n` registers (R127, R129). -/
def reduxSum (s : State) (i : Instr) (d a : BitVec 7) (n : Nat) : Host.Outcome State Fault Refusal :=
  laneInstr s i (d :: regRun a n) fun w =>
    if !reduxTypes.contains (modeType w.mode) then .error 6
    else
      let r := sumWords w.mode (reduxElems w a n)
      .ok { reads := regRun a n, writes := [(d, .u r.1)], flags := List.replicate 32 r.2.1, clocks := 2 * n
            slow := r.2.2 && w.active != 0 }

/-- `redux.add` (R127). -/
def execReduxAdd (d a : BitVec 7) (s : State) : Host.Outcome State Fault Refusal := reduxSum s (.reduxAdd d a) d a 1

/-- The least or greatest of the lanes of L (R57, R127). -/
def pickWord (m : BitVec 16) (mx : Bool) (xs : List Word) : Word × Nat :=
  match typeFmt (modeType m) with
  | some _ =>
    -- a NaN gives way to any number; the sign orders zeros
    let vs := xs.map fun x => (fval .f32 (modeFlush m) x.toNat, x)
    let nv := if vs.any fun v => v.1 == .nan true then fNV else 0
    let nums := vs.filter fun v => !v.1.isNaN
    match nums with
    | [] => (BitVec.ofNat 32 (fmtNaN .f32), nv)
    | v :: rest =>
      let best := rest.foldl (fun acc x => if (if mx then acc.1.before x.1 else x.1.before acc.1) then x else acc) v
      (BitVec.ofNat 32 (best.1.toFmt .f32 0 (modeFlush m) false).1, nv)
  | none =>
    match xs with
    | [] => (0, 0)
    | x :: rest =>
      let v (y : Word) : Int := elemInt (modeType m) y.toNat
      (rest.foldl (fun acc y => if (if mx then v acc < v y else v y < v acc) then y else acc) x, 0)

def reduxPickInstr (s : State) (i : Instr) (mx : Bool) (d a : BitVec 7) : Host.Outcome State Fault Refusal :=
  laneInstr s i [d, a] fun w =>
    if !reduxTypes.contains (modeType w.mode) then .error 6
    else
      let r := pickWord w.mode mx (reduxElems w a 1)
      .ok { reads := [a], writes := [(d, .u r.1)], flags := List.replicate 32 r.2, clocks := 2 }

/-- `redux.min` (R127). -/
def execReduxMin (d a : BitVec 7) (s : State) : Host.Outcome State Fault Refusal :=
  reduxPickInstr s (.reduxMin d a) false d a

/-- `redux.max` (R127). -/
def execReduxMax (d a : BitVec 7) (s : State) : Host.Outcome State Fault Refusal :=
  reduxPickInstr s (.reduxMax d a) true d a

/-- `redux.addn` over n + 1 registers (R129). -/
def execReduxAddn (d a : BitVec 7) (n : BitVec 3) (s : State) : Host.Outcome State Fault Refusal :=
  reduxSum s (.reduxAddn d a n) d a (n.toNat + 1)

/-- The prefix of the contributing elements up to element e: register r, lane l (R128, R129). -/
def scanElems (w : Wave) (a : BitVec 7) (r l : Nat) : List Word :=
  reduxElems w a r ++ ((lanesOf w.active).filter (· ≤ l)).map fun j => (w.reg (regFrom a r)).lane j

/-- A scan of `n` registers (R128, R129). -/
def scanSum (s : State) (i : Instr) (d a : BitVec 7) (n : Nat) : Host.Outcome State Fault Refusal :=
  laneInstr s i (regRun d n ++ regRun a n) fun w =>
    if !reduxTypes.contains (modeType w.mode) then .error 6
    else
      let rows := (List.range n).map fun r => (List.range 32).map fun l => sumWords w.mode (scanElems w a r l)
      .ok { reads := regRun a n
            writes := (List.range n).map fun r => (regFrom d r, .v ((rows.getD r []).map (·.1)))
            flags := (List.range 32).map fun l => rows.foldl (fun acc row => acc ||| (row.getD l (0, 0, false)).2.1) 0
            clocks := 2 * n
            slow := rows.any fun row => (lanesOf w.active).any fun l => (row.getD l (0, 0, false)).2.2 }

/-- `scan.add` (R128). -/
def execScanAdd (d a : BitVec 7) (s : State) : Host.Outcome State Fault Refusal := scanSum s (.scanAdd d a) d a 1

/-- `scan.addn` over n + 1 registers (R129). -/
def execScanAddn (d a : BitVec 7) (n : BitVec 3) (s : State) : Host.Outcome State Fault Refusal :=
  scanSum s (.scanAddn d a n) d a (n.toNat + 1)

end Sys2Proof.Machine
end

