-- ==== Sys2Proof/Machine/Nelnath.lean ====
section
/-!
DEFINITION. Nelnath kernels: the words that translation rejects, what the portable-only instructions give over a group,
and translation (R327, R328).
-/

namespace Sys2Proof.Machine

/-- Widths that a group may have (R327). -/
def groupWidths : List Nat := [8, 16, 32, 64, 128]

/-- Native instructions that translation rejects: the cross-lane ones, and those that name nb31 (R327). -/
def nativeOnly (i : Instr) : Bool :=
  match i with
  | .perm _ _ _ | .bcast _ _ _ => true
  | .lmoveLo _ _ _ | .lmoveHi _ _ _ | .lmoveFlip _ _ _ | .lmoveRot _ _ _ => true
  | .qswapH _ _ | .qswapV _ _ | .qswapD _ _ | .helper _ => true
  | .reduxAdd _ _ | .reduxMin _ _ | .reduxMax _ _ | .reduxAddn _ _ _ | .scanAdd _ _ | .scanAddn _ _ _ => true
  | .kset _ _ | .kget _ _ | .kpop _ _ | .kfirst _ _ => true
  | .meet nb | .arrive nb | .await nb => nb == 31
  | _ => false

/-- The instruction of a portable-only word, 0xF0 to 0xF7, whose fields a group of W lanes admits (R327). -/
def portableInstr (W : Nat) (w : Word) : Option Instr :=
  match decodePortable w (opOf w).toNat with
  | .ok (.xballot d k c) => if (c.toNat + 1) * 32 ≤ Nat.max 32 W then some (.xballot d k c) else none
  | .ok i => some i
  | .error _ => none

def isPortable (w : Word) : Bool := 0xF0 ≤ (opOf w).toNat && (opOf w).toNat ≤ 0xF7

/-- A word that translation accepts (R327). -/
def nelnathOk (W : Nat) (w : Word) : Bool :=
  if isPortable w then (portableInstr W w).isSome
  else match decode w with
    | .ok i => !nativeOnly i
    | .error _ => true

/-! ### What the portable-only instructions give (R327) -/

/-- What a portable-only instruction reads over a group: its width, MODE, its present lanes in order, those of L, and its
operands. -/
structure Group where
  W : Nat
  mode : BitVec 16
  present : List Nat
  active : List Nat
  a : Nat → Word
  b : Nat → Word
  k : Nat → Bool

/-- `res` of a portable-only instruction, lane by lane, where the type defines it. -/
def Group.res (g : Group) (i : Instr) (l : Nat) : Option Word :=
  let num (n : Nat) : Word := BitVec.ofNat 32 n
  let typed (r : Word) : Option Word := if reduxTypes.contains (modeType g.mode) then some r else none
  match i with
  | .xperm _ _ _ => some (g.a ((g.b l).toNat % g.W))
  | .xbcast _ _ _ => some (g.a ((g.b (g.present.headD 0)).toNat % g.W))
  | .xreduxAdd _ _ => typed (sumWords g.mode (g.active.map g.a)).1
  | .xreduxMin _ _ => typed (pickWord g.mode false (g.active.map g.a)).1
  | .xreduxMax _ _ => typed (pickWord g.mode true (g.active.map g.a)).1
  | .xscan _ _ => typed (sumWords g.mode ((g.active.filter (· ≤ l)).map g.a)).1
  | .xballot _ _ c => some (num (((List.range 32).filter fun j =>
      g.present.contains (32 * c.toNat + j) && g.k (32 * c.toNat + j)).map (2 ^ ·)).sum)
  | .xwidth _ => some (num g.W)
  | _ => none

/-! ### Translation (R328) -/

/-- The native instruction that gives a portable-only one's results where a group is a wave, for those that one
instruction can give. DESIGN CHOICE, log 16. -/
def waveForm (i : Instr) : Option Instr :=
  match i with
  | .xperm d a b => some (.perm d a b)
  | .xbcast d a b => some (.bcast d a b)
  | .xreduxAdd d a => some (.reduxAdd d a)
  | .xreduxMin d a => some (.reduxMin d a)
  | .xreduxMax d a => some (.reduxMax d a)
  | .xscan d a => some (.scanAdd d a)
  | .xwidth d => some (.li d 32)
  | _ => none

def waveWord (w : Word) : Option Word :=
  if isPortable w then ((portableInstr 32 w).bind waveForm).bind encode else some w

/-- The words of a kernel's code. -/
def codeWords (bs : Bytes) : List Word := (List.range (bs.length / 4)).map fun i => BitVec.ofNat 32 (numAt bs (4 * i) 4)

/-- Translate a Nelnath kernel of a width, given what it states of its registers, its handler and its code. A group of 32
lanes is a wave, and each word becomes one word where it can; the translation is else Ovholt's own (R328).
DESIGN CHOICE, log 16. -/
def translateKernel (W vregs hbase : Nat) (code : Bytes) : Option Translated :=
  let ws := codeWords code
  if !groupWidths.contains W || !ws.all (nelnathOk W) then none
  else match if W = 32 then ws.mapM waveWord else none with
    | some out =>
      some { vregs := vregs, hbase := hbase, sets := 0, code := (out.map fun w => natLe 4 w.toNat).flatten
             places := (List.range ws.length).map (4 * ·) }
    | none => some (Config.translate W vregs hbase code)

end Sys2Proof.Machine
end

