-- ==== Sys2Proof/Machine/Move.lean ====
section
/-!
DEFINITION. S7 and S3: the lines that copies move, from their sources to the homes of their destinations
(R148, R153, R190 to R202, R272 to R279, R313, R314).
-/

namespace Sys2Proof.Machine

/-! ### Reaching main memory (R201, R202, R272 to R279, R314) -/

/-- Where a request for a main-memory address gets to. -/
inductive Reach where
  /-- A physical address of a die of this module. -/
  | here (die pa : Nat) (dsc : Bool)
  /-- Another module, which answers it, through this port. -/
  | away (port : Nat)
  /-- Held on a fault (R201), or for a peer. -/
  | hold
  | wait
  | fail (code : CopyFail)
  deriving DecidableEq, Repr

/-- The ports left on the route of an interface to a module (R314). -/
def State.routePorts (s : State) (vi module_ : Nat) : List Nat :=
  (((s.vi vi).routes.lookup module_).getD []).filter fun p => s.ports.contains p && (s.vi vi).desc.ports.contains p

/-- The port that a line's requests and counter updates take (R314). DESIGN CHOICE, log 73. -/
def State.portOf (s : State) (vi module_ line : Nat) : Option Nat :=
  let ps := s.routePorts vi module_
  ps[Config.portPick line % Nat.max 1 ps.length]?

/-- A port is left on the route to a module (R314). -/
def State.routed (s : State) (vi module_ : Nat) : Bool := !(s.routePorts vi module_).isEmpty

/-- A request of a copy for a main-memory address; a miss is posted and holds the copy. -/
def reach (s : State) (ci va : Nat) (want : Want) : State × Reach :=
  let c := s.copy ci
  let o := owner va
  if !s.mayName c.vi o then (s, .fail .unmapped)
  else if o.1 = s.moduleNo then
    match translate s o.2 c.asid va want with
    | (s, .frame pa dsc) => (s, .here o.2 pa dsc)
    | (s, .unmapped) => (s, .fail .unmapped)
    | (s, .perm) => (s, .fail .perm)
    | (s, .miss) =>
      ((postFault s o.2 c.asid va want (some ci)).modCopy ci fun c => { c with heldOn := insertNat va c.heldOn }, .hold)
  else match s.portOf c.vi o.1 (va / 64) with
    | none => (s, .fail .peerdown)
    | some p => match Config.peerAnswer s.steps va with
      | .ok => (s, .away p)
      | .wait => (s, .wait)
      | .unmapped => (s, .fail .unmapped)
      | .perm => (s, .fail .perm)

/-- A copy fails: its code and address are recorded with its name (R202). -/
def failCopy (s : State) (ci : Nat) (code : CopyFail) (addr : Nat) : State :=
  if (s.copy ci).fail.isSome then s
  else (s.modCopy ci fun c => { c with fail := some (code, addr) }).post (.copyFail ci code addr)

/-- What a request that got nowhere does to its copy. -/
def notReached (s : State) (ci va : Nat) : Reach → State
  | .fail code => failCopy s ci code va
  | .wait => s.modCopy ci fun c => { c with peerWait := true }
  | _ => s

/-! ### Source bytes (R153, R190, R193) -/

/-- What a move makes of one destination byte. -/
inductive Piece where
  | keep
  | zero
  | from_ (addr : Nat)
  | val (b : Byte)
  deriving DecidableEq, Repr

/-- The 64 B lines that pieces read. -/
def pieceLines (ps : List Piece) : List Nat :=
  ps.foldl (fun acc p => match p with
    | .from_ a => addNew acc [a / 64]
    | _ => acc) []

/-- The home of a copy's local space. -/
def Copy.home (c : Copy) : TSpace → Home
  | .shared => .shared c.blk
  | _ => .scratch c.vi c.die

/-- Reach every source line before any is read: where each lies, or what stops the move. -/
def reachAll (s : State) (ci : Nat) : List Nat → State × Except (Nat × Reach) (List (Nat × Reach))
  | [] => (s, .ok [])
  | l :: ls =>
    match reach s ci (64 * l) .read with
    | (s, .here d pa dsc) => match reachAll s ci ls with
      | (s, .ok r) => (s, .ok ((l, .here d pa dsc) :: r))
      | r => r
    | (s, .away p) => match reachAll s ci ls with
      | (s, .ok r) => (s, .ok ((l, .away p) :: r))
      | r => r
    | (s, r) => (s, .error (64 * l, r))

/-- The bytes of one line that was reached. -/
def readLine (s : State) (vi l : Nat) : Reach → State × Bytes
  | .here die pa dsc => mainRead s vi die pa 64 dsc
  | _ => (s, (List.range 64).map fun i => Config.peerByte s.steps (64 * l + i))

/-- The line that was reached is marked in HBM; a discarded page's is not read (R202, R238). -/
def State.reachMark (s : State) : Reach → Bool
  | .here die pa dsc => !dsc && (s.die die).marked.any fun m => m.1 == .main die (pa / 64)
  | _ => false

/-- Source lines of a copy with their bytes, or the state in which the move stopped. -/
def sourceLines (s : State) (ci : Nat) (ls : List Nat) : State × Option (List (Nat × Bytes)) :=
  let c := s.copy ci
  match c.t.sspace with
  | .main => match reachAll s ci ls with
    | (s, .error (va, r)) => (notReached s ci va r, none)
    | (s, .ok rs) => match rs.find? fun x => s.reachMark x.2 with
      | some x => (failCopy s ci .memerr (64 * x.1), none)
      | none =>
      let r := rs.foldl (fun (acc : State × List (Nat × Bytes)) x =>
        let y := readLine acc.1 c.vi x.1 x.2
        (y.1, acc.2 ++ [(x.1, y.2)])) (s, [])
      (r.1, some r.2)
  | sp =>
    let h := c.home sp
    match ls.find? fun l => (s.mark h (64 * l)).isSome with
    | some l => (failCopy s ci .memerr (64 * l), none)
    | none => (s, some (ls.map fun l => (l, s.homeReadN h (64 * l) 64)))

/-- The byte of a piece, from the lines read. -/
def pieceByte (ls : List (Nat × Bytes)) : Piece → Option Byte
  | .keep => none
  | .zero => some 0
  | .from_ a => some (((ls.lookup (a / 64)).getD []).getD (a % 64) 0)
  | .val b => some b

/-- The bytes that a move writes in a line, by address: one run for a whole line. -/
def lineWrites (line : Nat) (bs : List (Option Byte)) : List LaneAcc :=
  if bs.all Option.isSome then [{ lane := 0, addr := 64 * line, data := bs.map fun b => b.getD 0 }]
  else (bs.mapIdx fun i b => (b.map fun b => ({ lane := 0, addr := 64 * line + i, data := [b] } : LaneAcc)).toList).flatten

/-! ### What each mode makes of a line -/

/-- The space of addresses in which an element's bytes are matched: they wrap in MAIN only. -/
def spanOf : TSpace → Nat
  | .main => 2 ^ 57
  | _ => 2 ^ 64

/-- The piece that elements (source and destination address) make of a destination byte: the last one wins (R190). -/
def elemPiece (t : Template) (es : List (Int × Int)) (a : Nat) : Piece :=
  let off (e : Int × Int) : Nat := (((a : Int) - e.2) % (spanOf t.dspace : Int)).toNat
  match es.reverse.find? fun e => off e < t.esize with
  | none => .keep
  | some e => .from_ ((e.1 + off e) % (spanOf t.sspace : Int)).toNat

/-- Elements of one row, from a source row's address to a destination row's. -/
def rowElems (t : Template) (src dst : Int) : List (Int × Int) :=
  (List.range (t.countOf 0)).map fun (i : Nat) => (src + i * t.sstr 0, dst + i * t.dstr 0)

/-- Index `r` of the list at AUX0 (R193, R194). -/
def State.rowIndex (s : State) (c : Copy) (r : Nat) : Nat := s.listNum c.blk c.vi c.die c.t.aspace (c.t.auxOf 0 + 4 * r) 4

/-- A piece of a GATHER copy (R193): the last row that covers the byte decides. -/
def State.gatherPiece (s : State) (c : Copy) (j a : Nat) : Piece :=
  let t := c.t
  let row (r : Nat) : Piece :=
    let x := s.rowIndex c r
    match elemPiece t (rowElems t (t.src + x * t.sstr 1) (t.dst + r * t.dstr 1 + t.shift j)) a with
    | .keep => .keep
    | p => if x < t.auxOf 1 then p else .zero
  ((List.range (t.countOf 1)).reverse.map row).find? (· != .keep) |>.getD .keep

/-- Rows of a GATHER copy with an index out of range that write in a line. -/
def State.zeroRows (s : State) (c : Copy) (j line : Nat) : List Nat :=
  (List.range (c.t.countOf 1)).filter fun r => c.t.auxOf 1 ≤ s.rowIndex c r &&
    (rowElems c.t 0 (c.t.dst + r * c.t.dstr 1 + c.t.shift j)).any fun e =>
      (linesOf (Template.wrapTo c.t.dspace e.2) c.t.esize).contains line

/-- A sample written (R198): s / (2^d - 1) in FP16 or BF16, or (s >> (d - 8)) - 128. -/
def sampleBytes (fmt depth x : Nat) : Bytes :=
  if fmt = 2 then [BitVec.ofInt 8 (((x / 2 ^ (depth - 8) : Nat) : Int) - 128)]
  else
    let f : FFmt := if fmt = 0 then .f16 else .bf16
    let den := 2 ^ depth - 1
    let m := x * 2 ^ 64 / den
    if x = 0 then natLe 2 0 else natLe 2 (roundFmt f 0 false false false m (-64) (x * 2 ^ 64 % den != 0)).1

/-- A piece of a decoded frame. -/
def framePiece (t : Template) (w h depth : Nat) (samples : List (List Nat)) (j a : Nat) : Piece :=
  let plane (i : Nat) : Option Byte :=
    let p := (t.planes w h).getD i (0, 0, 0)
    (List.range p.2.1).findSome? fun (r : Nat) =>
      let off := (((a : Int) - (p.2.2 + r * t.dstr 1 + t.shift j)) % (spanOf t.dspace : Int)).toNat
      if off < p.1 * t.esize then
        some ((sampleBytes (bitsOf (t.auxOf 2) 2 2) depth ((samples.getD i []).getD (r * p.1 + off / t.esize) 0)).getD
          (off % t.esize) 0)
      else none
  match plane 2 with
  | some b => .val b
  | none => match plane 1 with
    | some b => .val b
    | none => match plane 0 with
      | some b => .val b
      | none => .keep

/-- The place of row `part / 16` of a BIN copy: source and destination row (R194). -/
def Copy.binElems (c : Copy) (part : Nat) : List (Int × Int) :=
  let p := c.placed.getD (part / 16) (0, 0)
  rowElems c.t (c.t.src + p.1 * c.t.sstr 1) (c.t.dst + p.2 * c.t.dstr 1 + c.t.shift (part % 16))

/-- The pieces of a line of a copy that is no collective. -/
def State.pieces (s : State) (c : Copy) (part line : Nat) : List Piece :=
  (List.range 64).map fun i =>
    let a := 64 * line + i
    match c.t.mode with
    | .gather => s.gatherPiece c part a
    | .bin => elemPiece c.t (c.binElems part) a
    | .decode => match c.decoded with
      | some (.frame w h d y cb cr) => framePiece c.t w h d [y, cb, cr] part a
      | _ => .keep
    | _ => elemPiece c.t (c.t.elems.map fun e => (e.1, e.2 + c.t.shift part)) a

/-! ### Collectives (R196, R197) -/

/-- The source words of a copy, read now. -/
def State.sourceWords (s : State) (c : Copy) : List Word :=
  c.t.elems.map fun e => leWord (s.homeReadN (.scratch c.vi c.die) e.1.toNat 4)

/-- The matching copy of a collective on another die of this module (R196). -/
def State.peerCopy (s : State) (c : Copy) (die : Nat) : Option Nat :=
  (List.range s.copies.length).find? fun i =>
    let d := s.copy i
    d.die == die && d.tix == c.tix && d.nth == c.nth && d.t.collective

/-- The source words of ring position `q`, where they can be had. -/
def State.ringWords (s : State) (c : Copy) (q : Nat) : Option (List Word) :=
  let e := c.ring.getD q 0
  match c.supplied.lookup q with
  | some ws => some ws
  | none =>
    if e = s.locnOf c.die then some (s.sourceWords c)
    else if e / 2 = s.moduleNo then (s.peerCopy c (e % 2)).map fun i => s.sourceWords (s.copy i)
    else none

/-- One addition of a REDUCE-SCATTER: binary32 to nearest even with subnormals kept, or a wrapping integer sum. -/
def reduceAdd (int : Bool) (x y : Word) : Word :=
  if int then x + y
  else BitVec.ofNat 32 (sumRound .f32 0 false [fval .f32 false x.toNat, fval .f32 false y.toNat]).1

/-- Element `k` of the chunk of position `p`: the peers' words added in ring order (R197). -/
def reduceElem (int : Bool) (xs : List (List Word)) (p c k : Nat) : Word :=
  let n := xs.length
  let x (q : Nat) : Word := (xs.getD (q % n) []).getD (p * c + k) 0
  (List.range (n - 1)).foldl (fun acc m => reduceAdd int acc (x (p + 2 + m))) (x (p + 1))

/-- The pieces of a REDUCE-SCATTER line, once every peer's words can be had. -/
def State.reducePieces (s : State) (c : Copy) (line : Nat) : Option (List Piece) :=
  let xs := (List.range c.ring.length).map fun q => s.ringWords c q
  if xs.any Option.isNone then none
  else
    let ws := xs.map fun x => x.getD []
    let n := c.t.elements / Nat.max 1 c.t.peersNo
    let p := c.ring.idxOf (s.locnOf c.die)
    some ((List.range 64).map fun i =>
      let a := 64 * line + i
      if c.t.dst ≤ a && a < c.t.dst + 4 * n then
        let o := a - c.t.dst
        .val ((wordLe (reduceElem (bitsOf (c.t.auxOf 1) 16 1 == 1) ws p n (o / 4))).getD (o % 4) 0)
      else .keep)

/-- The pieces of a line of an ALL-GATHER copy's own elements. -/
def State.sharePieces (s : State) (c : Copy) (line : Nat) : List Piece :=
  let n := c.t.elements
  let base := c.t.dst + 4 * n * c.ring.idxOf (s.locnOf c.die)
  let es := c.t.elems
  (List.range 64).map fun i =>
    let a := 64 * line + i
    if base ≤ a && a < base + 4 * n then
      .from_ (((es.getD ((a - base) / 4) (0, 0)).1 + ((a - base) % 4 : Nat)) % (2 ^ 64 : Nat)).toNat
    else .keep

/-- Bytes of position `q`'s elements have arrived at an ALL-GATHER copy. -/
def receive (s : State) (ci q n : Nat) : State :=
  s.modCopy ci fun c => { c with placed := setNat c.placed q ((lookupNat c.placed q).getD 0 + n) }

/-- A destination line of a copy has been appended (R147). -/
def wroteLine (s : State) (ci line : Nat) : State := s.modCopy ci fun c => { c with wrote := insertNat line c.wrote }

/-- Every participant's elements have arrived (R197). -/
def Copy.gathered (c : Copy) : Bool :=
  c.t.mode != .agather || (List.range c.ring.length).all fun q => (lookupNat c.placed q).getD 0 == 4 * c.t.elements

/-! ### One line of one copy -/

/-- The persist mode of a scratchpad line now (R145): what no wave writes takes it as it is appended. DEDUCED, log 45. -/
def State.cutAt (s : State) (h : Home) (line : Nat) : Bool :=
  match h with
  | .scratch vi die => s.inCut vi die (64 * line)
  | _ => false

/-- A line of a copy of a block appended at a home, with its presence bit set (S7); `die` is the die of the channel that
writes it. -/
def appendLine (s : State) (h : Home) (blk : Nat) (die : Option Nat) (line : Nat) (ws : List LaneAcc) : State :=
  (s.append h { blk := some blk, die := die } (s.cutAt h) ws).setPresent h (64 * line) true

/-- A write of a copy enters the MODULE buffer, towards another die (R152). -/
def sendLine (s : State) (ci : Nat) (sp : TSpace) (die : Nat) (ws : List LaneAcc) : State :=
  let c := s.copy ci
  let n := s.steps
  let a : Acc := { op := c.op, wave := c.wave, kind := .engine, space := .scratch, width := 64, lanes := ws, st := .module_
                   entered := n, copy := ci, dest := sp, die := die }
  { s with accs := s.accs ++ [a] }

/-- The item is done: it leaves the list. -/
def itemDone (s : State) (ci : Nat) (x : Nat × Nat) : State :=
  s.modCopy ci fun c => { c with todo := c.todo.erase x, peerWait := false }

/-- Bytes that a list of writes holds. -/
def writtenBytes (ws : List LaneAcc) : Nat := (ws.map fun l => l.data.length).sum

/-- Rows of GATHER whose index is out of range are counted once in the note word (R193). -/
def noteRows (s : State) (ci : Nat) (rows : List Nat) : State :=
  s.modCopy ci fun c =>
    let new := rows.filter fun r => !c.zeroed.contains (2 * r)
    { c with zeroed := c.zeroed ++ new.map (2 * ·), note := c.note + new.length }

/-- A delivery to a slice that has ended is skipped, and counted once in the note word (R191). -/
def skipSlice (s : State) (ci j : Nat) : State :=
  s.modCopy ci fun c => if c.zeroed.contains (2 * j + 1) then c
    else { c with zeroed := c.zeroed ++ [2 * j + 1], note := c.note + 1 }

/-- Every wave of a slice of the copy's block has ended. -/
def State.sliceEnded (s : State) (blk j : Nat) : Bool :=
  let ws := (s.block blk).waves.filter fun wi => (s.wave wi).slice == j
  !ws.isEmpty && ws.all fun wi => (s.wave wi).ended

/-- A line goes to main memory at its owner (R153, R279). -/
def moveToMain (s : State) (ci : Nat) (x : Nat × Nat) (ps : List Piece) : State :=
  match reach s ci (64 * x.2) .write with
  | (s, .here die pa dsc) =>
    match sourceLines s ci (pieceLines ps) with
    | (s, none) => s
    | (s, some ls) =>
      let c := s.copy ci
      let s := if dsc then revive s die c.asid (64 * x.2) else s
      let bs := ps.map (pieceByte ls)
      let ws := (lineWrites 0 bs).map fun l => { l with addr := pa + l.addr }
      if die = c.die then itemDone (ws.foldl (fun s l => s.hbmWrite die l.addr l.data) s) ci x
      else itemDone (sendLine s ci .main die ws) ci x
  | (s, .away _) => match sourceLines s ci (pieceLines ps) with
    | (s, none) => s
    | (s, some _) => itemDone s ci x
  | (s, r) => notReached s ci (64 * x.2) r

/-- A line goes to a local home. -/
def moveToHome (s : State) (ci : Nat) (x : Nat × Nat) (ps : List Piece) : State :=
  match sourceLines s ci (pieceLines ps) with
  | (s, none) => s
  | (s, some ls) =>
    let c := s.copy ci
    itemDone (wroteLine (appendLine s (c.home c.t.dspace) c.blk (some c.die) x.2 (lineWrites x.2 (ps.map (pieceByte ls)))) ci x.2) ci x

/-- A delivery to a slice without its image is held (R191). -/
def holdDelivery (s : State) (ci : Nat) (x : Nat × Nat) (ps : List Piece) : State :=
  match sourceLines s ci (pieceLines ps) with
  | (s, none) => s
  | (s, some ls) =>
    itemDone (s.modCopy ci fun c =>
      { c with held := c.held ++ [(x.1 % 16, x.2, lineWrites x.2 (ps.map (pieceByte ls)))] }) ci x

/-- The held deliveries of a copy to slice `j` are appended after its image, with no lock and no presence step, and their
watermarks are FRESH (R191, R258). -/
def deliverHeld (s : State) (j ci : Nat) : State :=
  let c := s.copy ci
  let s := (c.held.filter fun x => x.1 == j).foldl (fun s x =>
    (s.append (.shared c.blk) { blk := some c.blk, die := some c.die } (fun _ => false) x.2.2).setWatermark
      ⟨some c.blk, (s.block c.blk).die, x.2.1, 64 * x.2.1⟩ {}) s
  s.modCopy ci fun c => { c with held := c.held.filter fun x => x.1 != j }

/-- The image of a slice is installed, with all its presence bits set and its watermarks FRESH; held deliveries follow
(R82, R191, R263). -/
def installSlice (s : State) (bi j : Nat) : State :=
  let s := s.modBlock bi fun b =>
    { b with late := b.late.filter (· != j), absent := b.absent.filter fun l => l / 8192 != j
             wm := b.wm.filter fun x => x.1 / 8192 != j }
  ((List.range s.copies.length).filter fun ci => (s.copy ci).blk == bi).foldl (fun s ci => deliverHeld s j ci) s

/-- A line of own elements of an ALL-GATHER goes to participant `q` (R197). -/
def moveShare (s : State) (ci : Nat) (x : Nat × Nat) : State :=
  let c := s.copy ci
  let e := c.ring.getD x.1 0
  let p := c.ring.idxOf (s.locnOf c.die)
  let ps := s.sharePieces c x.2
  let hold := s.modCopy ci fun c => { c with peerWait := true }
  let bytes (ls : List (Nat × Bytes)) : List LaneAcc := lineWrites x.2 (ps.map (pieceByte ls))
  let send (f : State → List LaneAcc → State) : State := match sourceLines s ci (pieceLines ps) with
    | (s, none) => s
    | (s, some ls) => itemDone (f s (bytes ls)) ci x
  if e = s.locnOf c.die then
    send fun s ws => receive (wroteLine (appendLine s (.scratch c.vi c.die) c.blk (some c.die) x.2 ws) ci x.2) ci p (writtenBytes ws)
  else if e / 2 = s.moduleNo then
    match s.peerCopy c (e % 2) with
    | none => hold
    | some _ => send fun s ws => sendLine s ci .scratch (e % 2) ws
  else if !s.routed c.vi (e / 2) then failCopy s ci .peerdown (64 * x.2)
  else if s.peers.any fun y => y.1 == e && y.2.1 == c.tix && c.nth < y.2.2 then send fun s _ => s
  else hold

/-- One line of a copy moves (S7). -/
def moveItem (s : State) (ci : Nat) (x : Nat × Nat) : State :=
  let c := s.copy ci
  match c.t.mode with
  | .agather => moveShare s ci x
  | .rscatter =>
    match c.t.elems.find? fun e => (s.mark (.scratch c.vi c.die) e.1.toNat).isSome with
    | some e => failCopy s ci .memerr (e.1.toNat / 64 * 64)
    | none => match s.reducePieces c x.2 with
      | none => s.modCopy ci fun c => { c with peerWait := true }
      | some ps => moveToHome s ci x ps
  | _ =>
    if c.t.mask ≠ 0 && s.sliceEnded c.blk (x.1 % 16) then itemDone (skipSlice s ci (x.1 % 16)) ci x
    else
      let rows := if c.t.mode = .gather then s.zeroRows c x.1 x.2 else []
      let ps := s.pieces c x.1 x.2
      let t := if c.t.dspace = .main then moveToMain s ci x ps
        else if s.lateLine c x.2 then holdDelivery s ci x ps else moveToHome s ci x ps
      if (t.copy ci).todo.length < c.todo.length then noteRows t ci rows else t

/-! ### The bumps of BIN (R194, R195, R199, R258) -/

/-- The line of an address is present, and locked by no other copy (R199). -/
def State.openTo (s : State) (c : Copy) (h : Home) (a : Nat) : Bool :=
  s.present h a && !(s.lockers h).any fun d =>
    !(d.rid == c.rid && d.clk == c.clk) && (d.rlocks ++ d.wlocks).any fun sp => sp.holds h a

/-- The granule of an address at a home of a copy. -/
def State.granuleAt (s : State) (c : Copy) (h : Home) (a : Nat) : Granule :=
  match h with
  | .shared b => ⟨some b, (s.block b).die, a / 64, a / 64 * 64⟩
  | _ => ⟨none, c.die, s.scratchPhys c.vi c.die (a / 64 * 64) / 64, a / 64 * 64⟩

/-- An atomic that a copy makes at a home: checked, and then appended (R199, R258). -/
def copyAtomic (s : State) (c : Copy) (h : Home) (a : Nat) (bs : Bytes) : State :=
  let gen := (s.block c.blk).gen
  let r := raceAccess s (lateMode c.race) (s.whoCopy c 0) (s.partyOf c) true true true gen [s.granuleAt c h a]
  r.1.append h { blk := some c.blk, die := some c.die } (r.1.cutAt h) [{ lane := 0, addr := a, data := bs }]

/-- Row `row` is placed at destination row `d`: its lines are to be moved. -/
def placeRow (s : State) (ci row d : Nat) : State :=
  s.modCopy ci fun c =>
    let n := c.placed.length
    { c with placed := c.placed ++ [(row, d)]
             todo := c.todo ++ c.t.parts.flatMap fun j => (c.t.rowLines d j).map fun l => (16 * n + j, l) }

/-- Replace entry `k` of the bumps to be made. -/
def setBump (s : State) (ci k : Nat) (new : List Nat) : State :=
  s.modCopy ci fun c => { c with bumps := c.bumps.take k ++ new ++ c.bumps.drop (k + 1) }

def addNote (s : State) (ci : Nat) : State := s.modCopy ci fun c => { c with note := c.note + 1 }

/-- One bump of a BIN copy: entry `k` is row * 2, or row * 2 + 1 when the overflow word comes next. -/
def bumpRow (s : State) (ci k : Nat) : State :=
  let c := s.copy ci
  let t := c.t
  let x := c.bumps.getD k 0
  let row := x / 2
  let b := s.rowIndex c row
  if x % 2 = 0 && t.nb ≤ b then addNote (setBump s ci k []) ci
  else
    let h := c.home t.aspace
    let a := t.auxOf 1 + 4 * (if x % 2 = 0 then b else t.nb)
    if !s.openTo c h a then s
    else
      let o := leNat (s.homeReadN h a 4)
      let s := copyAtomic s c h a (natLe 4 ((o + 1) % 2 ^ 32))
      if x % 2 = 0 then
        if o < t.cap then placeRow (setBump s ci k []) ci row (b * t.cap + o) else setBump s ci k [x + 1]
      else if o < t.auxOf 3 then placeRow (setBump s ci k []) ci row (t.nb * t.cap + o)
      else addNote (setBump s ci k []) ci

/-! ### DECODE (R198) -/

/-- A decode channel of the die is free, and no earlier DECODE copy of the die still waits for one. -/
def State.decoderFree (s : State) (ci : Nat) : Bool :=
  let c := s.copy ci
  let mine (d : Copy) : Bool := d.die == c.die && d.t.mode == .decode && d.st == .active
  (s.copies.filter fun d => mine d && d.decoded.isSome).length < 16 &&
    !(s.copies.take ci).any fun d => mine d && d.decoded.isNone && d.fail.isNone

/-- What the decoder makes of a unit; a frame beyond the limits violates its profile. -/
def decodeFrame (t : Template) (n : Nat) (unit_ : Bytes) : Decoded :=
  match Config.decodeUnit (bitsOf (t.auxOf 2) 0 2) unit_ n with
  | .frame w h d y cb cr =>
    let m := Config.maxFrame t.context
    if w ≤ m.1 && h ≤ m.2 && w ≤ 8192 && h ≤ 4352 && 8 ≤ d then .frame w h d y cb cr else .violation
  | x => x

/-- The coded unit is read and decoded. -/
def decodeCopy (s : State) (ci : Nat) : State :=
  let c := s.copy ci
  if !s.decoderFree ci then s
  else
    let n := c.t.countOf 0
    let addr (i : Nat) : Nat := (c.t.src + i) % 2 ^ 57
    match sourceLines s ci (pieceLines ((List.range n).map fun i => .from_ (addr i))) with
    | (s, none) => s
    | (s, some ls) =>
      let bs := (List.range n).map fun i => ((ls.lookup (addr i / 64)).getD []).getD (addr i % 64) 0
      match decodeFrame c.t s.steps bs with
      | .violation => failCopy (s.modCopy ci fun c => { c with decoded := some .violation }) ci .bitstream (c.t.src % 2 ^ 57)
      | .none => addNote (s.modCopy ci fun c => { c with decoded := some .none, peerWait := false }) ci
      | .frame w h d y cb cr =>
        s.modCopy ci fun c =>
          { c with decoded := some (.frame w h d y cb cr), peerWait := false
                   todo := c.t.parts.flatMap fun j => (c.t.frameLines w h j).map fun l => (j, l) }

/-! ### MOVE and PROPAGATE -/

/-- No earlier unfinished copy of the channel overlaps this one (S7). -/
def State.firstOfChannel (s : State) (ci : Nat) : Bool :=
  let c := s.copy ci
  !(s.copies.take ci).any fun d =>
    d.st != .done && d.die == c.die && d.core == c.core && d.chan == c.chan && copiesOverlap d c

/-- The phase that starts a HALO copy has completed (R192). -/
def State.haloOpen (s : State) (c : Copy) : Bool := c.halo.all fun h => h.2 < (s.block c.blk).phaseOf h.1

/-- A peer die of another module is lost, whose elements a collective copy still needs (R202, R314). -/
def State.peerLost (s : State) (c : Copy) : Bool :=
  c.t.collective && (List.range c.ring.length).any fun q =>
    let m := c.ring.getD q 0 / 2
    m != s.moduleNo && !s.routed c.vi m &&
      (if c.t.mode = .rscatter then (c.supplied.lookup q).isNone else (lookupNat c.placed q).getD 0 != 4 * c.t.elements)

/-- S7 of the k-th move that a copy still has to make. -/
def moveCopy (s : State) (ci k : Nat) : State :=
  let c := s.copy ci
  if c.st != .active || c.fail.isSome || !s.firstOfChannel ci || !s.haloOpen c then s
  else if s.peerLost c then failCopy s ci .peerdown (c.t.dst / 64 * 64)
  else if c.t.mode = .decode && c.decoded.isNone then decodeCopy s ci
  else if k < c.bumps.length then
    if c.t.det && k ≠ 0 then s else bumpRow s ci k
  else match c.todo[k - c.bumps.length]? with
    | some x => moveItem s ci x
    | none => s

/-- MOVE (S7). DESIGN CHOICE, log 10; DEDUCED, log 50. -/
def execMove (ci k : Nat) (s : State) : Host.Outcome State Fault Refusal := .next (moveCopy s ci k)

/-- Writes of two engine accesses meet. -/
def enginesMeet (a b : Acc) : Bool :=
  a.dest == b.dest && a.die == b.die && a.lanes.any fun x => b.lanes.any fun y =>
    x.addr < y.addr + y.data.length && y.addr < x.addr + x.data.length

/-- The copy is over, and its start is counted no more (R72, R171). -/
def copyOver (s : State) (ci : Nat) : State :=
  countDown (s.modCopy ci fun c => { c with st := .done, heldOn := [], peerWait := false }) (s.copy ci).op 1

/-- A counter after the update (R199): INC modulo 2^63, and bit 63 set on failure. -/
def counterAfter (x inc : Nat) (failed : Bool) : Nat :=
  (x % 2 ^ 63 + inc) % 2 ^ 63 + (if failed || 2 ^ 63 ≤ x then 2 ^ 63 else 0)

/-- The note word after the update. -/
def noteAfter (x note : Nat) : Nat := (x + note) % 2 ^ 32

/-- The updates at a main-memory counter, at its physical address (R199). DEDUCED, log 50. -/
def countHere (s : State) (die pa inc note : Nat) (failed : Bool) : State :=
  let m := (s.die die).hbm
  let x := leNat (m.readN pa 8)
  let y := leNat (m.readN (pa + 8) 4)
  let s := if note = 0 then s else s.hbmWrite die (pa + 8) (natLe 4 (noteAfter y note))
  s.hbmWrite die pa (natLe 8 (counterAfter x inc failed))

/-- The updates at a main-memory counter of this module (R199, R279). -/
def countMain (s : State) (asid die va pa : Nat) (dsc : Bool) (inc note : Nat) (failed : Bool) : State :=
  countHere (mainWrite s die asid va pa dsc []) die pa inc note failed

/-- A counter update enters the MODULE buffer, towards the other die (R152). -/
def sendCount (s : State) (ci die pa : Nat) : State :=
  let c := s.copy ci
  let a : Acc :=
    { op := c.op, wave := c.wave, kind := .engine, space := .scratch, width := 64
      lanes := [{ lane := 0, addr := pa, data := List.replicate 16 0 }], st := .module_, entered := s.steps, copy := ci
      dest := .main, die := die, bump := some (c.t.inc, c.note, c.fail.isSome) }
  { s with accs := s.accs ++ [a] }

/-- A copy's write in the MODULE buffer is appended at its home on the other die (S3, R197). -/
def deliverEngine (s : State) (ai : Nat) : State :=
  let a := s.acc ai
  let c := s.copy a.copy
  let s := s.modAcc ai fun a => { a with st := .done }
  match a.dest with
  | .main => match a.bump with
    | some (inc, note, failed) => copyOver (countHere s a.die ((a.lanes.head?.map (·.addr)).getD 0) inc note failed) a.copy
    | none => a.lanes.foldl (fun s l => s.hbmWrite a.die l.addr l.data) s
  | _ =>
    let line := ((a.lanes.head?.map (·.addr)).getD 0) / 64
    match s.peerCopy c a.die with
    | none => s
    | some di =>
      let q := c.ring.idxOf (s.locnOf c.die)
      receive (wroteLine (appendLine s (.scratch (s.copy di).vi a.die) c.blk (some c.die) line a.lanes) di line) di q
        (writtenBytes a.lanes)

/-- PROPAGATE (S3): an older write to overlapping bytes goes first. -/
def execPropagate (ai : Nat) (s : State) : Host.Outcome State Fault Refusal :=
  .next (
    let a := s.acc ai
    if a.kind == .engine && a.st == .module_ then
      if (s.accs.take ai).any fun b => b.kind == .engine && b.st == .module_ && enginesMeet b a then s
      else deliverEngine s ai
    else if a.st == .block then
      let blk := (s.wave a.wave).blk
      if s.accs.any fun b => b.st == .block && (s.wave b.wave).blk == blk && b.entered < a.entered && b.overlaps a then s
      else appendStore s ai
    else s)

end Sys2Proof.Machine
end

