-- ==== Sys2Proof/Machine/Complete.lean ====
section
/-!
DEFINITION. S8: a copy's locks are released, its counter is updated, and its QX count falls
(R147, R148, R153, R197, R199 to R202, R251, R258).
-/

namespace Sys2Proof.Machine

/-- Writes of a copy that are still in the MODULE buffer. -/
def State.inTransit (s : State) (ci : Nat) : Bool :=
  s.accs.any fun a => a.kind == .engine && a.copy == ci && a.st == .module_

/-- Every destination line is appended, or the copy has failed (S8). -/
def State.mayComplete (s : State) (ci : Nat) : Bool :=
  let c := s.copy ci
  c.st == .active && (c.fail.isSome ||
    (c.todo.isEmpty && c.bumps.isEmpty && (c.t.mode != .decode || c.decoded.isSome) && s.haloOpen c &&
      !s.inTransit ci && c.held.isEmpty && c.gathered))

/-- Destination lines of a copy that are present from its end on (R147): after a failure every one not yet written; of a
copy that did not fail, those that no other copy has locked. DEDUCED, log 49. -/
def finishLines (s : State) (c : Copy) : State :=
  let set (h : Home) : State := (c.t.destLines.map (·.2)).foldl (fun s l =>
    if s.writeLocked h (64 * l) && (c.fail.isNone || c.wrote.contains l) then s
    else s.setPresent h (64 * l) true) s
  match c.t.dspace with
  | .main => s
  | sp => set (c.home sp)

/-- A REDUCE-SCATTER copy leaves its source words to the matching copies that still need them (R196, R197).
DEDUCED, log 51. -/
def supplyPeers (s : State) (c : Copy) : State :=
  if c.t.mode != .rscatter then s
  else
    let q := c.ring.idxOf (s.locnOf c.die)
    let ws := s.sourceWords c
    let give (d : Copy) : Copy :=
      if d.die != c.die && d.tix == c.tix && d.nth == c.nth && d.t.mode == .rscatter && d.st == .active then
        { d with supplied := setNat d.supplied q ws }
      else d
    { s with copies := s.copies.map give }

/-- The locks are released, and the updates are due (R199, R202). -/
def beginComplete (s : State) (ci : Nat) : State :=
  let s := supplyPeers s (s.copy ci)
  let s := s.modCopy ci fun c =>
    { c with st := .counting, rlocks := [], wlocks := [], todo := [], bumps := [], heldOn := [], peerWait := false }
  finishLines s (s.copy ci)

/-- The updates at a local home: the note count, if nonzero, and then the counter, an atomic that merges the record it
finds and carries the copy's own (R199, R247, R251, R258). DEDUCED, log 84. -/
def countAt (s : State) (ci : Nat) (h : Home) (a : Nat) : State :=
  let c := s.copy ci
  let lost := s.recLost (s.granuleAt c h a)
  let s := if c.note = 0 then s
    else copyAtomic s c h (a + 8) (natLe 4 (noteAfter (leNat (s.homeReadN h (a + 8) 4)) c.note))
  let s := copyAtomic s c h a (natLe 8 (counterAfter (leNat (s.homeReadN h a 8)) c.t.inc c.fail.isSome))
  let own := (s.block c.blk).handle
  let g := s.granuleAt c h a
  let k : Knows := ⟨c.know, c.pg, c.lossy || lost⟩
  let k := match s.syncRec g with
    | some r => mergeRec own k r
    | none => k
  copyOver (s.setSyncRec g (makeRec c.rid c.clk own k)) ci

/-- A counter that cannot be reached: the copy completes as failed, the counter unchanged (R202). -/
def counterLost (s : State) (ci : Nat) (code : CopyFail) (addr : Nat) : State :=
  let s := (s.modCopy ci fun c => { c with fail := some (c.fail.getD (code, addr)) }).post (.copyFail ci code addr)
  copyOver s ci

/-- The note and counter updates, made or still waiting (R199, R201, R202). -/
def updateCounter (s : State) (ci : Nat) : State :=
  let c := s.copy ci
  match c.t.cspace with
  | .main =>
    let va := c.t.cnt % 2 ^ 57
    if s.inTransit ci then s
    else match reach s ci va .write with
    | (s, .here die pa dsc) =>
      if die = c.die then copyOver (countMain s c.asid die va pa dsc c.t.inc c.note c.fail.isSome) ci
      else sendCount (mainWrite s die c.asid va pa dsc []) ci die pa
    | (s, .away _) => copyOver s ci
    | (s, .fail code) => counterLost s ci code va
    | (s, _) => s
  | sp => if s.openTo c (c.home sp) c.t.cnt then countAt s ci (c.home sp) c.t.cnt else s

/-- S8 of a copy: updates that must wait are made when the step comes again. -/
def completeCopy (s : State) (ci : Nat) : State :=
  if (s.copy ci).st == .counting then updateCounter s ci
  else if s.mayComplete ci then updateCounter (beginComplete s ci) ci
  else s

/-! ### Service of a posted fault (R201, R202, R280) -/

/-- Host memory of a page, where it was evicted to (R280). -/
def State.hostPage (s : State) (asid page : Nat) : Option Nat :=
  (s.evicted.find? fun x => x.1 == asid && x.2.1 == page).map (·.2.2)

/-- Chanter maps the page of a fault: the frame's bytes, the rest of them zero, and then the leaf (R201). -/
def mapPage (s : State) (die leaf size : Nat) (entry : BitVec 64) (bs : Bytes) : State :=
  let frame := bitsOf entry.toNat 12 27 * 4096
  s.modDie die fun d =>
    { d with hbm := ((d.hbm.clear frame (frame + size)).writeN frame (bs.take size)).writeN leaf (natLe 8 entry.toNat) }

/-- A copy that was held on a fault goes on. -/
def releaseHeld (s : State) (f : XFault) : State :=
  f.copies.foldl (fun s x => s.modCopy x.1 fun c => { c with heldOn := c.heldOn.filter (· != x.2) }) s

/-- A copy's fault that Chanter cannot service (R202): a move fails the copy; on the counter address itself, the
counter stays as it is. -/
def unserviced (s : State) (x : Nat × Nat) : State :=
  let c := s.copy x.1
  if c.st == .counting then
    if c.t.cspace == .main && x.2 == c.t.cnt % 2 ^ 57 then counterLost s x.1 .unmapped x.2 else s
  else if c.st == .active then failCopy s x.1 .unmapped x.2
  else s

/-- FAULT_SERVICE: Chanter services a posted fault, with a leaf and the frame's bytes, or cannot (R201, R202, R278).
A page in host memory is migrated in with the bytes it was evicted with (R280), a discarded page that was reclaimed as a
zeroed frame (R279). DEDUCED, log 53. -/
def execFaultService (die k : Nat) (answer : Option (BitVec 64 × Bytes)) (s : State) : Host.Outcome State Fault Refusal :=
  .next (match (s.die die).faults[k]? with
    | none => s
    | some f =>
      let served (s : State) : State := releaseHeld (s.modDie die fun d => { d with faults := d.faults.eraseIdx k }) f
      match answer with
      | none => f.copies.foldl unserviced (served s)
      | some (entry, bs) => match s.leafOf die f.asid f.va with
        | none => s
        | some leaf =>
          let size := 2 ^ (match s.regionOf die f.asid f.va with | some e => pageBits e | none => 12)
          let old := leNat ((s.die die).hbm.readN leaf 8)
          let gone := bitsOf old 2 1 == 1
          let page := match s.hostPage f.asid f.va with
            | some h => s.hostMem.readN h size
            | none => bs
          let s := mapPage (served s) die leaf size entry (if gone then [] else page)
          { s with evicted := s.evicted.filter fun x => !(x.1 == f.asid && x.2.1 == f.va) })

end Sys2Proof.Machine
end

