-- ==== Sys2Proof/Machine/Debug.lean ====
section
/-!
DEFINITION. Halting, resuming, comparators, stepping, the debugger's register writes, and the trace unit's own
packets (R24, R233, R237, R244, R295 to R305).
-/

namespace Sys2Proof.Machine

/-! ### Halt and resume -/

/-- HALT: a debugger stop or a Chanter halt of a resident wave (R24). -/
def execHalt (wi : Nat) (s : State) : Host.Outcome State Fault Refusal :=
  .next (if (s.wave wi).resident && !(s.wave wi).halted then
      (s.modWave wi fun w => { w with halted := true, issued := false, haltDue := false }).post (.halted wi)
    else s)

/-- The trap class of a side-buffer entry. -/
def classOf (c : Nat) : TrapClass :=
  [.ill, .xlt, .arith, .shape, .queue, .mem, .range, .race, .sync, .copy, .soft, .debug].getD c .ill

/-- The trap that waits for a wave is entered (R234, R269). -/
def dueTrap (s : State) (wi : Nat) : State := enterTrap s wi (classOf (s.wave wi).trapClass) (s.wave wi).trapCode

/-- A wave leaves HALT: a trap that waits for it is entered, a trap that halted it is resolved, by default as `tret` or
`retry` and otherwise as `skip`, and a barrier phase that has completed lets it go on (R24, R233, R234). -/
def resumeWave (s : State) (wi : Nat) (skip : Bool) : State :=
  let w := s.wave wi
  let s := traceWake (s.modWave wi fun w => { w with halted := false, stepping := false }) wi
  if w.trapDue then dueTrap s wi
  else if w.trapHalt then
    resolve s wi (if skip then .skip else if w.trapKind = 1 || w.trapKind = 2 then .retry else .tret)
  else retestBar s wi

/-- RESUME (R233, R244): a wave whose block is saved resumes at restore. -/
def execResume (wi : Nat) (skip : Bool) (s : State) : Host.Outcome State Fault Refusal :=
  let w := s.wave wi
  .next (if !w.halted || w.ended then s
    else if w.saved then s.modWave wi fun w => { w with resumeDue := some skip }
    else resumeWave s wi skip)

/-! ### Comparators (R295, R296) -/

/-- PC comparators that match the next instruction of a wave. -/
def State.pcMatches (s : State) (wi : Nat) : List Nat :=
  let w := s.wave wi
  let cs := (s.core w.part.die w.part.core).cmps
  (List.range cs.length).filter fun i =>
    let c := cs.getD i {}
    !w.cmpSkip.contains (w.pc, i) && cmpArmed c (s.waveLaunch wi).number && cmpKind c == 0 && cmpHits c w.pc.toNat 4

/-- A wave that could be a candidate of its partition (R30): resident, running, neither halted nor exited. -/
def Wave.running (w : Wave) : Bool := w.resident && !w.halted && !w.exited && w.stop == .run

/-- A wave whose next instruction a PC comparator matches halts in place of being a candidate (R296).
DEDUCED, log 29. -/
def pcStop (s : State) (wi : Nat) : State :=
  if !(s.wave wi).running || (s.pcMatches wi).isEmpty then s
  else
    let cs := s.pcMatches wi
    (s.modWave wi fun w => { w with halted := true, issued := false, cmpSkip := cs.map (w.pc, ·) ++ w.cmpSkip }).post (.stops wi cs)

/-- PC_COMPARATOR_MATCH (R296). -/
def execPcComparatorMatch (wi : Nat) (s : State) : Host.Outcome State Fault Refusal := .next (pcStop s wi)

/-! ### Stepping (R298 to R300) -/

/-- SINGLE_STEP (R298): no focus is set during it. The wave, resumed, is to issue once. -/
def execSingleStep (wi : Nat) (s : State) : Host.Outcome State Fault Refusal :=
  let w := s.wave wi
  .next (if w.resident && w.halted && !w.exited then
      let s := (resumeWave s wi false).modWave wi fun w =>
        { w with focus := none, path := [], pathOpen := false, pathOvf := false }
      s.modWave wi fun w => { w with stepping := !w.halted }
    else s)

/-- FOCUS_STEP (R299): refused where the lane is outside PM. A new focus starts with an empty stack. -/
def execFocusStep (wi ln : Nat) (s : State) : Host.Outcome State Fault Refusal :=
  let w := s.wave wi
  .next (if !(w.resident && w.halted && !w.exited) then s
    else if !bit w.pm ln then s.post (.dbg false 4)
    else
      let keep := w.focus = some ln
      let s := (resumeWave s wi false).modWave wi fun w =>
        { w with focus := some ln, path := if keep then w.path else [], pathOpen := keep && w.pathOpen
                 pathOvf := keep && w.pathOvf }
      s.modWave wi fun w => { w with stepping := !w.halted })

/-- PENDING_PATH_STACK (R299): Rolmer reads and clears the stack. -/
def execPendingPathStack (wi : Nat) (s : State) : Host.Outcome State Fault Refusal :=
  let w := s.wave wi
  .next (if w.resident && w.focus.isSome then
      (s.post (.path wi w.path w.pathOvf)).modWave wi fun w => { w with path := [], pathOpen := false, pathOvf := false }
    else s)

/-- Push or extend a run of the pending-path stack: a push onto 16 entries drops the oldest (R299). -/
def Wave.pushPath (w : Wave) (pc act : Word) : Wave :=
  match w.pathOpen, w.path.getLast? with
  | true, some r => { w with path := w.path.dropLast ++ [{ r with last := pc, count := r.count + 1 }] }
  | _, _ =>
    let p := w.path ++ [⟨pc, pc, act, 1⟩]
    if 16 < p.length then { w with path := p.drop 1, pathOvf := true, pathOpen := true }
    else { w with path := p, pathOpen := true }

/-- Instructions that act under their guard (R68, R101, R169). -/
def guardedOp (op : Nat) : Bool :=
  (0x10 ≤ op && op ≤ 0x33) || (0x59 ≤ op && op ≤ 0x5B) || op == 0x60 || (0x64 ≤ op && op ≤ 0x68) || op == 0x6A ||
    op == 0x6B || (0x70 ≤ op && op ≤ 0x73) || (0x80 ≤ op && op ≤ 0x86) || (0x90 ≤ op && op ≤ 0xA3) ||
    (0xA6 ≤ op && op ≤ 0xAF) || op == 0xB7 || op == 0xB9

/-- A wave that was stepped has issued an instruction: `before` is the wave as it was, `op` the opcode (R298, R299). -/
def afterStep (s : State) (wi : Nat) (before : Wave) (op : Nat) : State :=
  let halt (w : Wave) : Wave := { w with stepping := false, halted := true, issued := false }
  if !(s.wave wi).stepping then s
  else match (s.wave wi).focus with
    | none => if (s.wave wi).stop = .run then s.modWave wi halt else s
    | some l =>
      let act := if guardedOp op then before.active else before.pm
      if bit act l then s.modWave wi fun w => halt { w with pathOpen := false }
      else s.modWave wi fun w => w.pushPath before.pc act

/-- BARRIER_PHASE_STEP (R300). -/
def execBarrierPhaseStep (blk : Nat) (s : State) : Host.Outcome State Fault Refusal :=
  .next (if (s.block blk).st = .placed then
      let s := s.modBlock blk fun b => { b with phaseStep := true }
      (s.living blk).foldl (fun s wi =>
        if (s.wave wi).halted && (s.wave wi).resident then resumeWave s wi false else s) s
    else s)

/-- What a block's halts bring about: a barrier-phase step ends, with no phase reported, at any other stop of a wave
(R300), and a block that drains or is to be flushed is saved instead (R240, R244). -/
def blockHalts (s : State) (bi : Nat) : State :=
  let b := s.block bi
  if (s.living bi).any fun wi => (s.wave wi).halted then
    let s := if b.phaseStep then stepEnds s bi none else s
    match b.preempt with
    | some .save => s
    | some _ => if b.st == .placed then s.modBlock bi fun b => { b with preempt := some .save } else s
    | none => s
  else s

/-- What every turn ends with, block by block: the deadlock check of R180, and what halts bring about. -/
def blockStops (s : State) : State :=
  (List.range s.blocks.length).foldl (fun s bi => blockHalts (barDeadlock s bi) bi) s

/-! ### Register writes (R301) -/

/-- A written register that 32 lane values make V. -/
def fullReg : Reg → Reg
  | .v l => Reg.ofFn fun i => l.getD i 0
  | r => r

/-- The outstanding operation that is to write a register is voided: its result is discarded (R301). -/
def voidOp (s : State) (wi : Nat) (r : BitVec 7) : State :=
  let w := s.wave wi
  match (w.holds ++ w.holdsOut).findSome? fun h => match h with
      | .launch x _ n => if x = r then some n else none
      | _ => none with
  | some n => s.modOp n fun o => { o with voided := true }
  | none =>
    match (List.range s.ops.length).reverse.find? fun oi => (s.op oi).wave == wi && (s.op oi).dst.contains r with
    | none => s
    | some oi =>
      let void (t : Tile) : Tile := if t.op == oi then { t with voided := true } else t
      ({ s with tiles := s.tiles.map void }).modOp oi fun o =>
        { o with voided := true, dst := o.dst.filter (· != r) }

/-- A debugger write to a wave in HALT. `force` voids the outstanding operation of a pending register.
DEDUCED, log 30. -/
def debugWrite (s : State) (wi : Nat) (d : DbgWrite) (force : Bool) : State :=
  let w := s.wave wi
  if !(w.resident && w.halted) then s.post (.dbg false 1)
  else match d with
    | .mask k v => (s.modWave wi fun w => { w with k := w.k.set k.toNat v }).post (.dbg true 0)
    | .mode m =>
      if modeType m = 7 then s.post (.dbg false 5)
      else (s.modWave wi fun w => { w with mode := m &&& 0x0FFF }).post (.dbg true 0)
    | .reg r v =>
      if w.pend.contains r && !force then s.post (.dbg false 2)
      else if v.isV && !w.hasSlot r && w.qw < w.liveV + 1 then s.post (.dbg false 3)
      else
        let s := if w.pend.contains r then voidOp s wi r else s
        (s.modWave wi fun w => { (w.put r (fullReg v)) with pend := w.pend.filter (· != r) }).post (.dbg true 0)

/-- PLAIN_WRITE (R301): refused with BUSY while the register is pending. -/
def execPlainWrite (wi : Nat) (d : DbgWrite) (s : State) : Host.Outcome State Fault Refusal := .next (debugWrite s wi d false)

/-- FORCED_WRITE (R301). -/
def execForcedWrite (wi : Nat) (d : DbgWrite) (s : State) : Host.Outcome State Fault Refusal := .next (debugWrite s wi d true)

/-! ### The trace unit (R305) -/

/-- TRACE_SYNC_INTERVAL: 512 packets or 8,192 clocks after the last SYNC (R305). -/
def execTraceSyncInterval (wi : Nat) (s : State) : Host.Outcome State Fault Refusal :=
  let w := s.wave wi
  .next (if w.resident && w.trace.on && !w.trace.needSync &&
      (512 ≤ w.trace.packets || w.trace.clkSync + 8192 ≤ s.waveClk wi) then traceDue s wi
    else s)

/-- TRACE_LOSS: with 45 bytes free, LOSS with the count and then SYNC (R305). -/
def execTraceLoss (wi : Nat) (s : State) : Host.Outcome State Fault Refusal :=
  .next (if (s.wave wi).resident && (s.wave wi).trace.on && s.lossDue wi then putLoss s wi else s)

end Sys2Proof.Machine
end

