-- ==== Sys2Proof/Machine/Felt.lean ====
section
/-!
DEFINITION. The Felt layer: slots and their CRC, shadow writes, draining, checkpoints, and the values recovered after
an abrupt loss (R153, R156, R182, R264 to R271).
-/

namespace Sys2Proof.Machine

/-! ### Slots (R265) -/

/-- Bytes 0x00 to 0x4B of a slot. -/
def slotBytes (data : Bytes) (seq gen kind : Nat) (owner : Option Nat) : Bytes :=
  (List.range 64).map (fun i => data.getD i 0) ++ natLe 4 seq ++ natLe 4 (gen % 2 ^ 24 + kind * 2 ^ 24) ++
    natLe 4 (match owner with | some h => h % 2 ^ 22 + 2 ^ 31 | none => 0)

/-- A slot with its CRC. -/
def makeSlot (data : Bytes) (seq gen kind : Nat) (owner : Option Nat) : FeltSlot :=
  ⟨data, seq, gen, kind, owner, crc32c (slotBytes data seq gen kind owner)⟩

/-- The slot that 80 bytes hold. -/
def parseSlot (bs : Bytes) : FeltSlot :=
  let num (o n : Nat) : Nat := leNat ((bs.drop o).take n)
  let own := num 0x48 4
  { data := bs.take 64, seq := num 0x40 4, gen := num 0x44 4 % 2 ^ 24, kind := num 0x44 4 / 2 ^ 24
    owner := if own / 2 ^ 31 = 1 then some (own % 2 ^ 22) else none, crc := num 0x4C 4 }

/-- A slot is valid when its CRC matches (R265). -/
def FeltSlot.valid (x : FeltSlot) : Bool := x.crc == crc32c (slotBytes x.data x.seq x.gen x.kind x.owner)

/-- A slot whose write was cut off, or whose storage failed: its CRC does not match. -/
def FeltSlot.broken (x : FeltSlot) : FeltSlot := { x with crc := (crc32c (slotBytes x.data x.seq x.gen x.kind x.owner) + 1) % 2 ^ 32 }

/-! ### Lines (R264 to R267) -/

/-- A line before its first shadow write: for shared memory the image and for a spill area zero, as a version with no
owner; of any other line neither slot has been written. DESIGN CHOICE, log 8. -/
def State.freshLine (s : State) (key : LineKey) : FeltLine :=
  match key with
  | .shared b l =>
    let img := (s.kernel (s.launch (s.block b).launch).kernel).image
    let o := 64 * l % 0x80000
    { key := key, a := some (makeSlot ((List.range 64).map fun i => img.getD (o + i) 0) 0 0 0 none) }
  | .spill .. => { key := key, a := some (makeSlot (List.replicate 64 0) 0 0 0 none) }
  | _ => { key := key }

def State.feltLine (s : State) (die : Nat) (key : LineKey) : FeltLine :=
  ((s.die die).felt.find? fun x => x.key == key).getD (s.freshLine key)

/-- The committed generation of the block that a handle names. -/
def State.committedOf (s : State) (handle : Nat) : Nat :=
  ((s.blocks.find? fun b => b.handle == handle && b.st != .unstarted).map (·.committed)).getD 0

/-- A version is committed (R266). -/
def FeltSlot.committed (s : State) (x : FeltSlot) : Bool :=
  match x.owner with
  | none => true
  | some h => x.kind == 0 || serialLe 24 x.gen (s.committedOf h)

/-- Slot `a` is newer than `b` in the serial order of SEQ. -/
def newerSlot (a b : FeltSlot) : Bool := serialLe 32 b.seq a.seq && a.seq != b.seq

/-- The newer of two slots that qualify. -/
def newestOf (p : FeltSlot → Bool) (a b : Option FeltSlot) : Option FeltSlot :=
  match a.filter p, b.filter p with
  | some x, some y => some (if newerSlot y x then y else x)
  | some x, none => some x
  | none, y => y

def validSlot (x : Option FeltSlot) : Bool := x.any FeltSlot.valid

/-- Whether a shadow write takes slot A (R266). -/
def FeltLine.takesA (s : State) (l : FeltLine) : Bool :=
  let ok (x : Option FeltSlot) : Bool := x.any fun x => x.valid && x.committed s
  let older : Bool := match l.a, l.b with
    | some x, some y => !newerSlot x y
    | _, _ => true
  match ok l.a, ok l.b with
  | true, false => false
  | false, true => true
  | _, _ => if !validSlot l.a then true else if !validSlot l.b then false else older

/-- A shadow write of a line, as its next version (R266); `torn` gives the slot's bytes when the write is cut off. -/
def shadowWrite (s : State) (die : Nat) (key : LineKey) (data : Bytes) (gen kind : Nat) (owner : Option Nat)
    (snap : Option Snapshot) (torn : Option FeltSlot := none) : State :=
  let l := s.feltLine die key
  let seq := match newestOf FeltSlot.valid l.a l.b with
    | some x => (x.seq + 1) % 2 ^ 32
    | none => 1
  let new := torn.getD (makeSlot data seq gen kind owner)
  let l := if l.takesA s then { l with a := some new, snapA := snap } else { l with b := some new, snapB := snap }
  s.modDie die fun d => { d with felt := l :: d.felt.filter fun x => x.key != key }

/-- The open generation of the writer's block (R266, R267). -/
def State.openGen (s : State) (w : PWrite) : Nat :=
  match w.owner, w.blk with
  | some _, some b => (s.block b).committed + 1
  | _, _ => 0

/-- S9 of the write at a place of the persist buffer, with the line's earlier writes drained (R153). -/
def drainAt (s : State) (die : Nat) (w : PWrite) (torn : Option FeltSlot := none) : State :=
  let s := shadowWrite s die w.key w.data (s.openGen w) w.kind w.owner none torn
  s.modDie die fun d => { d with persist := d.persist.filter fun x => x.seq != w.seq }

/-- The k-th write, where it is the oldest pending one of its line. -/
def State.drainable (s : State) (die k : Nat) : Option PWrite :=
  let l := (s.die die).persist
  match l[k]? with
  | some w => if (l.take k).any fun x => x.key == w.key then none else some w
  | none => none

/-- The shadow writer copies a wave of the die as it stands: its registers and state, in the open generation (R264).
DESIGN CHOICE, log 76. -/
def shadowWave (s : State) (die wi : Nat) : State :=
  let w := s.wave wi
  let b := s.block w.blk
  if wi < s.waves.length && w.resident && w.part.die = die && b.st == .placed then
    shadowWrite s die (.wave wi) [] (b.committed + 1) 2 (some b.handle) (some (.wave w))
  else s

/-- DRAIN: a slot write of the shadow writer, of a pending write (S9); past those, of a wave (R264). -/
def execDrain (die k : Nat) (s : State) : Host.Outcome State Fault Refusal :=
  .next (match s.drainable die k with
    | some w => drainAt s die w
    | none =>
      let n := (s.die die).persist.length
      if k < n then s else shadowWave s die (k - n))

/-! ### Checkpoints (R182, R268) -/

/-- Writes of a block, or of copies it started, that are still in the persist buffer. -/
def State.pendingWrites (s : State) (bi : Nat) : List PWrite :=
  (s.dies.flatMap (·.persist)).filter fun w => w.blk == some bi

/-- A block as its checkpoint record holds it: shared memory is kept by its lines. The waves that the generation holds
stand in `ckpt`. -/
def Block.record (b : Block) : Block := { b with shared := [], absent := [], wm := [], recs := [], preempt := none, migrate := none }

/-- The checkpoint of a block: wave state, then the record with C := O, then O := C + 1 (R268). A record write that is
cut off commits nothing. DESIGN CHOICE, log 76. -/
def commit (s : State) (bi : Nat) (waves : Bool) (torn : Bool) : State :=
  let b := s.block bi
  let o := b.committed + 1
  let s := if waves then
      (s.living bi).foldl (fun s wi =>
        shadowWrite s b.die (.wave wi) [] o 2 (some b.handle) (some (.wave (s.wave wi)))) s
    else s
  let new := makeSlot [] 0 o 3 (some b.handle)
  let rec_ : Block := { (s.block bi).record with committed := o, ckpt := s.living bi }
  if torn then shadowWrite s b.die (.ckpt bi) [] o 3 (some b.handle) none (some new.broken)
  else
    (shadowWrite s b.die (.ckpt bi) [] o 3 none (some (.block rec_))).modBlock bi fun b =>
      { b with committed := o }

/-- Accesses of a block's waves that are still in flight. -/
def State.blockBusy (s : State) (bi : Nat) : Bool :=
  s.accs.any fun a => a.kind != .engine && !a.isOver && (s.wave a.wave).blk == bi && (s.block bi).waves.contains a.wave

/-- The checkpoint step of a block may be taken: every wave waits at `pckpt`, and the condition of `pfence.block`
holds: the block's stores have been appended, and its writes have drained (R154, R181, R182). DEDUCED, log 83. -/
def State.mayCheckpoint (s : State) (bi : Nat) : Bool :=
  let b := s.block bi
  b.st == .placed && s.ckptAll bi && b.ckptSeq.isSome && !s.blockBusy bi && (s.pendingWrites bi).isEmpty &&
    (s.living bi).all fun wi => (s.wave wi).stop == .pckpt

/-- What a checkpoint makes of its block: the generation advances and every waiting wave may go on (R182, R252). -/
def ckptState (s : State) (bi : Nat) : State :=
  let s := (nextGen s bi).modBlock bi fun b => { b with ckpt := [], ckptSeq := none }
  let g := (s.block bi).gen
  (s.living bi).foldl (fun s wi => s.modWave wi fun w => { w with ckptDone := some g }) s

/-- CHECKPOINT (R182, R268, R300). -/
def execCheckpoint (bi : Nat) (s : State) : Host.Outcome State Fault Refusal :=
  .next (if s.mayCheckpoint bi then
      let s := commit (ckptState s bi) bi true false
      (s.block bi).waves.foldl retestBar (stepEnds s bi (some 32))
    else s)

/-! ### Recovery (R270) -/

/-- The value recovered for a line: the newest valid committed version, and whether there is none. DEDUCED, log 55. -/
def State.recovered (s : State) (die : Nat) (key : LineKey) : Bytes × Bool :=
  let l := s.feltLine die key
  match newestOf (fun x => x.valid && x.committed s) l.a l.b with
  | some x => ((List.range 64).map fun i => x.data.getD i 0, false)
  | none => (List.replicate 64 0, true)

/-- The snapshot of a wave-state or record line: of the newest committed version. DESIGN CHOICE, log 76. -/
def State.recoveredSnap (s : State) (die : Nat) (key : LineKey) : Option Snapshot :=
  let l := s.feltLine die key
  let ok (x : FeltSlot) : Bool := x.valid && x.committed s
  match newestOf ok l.a l.b with
  | none => none
  | some x => if l.a = some x then l.snapA else l.snapB

/-- The checkpoint record of a block: the valid slot with the newest SEQ (R270). -/
def State.ckptRecord (s : State) (die bi : Nat) : Option Block :=
  let l := s.feltLine die (.ckpt bi)
  match newestOf FeltSlot.valid l.a l.b with
  | none => none
  | some x => match (if l.a = some x then l.snapA else l.snapB) with
    | some (.block b) => some b
    | _ => none

end Sys2Proof.Machine
end

