-- ==== Sys2Proof/Machine/Place.lean ====
section
/-!
DEFINITION. The distributor: which block is served next, whether it fits, dealing, placing and restoring, gang
starvation, the ends of waves, blocks and launches, and launch tags (R19 to R21, R25 to R34, R44, R45, R82, R243,
R249, R250, R253, R259, R268).
-/

namespace Sys2Proof.Machine

/-! ### Records to serve (R27, R29) -/

def Launch.total (l : Launch) : Nat := l.gx * l.gy * l.gz
def Launch.waveCount (l : Launch) : Nat := (l.threads + 31) / 32
def Launch.perSlice (l : Launch) : Nat := (l.waveCount + l.slices - 1) / Nat.max 1 l.slices

/-- The block waves of slice j (R19). -/
def Launch.sliceWaves (l : Launch) (j : Nat) : List Nat :=
  (List.range l.waveCount).filter fun i => i / Nat.max 1 l.perSlice == j

/-- A launch may be served: what precedes it in its queue and what it depends on is over (R27). -/
def State.eligible (s : State) (li : Nat) : Bool :=
  let l := s.launch li
  5 ≤ s.boot && !l.isOver && (l.pred.all fun p => (s.launch p).isOver) && l.deps.all fun d => (s.launch d).isOver

def State.classOf (s : State) (li : Nat) : Nat :=
  let l := s.launch li
  ((s.vi l.vi).queues.getD l.queue ⟨0, false⟩).cls

/-- Blocks of a launch that wait to be placed anew (R241, R271). -/
def State.again (s : State) (li : Nat) : List Nat := (s.launch li).blocks.filter fun b => (s.block b).st == .unstarted

/-- The next block to place: its record if it has one, its index, and since when it is next (R28, R32). -/
def State.nextBlock (s : State) (li : Nat) : Option (Option Nat × Nat × Nat) :=
  let l := s.launch li
  if l.cut then none
  else match s.again li with
  | b :: _ => some (some b, (s.block b).lin, (s.block b).requeued.getD 0)
  | [] =>
    if l.next < l.total then
      let ends := (l.pred.toList ++ l.deps).map fun p => (s.launch p).tEnd.getD 0
      some (none, l.next, ends.foldl Nat.max (Nat.max l.tQueued (l.tLast.getD 0)))
    else none

/-! ### Fit and dealing (R28) -/

/-- A partition's free wave slots and unreserved register slots. -/
structure Bank where
  slots : List Nat
  free : Nat

def State.banks (s : State) (die core : Nat) : List Bank :=
  (List.range 16).map fun p =>
    let rs := s.residents ⟨die, core, p⟩
    ⟨((List.range 8).map fun k => 8 * p + k).filter (fun x => !rs.any fun i => (s.wave i).slot == x),
      s.poolFree ⟨die, core, p⟩⟩

/-- Deal waves with these quotas from partition `at_` on: the partition and wave slot of each. -/
def deal : List Bank → Nat → List Nat → Option (List (Nat × Nat))
  | _, _, [] => some []
  | bs, at_, q :: qs =>
    match ((List.range 16).map fun k => (at_ + k) % 16).find? fun p =>
        let b := bs.getD p ⟨[], 0⟩
        !b.slots.isEmpty && q ≤ b.free with
    | none => none
    | some p =>
      let slot := (bs.getD p ⟨[], 0⟩).slots.headD 0
      match deal (bs.modify p fun b => ⟨b.slots.drop 1, b.free - q⟩) ((p + 1) % 16) qs with
      | some r => some ((p, slot) :: r)
      | none => none

def Kernel.alloc (k : Kernel) : Nat := (k.shared + 4095) / 4096 * 4096

/-- Blocks with a slice on a core. -/
def State.coreBlocks (s : State) (die core : Nat) : List Nat :=
  (List.range s.blocks.length).filter fun b =>
    (s.block b).st == .placed && (s.block b).die == die && (s.block b).cores.contains core

/-- A core takes a slice with these quotas; `mine` is the block it would belong to, where it has a record. -/
def State.coreFits (s : State) (li : Nat) (mine : Option Nat) (die core : Nat) (quotas : List Nat) : Bool :=
  let l := s.launch li
  let c := s.core die core
  let here := s.coreBlocks die core
  let used := (here.map fun b => (s.kernel (s.launch (s.block b).launch).kernel).alloc).sum
  (s.vi l.vi).desc.cores.contains ⟨die, core⟩ && c.gate == .on && !c.tallow.getLsbD 15 &&
    used + (s.kernel l.kernel).alloc ≤ Config.sharedBytes &&
    !(here.any fun b => match (s.block b).preempt with | some (.drain _) => true | _ => false) &&
    !((List.range s.blocks.length).any fun b => some b != mine && (s.block b).die == die &&
        ((s.block b).migrate.any fun m => m.2.contains core)) &&
    (deal (s.banks die core) 0 quotas).isSome

/-- Slices fit on these cores, one each (R28). -/
def State.slicesFit (s : State) (li : Nat) (mine : Option Nat) (die : Nat) : List (List Nat) → List Nat → Bool
  | [], [] => true
  | q :: qs, c :: cs => s.coreFits li mine die c q && State.slicesFit s li mine die qs cs
  | _, _ => false

/-- Slices fit on some choice of distinct cores. -/
def State.someFit (s : State) (li : Nat) (mine : Option Nat) (die : Nat) : List (List Nat) → List Nat → Bool
  | [], _ => true
  | q :: qs, cs => cs.any fun c => s.coreFits li mine die c q && State.someFit s li mine die qs (cs.filter (· != c))

/-- A cluster that no other block reserves (R32). -/
def State.unreserved (s : State) (cl li lin : Nat) : Bool :=
  match (s.cluster cl).reserve with
  | none => true
  | some r => r == (li, lin)

def clusterCores (cluster : Nat) : List Nat := (List.range 16).map fun c => 16 * cluster + c

/-- The block fits on some cluster now. -/
def State.fitsNow (s : State) (li : Nat) (mine : Option Nat) (lin : Nat) (slices : List (List Nat)) : Bool :=
  (List.range 12).any fun cl => s.unreserved cl li lin &&
    s.someFit li mine (cl / 6) slices (clusterCores (cl % 6))

/-- Quotas of each slice of an unstarted block, and of a saved one (R28, R45). -/
def State.freshQuotas (s : State) (li : Nat) : List (List Nat) :=
  let l := s.launch li
  (List.range l.slices).map fun j => (l.sliceWaves j).map fun _ => (s.kernel l.kernel).vregs

def State.savedQuotas (s : State) (bi : Nat) : List (List Nat) :=
  let b := s.block bi
  (List.range (s.launch b.launch).slices).map fun j =>
    (b.waves.filter fun wi => (s.wave wi).slice == j && !(s.wave wi).ended).map fun wi => (s.wave wi).qw

/-- The next block of a launch may be placed and fits. -/
def State.nextFits (s : State) (li : Nat) : Bool :=
  s.eligible li && match s.nextBlock li with
    | some (mine, lin, _) => s.fitsNow li mine lin (s.freshQuotas li)
    | none => false

/-- Launches of an interface. -/
def State.launchesOf (s : State) (vi : Nat) : List Nat := (List.range s.launches.length).filter fun i => (s.launch i).vi == vi

/-- A launch of a higher class would be served instead (R27). -/
def State.outranked (s : State) (li : Nat) : Bool :=
  (s.launchesOf (s.launch li).vi).any fun x => s.classOf li < s.classOf x && s.nextFits x

/-- A saved block of the same or a higher class goes first (R29). -/
def State.savedFirst (s : State) (li : Nat) : Bool :=
  (s.launchesOf (s.launch li).vi).any fun x =>
    s.classOf li ≤ s.classOf x && (s.launch x).blocks.any fun b =>
      (s.block b).st == .saved && s.fitsNow x (some b) (s.block b).lin (s.savedQuotas b)

/-- A block queued again, of the same or a higher class, goes before one that was never placed (R241, R271). -/
def State.againFirst (s : State) (li : Nat) : Bool :=
  (s.launchesOf (s.launch li).vi).any fun x => s.classOf li ≤ s.classOf x && !(s.again x).isEmpty && s.nextFits x

/-- Steps from the round-robin position of a class to a queue. -/
def State.turnOf (s : State) (li : Nat) : Nat :=
  let l := s.launch li
  (l.queue + 64 - (s.vi l.vi).served.getD (s.classOf li) 0) % 64

/-- The next block of this launch is the one to serve (R27, R29). -/
def State.served (s : State) (li : Nat) : Bool :=
  !s.outranked li && !s.savedFirst li &&
    (!(s.again li).isEmpty || (!s.againFirst li &&
      (s.launchesOf (s.launch li).vi).all fun x =>
        x == li || s.classOf x != s.classOf li || !s.nextFits x || s.turnOf li ≤ s.turnOf x))

/-- The cluster is reserved for this block, which is placed there as soon as it fits (R32, R34). -/
def State.reserving (s : State) (cl li lin : Nat) : Bool := (s.cluster cl).reserve == some (li, lin)

/-! ### Tags (R249) -/

/-- The ANC mask that a launch forms at its first placement on a die. -/
def State.formAnc (s : State) (li die : Nat) : Word :=
  let l := s.launch li
  let base := (l.pred.toList ++ l.deps).foldl (fun (acc : Word) p =>
    match (s.launch p).tags.getD die none with
    | some (t, m) => acc ||| m ||| (1 <<< t)
    | none => acc) 0
  match l.parent with
  | some (wi, _) => base ||| s.anc (s.waveBlock wi).launch die
  | none => base

/-- The launch takes a tag of a die, the lowest free one, unless it holds one; none is free: it waits. -/
def takeTag (s : State) (li die : Nat) : Option State :=
  match (s.launch li).tags.getD die none with
  | some _ => some s
  | none =>
    match (List.range 32).find? fun t => ((s.die die).tags.getD t none).isNone with
    | none => none
    | some t =>
      let anc := s.formAnc li die
      some ((s.modLaunch li fun l => { l with tags := l.tags.set die (some (t, anc)) }).modDie die fun d =>
        { d with tags := d.tags.set t (some li) })

/-! ### New waves (R18, R21, R250, R253, R259) -/

/-- PM of a wave (R18). -/
def presence (threads idx : Nat) : Word := maskOf fun i => 32 * idx + i < threads

/-- A starting race mode (R259). -/
def startRace (v : ViDesc) (kernel launch : Nat) : RaceMode :=
  let m := if kernel ≠ 0 then (if launch ≠ 0 && launch < kernel then raceOf launch else raceOf kernel)
    else if launch ≠ 0 then raceOf launch else v.raceDef
  clampRace v m

/-- The table of a wave of a grid started by `launch`: the launching wave's table with its pair merged (R253).
DEDUCED, log 35. -/
def startKnows (own : Nat) (p : Option (Nat × SyncRec × List Know × Bool)) : Knows :=
  match p with
  | none => ⟨[], 0, false⟩
  | some (_, r, know, _) => (know ++ [Know.party r.rid r.clock]).foldl (mergeItem own) ⟨[], 0, false⟩

/-- A wave as it is created (R21, R170, R250). -/
def State.newWave (s : State) (bi idx slice die core part slot : Nat) : Wave :=
  let b := s.block bi
  let l := s.launch b.launch
  let k := s.kernel l.kernel
  let pm := presence l.threads idx
  let rc := ((s.core die core).slotClk.getD slot 0 + 1) % 2 ^ 22
  let kn := startKnows b.handle l.parent
  { blk := bi, idx := idx, slice := slice, part := ⟨die, core, part⟩, slot := slot, pc := 0, pm := pm
    k := pm :: List.replicate 15 0, mode := 0, pri := k.priority, qv := k.vregs, qw := k.vregs, share := k.vregs
    regs := (List.range 128).map fun i => .u (l.args.getD i 0)
    slots := ((s.freeSlots ⟨die, core, part⟩).take k.vregs).map fun x => ⟨x, none⟩
    args := List.replicate 16 0, sb := List.replicate 64 0, log := List.replicate 40 none, full := List.replicate 4 none
    rid := s.tagOf b.launch die * 2 ^ 15 + 128 * core + slot, rc := rc, clk0 := rc, pg := kn.pg, know := kn.know
    lossy := kn.lossy, race := startRace (s.vi l.vi).desc k.race l.raceField }

/-- Add one wave of a block, traced from its first issue where the launch is (R303). -/
def addWave (s : State) (bi idx slice die core : Nat) (at_ : Nat × Nat) : State :=
  let wi := s.waves.length
  let w := s.newWave bi idx slice die core at_.1 at_.2
  let s := ({ s with waves := s.waves ++ [w] }).modBlock bi fun b => { b with waves := b.waves ++ [wi] }
  if (s.launch (s.block bi).launch).traced then traceStart s wi else s

/-- Add the waves of slice j on a core, as they are dealt. -/
def addSlice (s : State) (bi j die core : Nat) : State :=
  let l := s.launch (s.block bi).launch
  let ws := l.sliceWaves j
  match deal (s.banks die core) 0 (ws.map fun _ => (s.kernel l.kernel).vregs) with
  | some ps => (ws.zip ps).foldl (fun s x => addWave s bi x.1 j die core x.2) s
  | none => s

/-- The shared memory of a block as its slices start: the image in each, zero elsewhere (R82). DEDUCED, log 41. -/
def imageMemory (k : Kernel) (slices : Nat) : Memory :=
  (List.range slices).foldl (fun m j => m.writeN (0x80000 * j) k.image) []

/-- A line of the Felt layer that belongs to a block. -/
def LineKey.ofBlock (bi : Nat) (waves : List Nat) : LineKey → Bool
  | .shared b _ => b == bi
  | .ckpt b => b == bi
  | .spill w _ => waves.contains w
  | .wave w => waves.contains w
  | .scratch .. => false
  | .main .. => false

/-- Fetch buffers of a core hold none of a kernel's code (R151, R243). -/
def dropCode (s : State) (die core asid base len : Nat) : State :=
  s.modCore die core fun c => { c with fetch := c.fetch.filter fun f =>
    !(f.asid == asid && f.va < base + len && base < f.va + 32) }

/-- A block has been out of residence since it was saved or flushed: its first placement moves on by that time (R239). -/
def Block.placedFrom (b : Block) (now : Nat) : Nat := match b.firstPlaced with
  | some t => t + (now - b.savedAt)
  | none => now

/-- Place an unstarted block: its handle, its shared memory and its waves (R28, R82, R250, R263). The images of a block of
several slices are installed one by one, before each slice's first issue (R191).
DEDUCED, log 18, 41; DESIGN CHOICE, log 40. -/
def placeAt (s : State) (li bi die cluster : Nat) (cores : List Nat) : State :=
  let l := s.launch li
  let h := s.handles % 2 ^ 22
  let now := s.tick
  let lin := (s.block bi).lin
  let image := imageMemory (s.kernel l.kernel) l.slices
  let old : LineKey → Bool := LineKey.ofBlock bi []
  let s := { s with handles := s.handles + 1 }
  let s := s.modDie die fun d => { d with felt := d.felt.filter fun x => !old x.key
                                          persist := d.persist.filter fun x => !old x.key
                                          marked := d.marked.filter fun x => !old x.1 }
  let s := s.modBlock bi fun b =>
    { launch := li, lin := b.lin, st := .placed, die := die, cluster := 6 * die + cluster, cores := cores
      firstPlaced := some (b.placedFrom now), shared := image
      late := if l.slices ≤ 1 then [] else List.range l.slices
      phase := List.replicate 32 0, arrived := List.replicate 32 [], handle := h }
  let k := s.kernel l.kernel
  let s := cores.foldl (fun s c => dropCode s die c l.asid (k.code.getD die 0) k.codelen) s
  let s := (List.range l.slices).foldl (fun s j => addSlice s bi j die (cores.getD j 0)) s
  let s := s.modLaunch li fun l => { l with tPlaced := some (l.tPlaced.getD now), tLast := some now
                                            starved := l.starved.filter (· != lin) }
  let free (c : ClusterState) : ClusterState := if c.reserve == some (li, lin) then { c with reserve := none } else c
  { s with clusters := s.clusters.map free }

/-- PLACE_BLOCK: the next block of a launch is placed on these cores of a cluster, slice by slice (R28, R32). Placing a
block anew leaves the round of its class where it was. DESIGN CHOICE, log 42. -/
def execPlaceBlock (li die cluster : Nat) (cores : List Nat) (s : State) : Host.Outcome State Fault Refusal :=
  .next (match s.nextBlock li with
    | none => s
    | some (mine, lin, _) =>
      let phys := cores.map fun c => 16 * cluster + c
      if s.eligible li && (s.served li || s.reserving (6 * die + cluster) li lin) && s.unreserved (6 * die + cluster) li lin &&
          s.slicesFit li mine die (s.freshQuotas li) phys then
        match takeTag s li die with
        | none => s
        | some s =>
          match mine with
          | some bi => placeAt s li bi die cluster phys
          | none =>
            let bi := s.blocks.length
            let s := { s with blocks := s.blocks ++ [{ launch := li, lin := lin }] }
            let s := placeAt s li bi die cluster phys
            let cls := s.classOf li
            let q := (s.launch li).queue
            (s.modLaunch li fun l => { l with next := l.next + 1, blocks := l.blocks ++ [bi] }).modVi (s.launch li).vi fun v =>
              { v with served := v.served.set cls ((q + 1) % 64) }
      else s)

/-! ### Restore (R26, R29, R45, R243, R253) -/

/-- Loads and atomics that were withdrawn re-enter S1, and their operations count in QL again (R242, R243); a wave parked
on the line of one is parked on it as it now stands (R26). -/
def reenter (s : State) (wi : Nat) : State :=
  let n := s.accs.length
  let back := (List.range n).filter fun ai => (s.acc ai).wave == wi && (s.acc ai).st == .withdrawn
  let ops := back.foldl (fun acc ai =>
    let oi := (s.acc ai).op
    if acc.contains oi || (s.op oi).cls != some .load then acc else acc ++ [oi]) ([] : List Nat)
  let again : List Acc := back.map fun ai => { s.acc ai with st := .queued }
  let drop (ai : Nat) (a : Acc) : Acc := if back.contains ai then { a with st := .dropped } else a
  let s := { s with accs := s.accs.mapIdx drop ++ again }
  let s := s.modWave wi fun w => match w.stop with
    | .line ai => if back.contains ai then { w with stop := .line (n + back.idxOf ai) } else w
    | _ => w
  ops.foldl (fun s oi => (s.modWave wi fun w => w.countUp .load 1).modOp oi fun o => { o with counted := 1 }) s

/-- The slots of a list with new physical numbers. -/
def renumber : List Slot → List Nat → List Slot
  | x :: xs, p :: ps => { x with phys := p } :: renumber xs ps
  | _, _ => []

/-- Re-test what a wave was stopped on when it comes back (R26, R217). DEDUCED, log 44. -/
def comeBack (s : State) (wi : Nat) : State :=
  let w := s.wave wi
  let clk := s.waveClk wi
  let s := reenter s wi
  match w.stop with
  | .asleep n => s.modWave wi fun w => { w with stop := .sleep (clk + n) }
  | .claim n => s.modPart w.part fun p => { p with claims := p.claims ++ [(wi, n)] }
  | _ => retestBar (retest s wi) wi

/-- One wave is put back on a core (R243, R253). -/
def restoreWave (s : State) (wi die core : Nat) (at_ : Nat × Nat) : State :=
  let w := s.wave wi
  let b := s.block w.blk
  let part : PartRef := ⟨die, core, at_.1⟩
  let phys := (s.freeSlots part).take w.qw
  let rid := s.tagOf b.launch die * 2 ^ 15 + 128 * core + at_.2
  let rc := (clkMax w.rc ((s.core die core).slotClk.getD at_.2 0) + 1) % 2 ^ 22
  let kn := mergeItem b.handle w.knows (.party w.rid w.rc)
  let s := s.modWave wi fun w =>
    { w with part := part, slot := at_.2, slots := renumber w.slots phys, share := w.qw, rid := rid, rc := rc, clk0 := rc
             know := kn.know, pg := kn.pg, lossy := true, w := 0, saved := false, issued := false
             focus := none, path := [], pathOpen := false, pathOvf := false
             trace := { w.trace with needSync := w.trace.on } }
  let s := comeBack s wi
  match w.resumeDue with
  | some skip => resumeWave (s.modWave wi fun w => { w with resumeDue := none }) wi skip
  | none => s

/-- A saved block is put on these cores (R243). Its lines in the Felt layer follow it to its die. DEDUCED, log 44. -/
def restoreAt (s : State) (bi die cluster : Nat) (cores : List Nat) : State :=
  let b := s.block bi
  let l := s.launch b.launch
  let k := s.kernel l.kernel
  let mine : LineKey → Bool := LineKey.ofBlock bi b.waves
  let felt := (s.die b.die).felt.filter fun x => mine x.key
  let pend := (s.die b.die).persist.filter fun x => mine x.key
  let bad := (s.die b.die).marked.filter fun x => mine x.1
  let s := if die = b.die then s else
    ((s.modDie b.die fun d => { d with felt := d.felt.filter fun x => !mine x.key
                                       persist := d.persist.filter fun x => !mine x.key
                                       marked := d.marked.filter fun x => !mine x.1 }).modDie die fun d =>
      { d with felt := felt ++ d.felt, persist := d.persist ++ pend, marked := bad ++ d.marked })
  let now := s.tick
  let s := s.modBlock bi fun b =>
    { b with st := .placed, die := die, cluster := 6 * die + cluster, cores := cores, preempt := none, migrate := none
             firstPlaced := some (b.placedFrom now) }
  let s := cores.foldl (fun s c => trimController (dropCode s die c l.asid (k.code.getD die 0) k.codelen) die c) s
  (List.range l.slices).foldl (fun s j =>
    let ws := b.waves.filter fun wi => (s.wave wi).slice == j && !(s.wave wi).ended
    let core := cores.getD j 0
    match deal (s.banks die core) 0 (ws.map fun wi => (s.wave wi).qw) with
    | some ps => (ws.zip ps).foldl (fun s x => restoreWave s x.1 die core x.2) s
    | none => s) s

/-- RESTORE: a saved block is placed again (R29, R243). DESIGN CHOICE, log 42. -/
def execRestore (bi die cluster : Nat) (cores : List Nat) (s : State) : Host.Outcome State Fault Refusal :=
  .next (
    let b := s.block bi
    let phys := cores.map fun c => 16 * cluster + c
    if b.st == .saved && 5 ≤ s.boot && b.migrate.isNone && !s.outranked b.launch && s.unreserved (6 * die + cluster) b.launch b.lin &&
        s.slicesFit b.launch (some bi) die (s.savedQuotas bi) phys then
      match takeTag s b.launch die with
      | some s => restoreAt s bi die cluster phys
      | none => s
    else s)

/-! ### Gang starvation (R32 to R34) -/

/-- Waves resident on a cluster. -/
def State.clusterWaves (s : State) (cl : Nat) : Nat :=
  ((List.range s.waves.length).filter fun i => (s.wave i).resident && (s.wave i).cluster == cl).length

/-- A block of the launch could fit on a cluster were it empty. -/
def State.emptyFit (s : State) (li cl : Nat) : Bool :=
  let l := s.launch li
  let k := s.kernel l.kernel
  let cap := 16 * (if k.vregs = 0 then 8 else Nat.min 8 (512 / k.vregs))
  k.alloc ≤ Config.sharedBytes && l.perSlice ≤ cap &&
    l.slices ≤ ((clusterCores (cl % 6)).filter fun c =>
      (s.vi l.vi).desc.cores.contains ⟨cl / 6, c⟩ && (s.core (cl / 6) c).gate == .on &&
        !(s.core (cl / 6) c).tallow.getLsbD 15).length

/-- The cluster with the fewest waves of a list, the lowest among equals. -/
def State.fewest (s : State) : List Nat → Option Nat
  | [] => none
  | c :: cs => match State.fewest s cs with
    | none => some c
    | some d => if s.clusterWaves d < s.clusterWaves c then some d else some c

def State.reservedFor (s : State) (li lin : Nat) : Option Nat :=
  (List.range 12).find? fun cl => (s.cluster cl).reserve == some (li, lin)

/-- RESERVE_MODE (R32, R33). DEDUCED, log 43. -/
def execReserveMode (li : Nat) (s : State) : Host.Outcome State Fault Refusal :=
  .next (match s.nextBlock li with
    | none => s
    | some (_, lin, since) =>
      if s.eligible li && since + 100000 < s.tick && (s.reservedFor li lin).isNone then
        match s.fewest ((List.range 12).filter fun cl => (s.cluster cl).reserve.isNone && s.emptyFit li cl) with
        | some cl => s.modCluster cl fun c => { c with reserve := some (li, lin) }
        | none => s
      else s)

/-- GANG_STARVED (R34): posted once, naming the launch, the block and the reserved cluster. DEDUCED, log 43. -/
def execGangStarved (li : Nat) (s : State) : Host.Outcome State Fault Refusal :=
  .next (match s.nextBlock li with
    | none => s
    | some (_, lin, since) =>
      match s.reservedFor li lin with
      | some cl =>
        if s.eligible li && since + 10000000 ≤ s.tick && (s.launch li).starved != some lin then
          (s.modLaunch li fun l => { l with starved := some lin }).post (.gangStarved li lin cl)
        else s
      | none => s)

/-! ### Ends (R25, R44, R249, R253, R268) -/

/-- A wave leaves its slot, which keeps its clock (R253). -/
def leaveSlot (s : State) (wi : Nat) : State :=
  let w := s.wave wi
  s.modCore w.part.die w.part.core fun c => { c with slotClk := c.slotClk.set w.slot w.rc }

/-- WAVE_END: an exited wave whose counters are zero ends (R25). -/
def execWaveEnd (wi : Nat) (s : State) : Host.Outcome State Fault Refusal :=
  .next (
    let w := s.wave wi
    if w.resident && w.exited && !w.halted && w.ql = 0 && w.qs = 0 && w.qx = 0 && w.qt = 0 then
      let s := leaveSlot (traceStop s wi) wi
      let s := s.modWave wi fun w => { w with ended := true, slots := [], pend := [], issued := false }
      barriers s w.blk
    else s)

/-- Calls of launch_wait on a launch return (R316). -/
def wakeWaiters (s : State) (li : Nat) (value : Int) : State :=
  let mine := s.waiters.filter fun x => x.launch == li
  mine.foldl (fun s x => ret s x.thread value) { s with waiters := s.waiters.filter fun x => x.launch != li }

/-- A launch is over: the boundary in its queue discards fetch buffers of its interface (R27, R151, R307). -/
def launchOver (s : State) (li : Nat) (st : LaunchState) : State :=
  let l := s.launch li
  let now := s.tick
  let s := s.modLaunch li fun l => { l with st := st, tEnd := some now }
  let s := (s.vi l.vi).desc.cores.foldl (fun s c => s.modCore c.die c.core fun x => { x with fetch := [] }) s
  let free (c : ClusterState) : ClusterState := if c.reserve.any fun r => r.1 == li then { c with reserve := none } else c
  wakeWaiters { s with clusters := s.clusters.map free } li (if st = .complete then 0 else 1)

/-- A launch completes when all its blocks have ended. -/
def completeLaunch (s : State) (li : Nat) : State :=
  let l := s.launch li
  if !l.isOver && l.next = l.total && l.blocks.all (fun b => (s.block b).st == .ended) then launchOver s li .complete else s

/-- The writes of a block that are still in a die's persist buffer are drained. -/
def drainBlock (s : State) (bi die : Nat) : State :=
  ((s.die die).persist.filter fun w => w.blk == some bi).foldl (fun s w => drainAt s die w) s

/-- END_COMMIT: a block whose waves have ended is committed, once its DIRECT writes have drained, and ends (R25, R268). -/
def execEndCommit (bi : Nat) (s : State) : Host.Outcome State Fault Refusal :=
  .next (
    let b := s.block bi
    if b.st == .placed && !b.cancelled && !b.waves.isEmpty && (s.living bi).isEmpty && !s.blockBusy bi &&
        (s.pendingWrites bi).all (fun w => w.kind != 0) then
      let s := (List.range s.dies.length).foldl (fun s d => drainBlock s bi d) s
      let s := stepEnds (commit s bi false false) bi none
      let s := s.modBlock bi fun b =>
        { b with st := .ended, shared := [], absent := [], wm := [], recs := [], preempt := none, migrate := none }
      completeLaunch s b.launch
    else s)

/-- The writer that a watermark names: none where it records none, as after a reset or a recovery. DEDUCED, log 36. -/
def Watermark.writer (m : Watermark) : Option Nat :=
  if m.st = .fresh || m = { st := .lost } then none else some m.wid

/-- A watermark after the sweep of a tag; `fresh`: every launch with a tag on the die follows it (R249).
DEDUCED, log 36. -/
def Watermark.sweep (t : Nat) (fresh : Bool) (m : Watermark) : Watermark :=
  if m.writer.any fun w => w / 2 ^ 15 = t then (if fresh then {} else { m with st := .lost })
  else if m.rdr < 0xFFFFE && m.rdr / 2 ^ 15 = t then
    (if fresh then { m with rdr := 0xFFFFF, rclk := 0, rgen := 0, rspl := false, rsyn := false } else { m with st := .lost })
  else m

/-- TAG_SWEEP: the tag of a launch that is over is swept and freed (R249). DEDUCED, log 36. -/
def execTagSweep (die t : Nat) (s : State) : Host.Outcome State Fault Refusal :=
  .next (match (s.die die).tags.getD t none with
    | none => s
    | some li =>
      if !(s.launch li).isOver then s
      else
        let others := ((s.die die).tags.filterMap id).filter (· != li)
        let fresh := others.all fun x => bit (s.anc x die) t
        let s := s.modDie die fun d => { d with wm := d.wm.map (fun x => (x.1, x.2.sweep t fresh)), tags := d.tags.set t none }
        let clear (l : Launch) : Launch := { l with tags := l.tags.modify die fun x => x.map fun y => (y.1, y.2 &&& ~~~((1 : Word) <<< t)) }
        ({ s with launches := s.launches.map clear }).modLaunch li fun l => { l with tags := l.tags.set die none })

end Sys2Proof.Machine
end

