-- ==== Sys2Proof/Machine/Preempt.lean ====
section
/-!
DEFINITION. Preemption, saving, flushing, migration, managed power gating, and the discarding of blocks
(R203, R210, R217, R237 to R246, R253, R263, R269, R320).
-/

namespace Sys2Proof.Machine

/-! ### The choice of a mode (R239, R240) -/

/-- Ticks of residence since first placement. -/
def State.residence (s : State) (b : Block) : Nat := s.tick - b.firstPlaced.getD s.tick

/-- Waves of a block that have ended. -/
def State.endedCount (s : State) (b : Block) : Nat := (b.waves.filter s.endedWave).length

/-- The remaining time is at most 20 µs; EXPECT is in µs (R80). -/
def State.nearEnd (s : State) (b : Block) : Bool :=
  let e := s.residence b
  let x := 1000 * (s.kernel (s.launch b.launch).kernel).expect
  let n := s.endedCount b
  if x ≠ 0 then x - e ≤ 20000 else n ≠ 0 && e * (b.waves.length - n) ≤ 20000 * n

/-- Progress is below 10 %. -/
def State.littleDone (s : State) (b : Block) : Bool :=
  let e := s.residence b
  let x := 1000 * (s.kernel (s.launch b.launch).kernel).expect
  if x ≠ 0 then 10 * Nat.min x e < x else 10 * s.endedCount b < b.waves.length

/-- The mode in which a block is preempted (R239). -/
def State.preemptMode (s : State) (bi : Nat) (gang : Bool) : PreemptMode :=
  let b := s.block bi
  if gang || (s.living bi).any (fun wi => (s.wave wi).halted) || b.waves.any fun wi => (s.wave wi).noFlush then .save
  else if s.nearEnd b then .drain s.tick
  else if (s.kernel (s.launch b.launch).kernel).idem && s.littleDone b then .flush
  else .save

/-- PREEMPT (R239, R246): a block under migration takes the request after restore. -/
def execPreempt (bi : Nat) (gang : Bool) (s : State) : Host.Outcome State Fault Refusal :=
  let b := s.block bi
  .next (if b.migrate.isSome && (b.st == .placed || b.st == .saved) then s.modBlock bi fun b => { b with preemptDue := some gang }
    else if b.st != .placed || b.waves.isEmpty then s
    else match b.preempt with
      | some .save => s
      | some .flush => s
      | _ => let m := s.preemptMode bi gang
        s.modBlock bi fun b => { b with preempt := some m })

/-- DRAIN_TIMEOUT (R240). DESIGN CHOICE, log 77. -/
def execDrainTimeout (bi : Nat) (s : State) : Host.Outcome State Fault Refusal :=
  let b := s.block bi
  .next (match b.preempt with
    | some (.drain since) =>
      if b.st == .placed && since + 40000 ≤ s.tick then s.modBlock bi fun b => { b with preempt := some .save } else s
    | _ => s)

/-! ### Accesses that are withdrawn (R242, R269) -/

/-- A load or atomic parked on presence. -/
def State.parkedLoad (s : State) (ai : Nat) : Bool :=
  let a := s.acc ai
  (a.kind == .load || a.kind == .atomic || a.kind == .record) && a.st == .queued && !s.allPresent ai

/-- Accesses of waves that `p` picks. -/
def State.accsOf (s : State) (p : Nat → Bool) : List Nat :=
  (List.range s.accs.length).filter fun ai => (s.acc ai).kind != .engine && p (s.acc ai).wave

/-- A parked load or atomic is withdrawn: it leaves QL and keeps its log entry. -/
def withdraw (s : State) (ai : Nat) : State :=
  let oi := (s.acc ai).op
  countDown (s.modAcc ai fun a => { a with st := .withdrawn }) oi (s.op oi).counted

def withdrawAll (s : State) (p : Nat → Bool) : State :=
  (s.accsOf p).foldl (fun s ai => if s.parkedLoad ai then withdraw s ai else s) s

/-! ### Saving a block (R203, R242 to R244) -/

def Span.isShared (x : Span) : Bool := x.space == .shared

/-- Copies of a block with a SHARED source or destination have all reached S8 (R203). -/
def State.sharedCopiesOver (s : State) (bi : Nat) : Bool :=
  !s.copies.any fun c => c.blk == bi && c.st != .done && (c.srcs ++ c.dsts).any Span.isShared

/-- An access still in flight, which a save waits for: it has neither performed, been appended, trapped nor been held,
and is not a parked load. The counter load of a parked `waitc` is tested anew at restore. -/
def State.inFlight (s : State) (ai : Nat) : Bool :=
  let a := s.acc ai
  !a.isOver && a.st != .trapped && a.st != .held && a.st != .withdrawn && a.kind != .counter && !s.parkedLoad ai

/-- The conditions of SAVE (R242): a tile whose gather or scatter has trapped keeps its QT count, so that the save waits
for its resolution (R210). -/
def State.maySave (s : State) (bi : Nat) : Bool :=
  let b := s.block bi
  b.st == .placed && (s.living bi).all (fun wi => (s.wave wi).qt = 0) && s.sharedCopiesOver bi &&
    !((s.accsOf b.waves.contains).any fun ai => !(s.acc ai).uncomputed && s.inFlight ai) && b.ckptSeq.isNone

/-- A sleeper keeps its remaining count; a claim is queued again at restore (R26, R217). -/
def stopAway (clk : Nat) : Stop → Stop
  | .sleep u => .asleep (u - clk)
  | x => x

/-- The Felt layer takes the writes of these lines that have not drained, and then the state of these waves, as versions of
the open generation (R242, R264, R269). -/
def shadowNow (s : State) (die : Nat) (lines : LineKey → Bool) (waves : List Nat) : State :=
  let s := ((s.die die).persist.filter fun w => lines w.key).foldl (fun s w => drainAt s die w) s
  waves.foldl (fun s wi =>
    let b := s.waveBlock wi
    if s.endedWave wi then s
    else shadowWrite s die (.wave wi) [] (b.committed + 1) 2 (some b.handle) (some (.wave (s.wave wi)))) s

/-- One wave becomes SAVED (R242, R244, R253). -/
def saveWave (s : State) (wi : Nat) : State :=
  let clk := s.waveClk wi
  let s := dropClaims (leaveSlot (flushBr s wi) wi) wi
  let s := if (s.wave wi).halted then s.post (.halted wi) else s
  s.modWave wi fun w => { w with saved := true, issued := false, stop := stopAway clk w.stop }

/-- The block becomes SAVED, with its state in the Felt layer, and its slots, wave slots and shared memory are free (R242).
Sync records are not saved. DEDUCED, log 39. -/
def saveBlock (s : State) (bi : Nat) : State :=
  let s := withdrawAll s (s.block bi).waves.contains
  let live := s.living bi
  let s := shadowNow (live.foldl saveWave s) (s.block bi).die (LineKey.ofBlock bi (s.block bi).waves) live
  let now := s.tick
  s.modBlock bi fun b => { b with st := .saved, savedAt := now, recs := b.recs.map forgetRec, preempt := none, phaseStep := false }

/-- SAVE (R242). -/
def execSave (bi : Nat) (s : State) : Host.Outcome State Fault Refusal :=
  .next (if (s.block bi).preempt = some .save && s.maySave bi then saveBlock s bi else s)

/-! ### Discarding (R241, R320) -/

/-- What a wave had in flight is gone, and it leaves its slot. -/
def discardWave (s : State) (wi : Nat) : State :=
  let s := if (s.wave wi).resident then dropClaims (leaveSlot (traceStop s wi) wi) wi else s
  let acc (a : Acc) : Acc := if a.wave == wi && a.kind != .engine && !a.isOver then { a with st := .dropped } else a
  let tile (t : Tile) : Tile := if t.wave == wi && t.st != .done then { t with st := .dropped } else t
  let op (o : MemOp) : MemOp := if o.wave == wi && o.cls != some .copy then { o with counted := 0 } else o
  let s := s.tiles.foldl (fun s t => if t.wave == wi && t.isRunning then s.modPart t.part fun p => { p with idleSince := some (s.waveClk wi) }
    else s) s
  ({ s with accs := s.accs.map acc, tiles := s.tiles.map tile, ops := s.ops.map op }).modWave wi fun w =>
    { w with ended := true, saved := false, halted := false, slots := [], pend := [], issued := false, heldAcc := [] }

/-- A block is discarded: wave state, shared memory, its watermarks, side-buffer and log entries. -/
def discardBlock (s : State) (bi : Nat) (st : BlockState) : State :=
  let now := s.tick
  ((s.block bi).waves.foldl discardWave s).modBlock bi fun b =>
    { b with st := st, waves := [], shared := [], absent := [], wm := [], recs := [], preempt := none, preemptDue := none
             migrate := none, cancelDue := false, ckpt := [], ckptSeq := none, phaseStep := false, late := [], savedAt := now
             requeued := if st = .unstarted then some now else b.requeued }

/-- FLUSH_AND_RESTART (R241). -/
def execFlushAndRestart (bi : Nat) (s : State) : Host.Outcome State Fault Refusal :=
  .next (if (s.block bi).st == .placed && (s.block bi).preempt = some .flush && s.sharedCopiesOver bi then
      discardBlock s bi .unstarted
    else s)

/-! ### Cancelling (R320) -/

/-- Placed blocks of a cancelled launch are discarded once their SHARED copies have reached S8. -/
def discardCancelled (s : State) (li : Nat) : State :=
  (s.launch li).blocks.foldl (fun s bi =>
    let b := s.block bi
    if b.cancelled && b.st == .placed && s.sharedCopiesOver bi then discardBlock s bi .discarded else s) s

/-- A cancelled launch is over once its blocks have all ended or been discarded. DEDUCED, log 59. -/
def finishCancel (s : State) (li : Nat) : State :=
  let s := discardCancelled s li
  let isOver (b : Block) : Bool := b.st == .ended || b.st == .discarded
  if !(s.launch li).isOver && (s.launch li).blocks.all fun bi => isOver (s.block bi) then launchOver s li .cancelled else s

/-- What a cancel does to one block of the launch (R320). -/
def cancelBlock (s : State) (bi : Nat) : State :=
  match (s.block bi).st with
  | .placed => s.modBlock bi fun b => { b with cancelled := true }
  | .ended => s
  | .discarded => s
  | _ => discardBlock s bi .discarded

/-- A block of the launch is in migration. -/
def State.migrating (s : State) (li : Nat) : Bool := (s.launch li).blocks.any fun b => (s.block b).migrate.isSome

/-- Cancel a launch: unplaced blocks are removed, saved ones discarded, and placed ones discarded once they may be. In
migration the cancel waits for the restore (R246, R320). -/
def cancelLaunch (s : State) (li : Nat) : State :=
  if s.migrating li then
    (s.launch li).blocks.foldl (fun s bi => if (s.block bi).migrate.isSome then
      s.modBlock bi fun b => { b with cancelDue := true } else s) s
  else
    let s := s.modLaunch li fun l => { l with cut := true }
    finishCancel ((s.launch li).blocks.foldl cancelBlock s) li

/-- What migration held back takes effect: a cancel, or else a request (R246, R320). -/
def takeDue (s : State) (bi : Nat) : State :=
  let b := s.block bi
  if b.cancelDue then cancelLaunch (s.modBlock bi fun b => { b with cancelDue := false }) b.launch
  else match b.preemptDue with
    | some gang =>
      let m := s.preemptMode bi gang
      s.modBlock bi fun b => { b with preempt := some m, preemptDue := none }
    | none => s

/-- COMPLETE (S8). A cancelled block that waited for the copy is discarded. -/
def execComplete (ci : Nat) (s : State) : Host.Outcome State Fault Refusal :=
  let b := (s.copy ci).blk
  let t := completeCopy s ci
  .next (if (t.block b).cancelled then finishCancel t (t.block b).launch else t)

/-! ### Migration (R245, R246) -/

/-- ALLOW of a core (R293). -/
def State.allow (s : State) (die core : Nat) : Int := sext 16 (s.core die core).tallow.toNat

/-- A core of the block is more than 2 °C over its limit. -/
def State.tooHot (s : State) (b : Block) : Bool := b.cores.any fun c => s.allow b.die c < -8

/-- The block may be chosen, and its slices fit on these cores. -/
def State.mayMigrate (s : State) (bi cluster : Nat) (phys : List Nat) : Bool :=
  let b := s.block bi
  b.st == .placed && s.tooHot b && !(s.living bi).any (fun wi => (s.wave wi).halted) && b.preempt.isNone &&
    phys.all (fun c => !(cluster / 6 == b.die && b.cores.contains c) && 0 ≤ s.allow (cluster / 6) c) &&
    s.unreserved cluster b.launch b.lin && s.slicesFit b.launch (some bi) (cluster / 6) (s.savedQuotas bi) phys

/-- A block's QX is zero in every wave, and it holds no Deckle entry (R245). -/
def State.noCopies (s : State) (bi : Nat) : Bool :=
  (s.block bi).waves.all (fun wi => (s.wave wi).qx = 0) && !s.copies.any fun c => c.blk == bi && c.st != .done

/-- A block saved for migration is restored on the cores reserved for it. -/
def migrateHome (s : State) (bi : Nat) : State :=
  match (s.block bi).migrate with
  | none => s
  | some (cl, phys) =>
    let b := s.block bi
    if s.slicesFit b.launch (some bi) (cl / 6) (s.savedQuotas bi) phys then
      match takeTag s b.launch (cl / 6) with
      | some s => takeDue (restoreAt s bi (cl / 6) (cl % 6) phys) bi
      | none => s
    else s

/-- The mark is cleared, and nothing moves (R245). -/
def coolMark (s : State) (bi : Nat) : State :=
  takeDue (s.modBlock bi fun b => { b with migrate := none, preempt := none }) bi

/-- Marked blocks that have cooled before they were saved lose the mark. -/
def coolMarks (s : State) : State :=
  (List.range s.blocks.length).foldl (fun s bi =>
    let b := s.block bi
    if b.st == .placed && b.migrate.isSome && !s.tooHot b then coolMark s bi else s) s

/-- MIGRATION (R245): the block is marked and its cores reserved; the mark is cleared when the core has cooled; once no
copy of it is left its issue stops, and it is saved and restored. -/
def execMigration (bi cluster : Nat) (cores : List Nat) (s : State) : Host.Outcome State Fault Refusal :=
  .next (
    let b := s.block bi
    let phys := cores.map fun c => 16 * (cluster % 6) + c
    match b.migrate with
    | none =>
      if s.mayMigrate bi cluster phys then
        s.modBlock bi fun b => { b with migrate := some (cluster, phys) }
      else s
    | some _ =>
      if b.st == .saved then migrateHome s bi
      else if !s.tooHot b then coolMark s bi
      else if !s.noCopies bi then s
      else
        let s := s.modBlock bi fun b => { b with preempt := some .save }
        if s.maySave bi then migrateHome (saveBlock s bi) bi else s)

/-! ### Managed power gating (R269) -/

/-- Waves resident on a core. -/
def State.coreWaves (s : State) (die core : Nat) : List Nat :=
  (List.range s.waves.length).filter fun wi =>
    let w := s.wave wi
    w.resident && w.part.die == die && w.part.core == core

/-- MANAGED_POWER_GATING (R269): issue stops on the core. -/
def execManagedPowerGating (die core : Nat) (s : State) : Host.Outcome State Fault Refusal :=
  .next (if (s.core die core).gate == .on then
      let s := s.modCore die core fun c => { c with gate := .gating }
      withdrawAll s (s.coreWaves die core).contains
    else s)

/-- A wave's queues allow the cut. -/
def Wave.quiet (w : Wave) : Bool := w.ql = 0 && w.qs = 0 && w.qt = 0

/-- Sync records of the shared memory of a core do not outlast its power. -/
def dropRecs (s : State) (die core : Nat) : State :=
  let blocks := s.coreBlocks die core
  blocks.foldl (fun s bi =>
    s.modBlock bi fun b => { b with recs := b.recs.map fun r => if b.cores.getD (r.1 / 8192) 0 = core then forgetRec r else r }) s

/-- Lines of the memory that a core holds for its blocks: its slices, and the spill areas of its waves. -/
def State.coreLine (s : State) (die core : Nat) : LineKey → Bool
  | .shared b l => (s.block b).st == .placed && (s.block b).die == die && (s.block b).cores.getD (l / 8192) 96 == core
  | .spill w _ => (s.wave w).resident && (s.wave w).part.die == die && (s.wave w).part.core == core
  | _ => false

/-- GATING_CUT (R269): with every queue empty the state is shadowed and the power cut. DEDUCED, log 39. -/
def execGatingCut (die core : Nat) (s : State) : Host.Outcome State Fault Refusal :=
  .next (if (s.core die core).gate == .gating then
      let ws := s.coreWaves die core
      let s := withdrawAll s ws.contains
      if ws.all fun wi => (s.wave wi).quiet then
        let s := ws.foldl (fun s wi =>
          let clk := s.waveClk wi
          s.modWave wi fun w =>
            { w with stop := stopAway clk w.stop, focus := none, path := [], pathOpen := false, pathOvf := false }) (dropRecs s die core)
        let s := shadowNow s die (s.coreLine die core) ws
        s.modCore die core fun c =>
          { c with gate := .gated, fetch := []
                   parts := c.parts.map fun p => { p with busy := [] } }
      else s
    else s)

/-- What a wave takes up again when its core has power (R26, R269). -/
def ungateWave (s : State) (wi : Nat) : State :=
  let clk := s.waveClk wi
  let s := (reenter s wi).modWave wi fun w =>
    { w with gatecnt := w.gatecnt + 1, trace := { w.trace with needTs := w.trace.on } }
  if (s.wave wi).trapDue && !(s.wave wi).halted then dueTrap s wi
  else
    let s := match (s.wave wi).stop with
      | .asleep n => s.modWave wi fun w => { w with stop := .sleep (clk + n) }
      | _ => retestBar (retest s wi) wi
    if (s.wave wi).trapMode || (s.wave wi).halted then s else takeHeld s wi

/-- GATING_RESTORE (R269). -/
def execGatingRestore (die core : Nat) (s : State) : Host.Outcome State Fault Refusal :=
  .next (if (s.core die core).gate == .gated then
      (s.coreWaves die core).foldl ungateWave (s.modCore die core fun c => { c with gate := .on })
    else s)

end Sys2Proof.Machine
end

