-- ==== Sys2Proof/Machine/Bundle.lean ====
section
/-!
DEFINITION. Bundles: descriptors, templates, relocations, images, placement and removal (R80 to R82, R150, R185, R188,
R275, R316, R324 to R329).
-/

namespace Sys2Proof.Machine

/-! ### Kernel descriptors (R80, R81) -/

/-- A descriptor, its place in its section, and its name. -/
structure KDesc where
  at_ : Nat
  bytes : Bytes
  name : Bytes

namespace KDesc

def num (k : KDesc) (off n : Nat) : Nat := numAt k.bytes off n
def entry (k : KDesc) : Nat := k.num 0x00 4
def codelen (k : KDesc) : Nat := k.num 0x04 4
def hbase (k : KDesc) : Nat := k.num 0x08 4
def shared (k : KDesc) : Nat := k.num 0x0C 4
def spill (k : KDesc) : Nat := k.num 0x10 4
def expect (k : KDesc) : Nat := k.num 0x14 4
def vregs (k : KDesc) : Nat := k.num 0x18 1
def args (k : KDesc) : Nat := k.num 0x19 1
def priority (k : KDesc) : Nat := k.num 0x1A 1
def race (k : KDesc) : Nat := k.num 0x1B 1
def flags (k : KDesc) : Nat := k.num 0x1C 1
def gen (k : KDesc) : Nat := k.num 0x1D 1
def tcount (k : KDesc) : Nat := k.num 0x1E 2
def tlist (k : KDesc) : Nat := k.num 0x20 4
def imglen (k : KDesc) : Nat := k.num 0x24 4
def imgoff (k : KDesc) : Nat := k.num 0x28 4
def scrlist (k : KDesc) : Nat := k.num 0x2C 4

/-- Its code holds a place of the section of its code. -/
def holds (k : KDesc) (off : Nat) : Bool := k.entry ≤ off && off < k.entry + k.codelen

/-- Replace a 32-bit field. -/
def setNum (k : KDesc) (off v : Nat) : KDesc := { k with bytes := putAt k.bytes off (natLe 4 v) }

/-- The limits of R80 and R81. -/
def ok (k : KDesc) (code data : Nat) : Bool :=
  k.bytes.length == 64 && k.entry % 4 == 0 && k.codelen % 4 == 0 && k.entry + k.codelen ≤ code &&
    (k.hbase == 0xFFFFFFFF || k.hbase % 64 == 0) && k.shared ≤ 524288 && k.spill ≤ 8192 && k.spill % 128 == 0 &&
    k.vregs ≤ 127 && k.args ≤ 16 && k.priority ≤ 15 && k.race ≤ 3 && k.flags < 8 && k.tcount ≤ 256 &&
    k.imglen ≤ k.shared && (k.imglen == 0 || k.imgoff + k.imglen ≤ data) && k.num 0x30 16 == 0

/-- The images at scratchpad addresses: a count, then for each its address, its length and its offset in the data
section. DESIGN CHOICE, log 74. -/
def images (k : KDesc) (data : Bytes) : List (Nat × Nat × Nat) :=
  if k.scrlist = 0 then []
  else (List.range (numAt data k.scrlist 4)).map fun i =>
    let o := k.scrlist + 4 + 12 * i
    (numAt data o 4, numAt data (o + 4) 4, numAt data (o + 8) 4)

end KDesc

/-- Descriptors of a section up to a place, one after the other, each followed by its name and a NUL. Those of the Nelnath
section end where the code or the templates of one of them begin. DESIGN CHOICE, log 74. -/
def parseKDescs (nelnath : Bool) (bs : Bytes) : Nat → Nat → Nat → List KDesc
  | 0, _, _ => []
  | fuel + 1, off, stop =>
    if stop ≤ off then []
    else
      let k : KDesc := { at_ := off, bytes := (bs.drop off).take 64, name := nameAt bs (off + 64) }
      let stop := if nelnath then Nat.min (Nat.min stop k.entry) (if k.tcount = 0 then stop else k.tlist) else stop
      k :: parseKDescs nelnath bs fuel (off + 64 + k.name.length + 1) stop

/-! ### Templates (R185) -/

/-- A template record: the section that holds it, its place there, and its 128 bytes. -/
structure TRecord where
  sect : Nat
  at_ : Nat
  bytes : Bytes

/-- Records of a section from a place, each followed by its name and a NUL: `n` of them, or all up to its end. -/
def parseTemplates (sect : Nat) (bs : Bytes) : Nat → Nat → List TRecord
  | 0, _ => []
  | n + 1, off =>
    if bs.length ≤ off then []
    else ⟨sect, off, (bs.drop off).take 128⟩ ::
      parseTemplates sect bs n (off + 128 + (nameAt bs (off + 128)).length + 1)

/-- A record that may be loaded. -/
def TRecord.ok (r : TRecord) : Bool :=
  r.bytes.length == 128 && (parseTemplate r.bytes).loadable (numAt r.bytes 6 2 + numAt r.bytes 0x78 8)

/-- Numbers, among the records of a bundle, of a kernel's templates. -/
def KDesc.templates (k : KDesc) (sect : Nat) (ts : List TRecord) : List Nat :=
  if k.tcount = 0 then []
  else (List.range k.tcount).map fun j => ts.findIdx (fun x => x.sect == sect && x.at_ == k.tlist) + j

/-! ### Translation (R327 to R329) -/

/-- A Nelnath kernel and its translation: the descriptor of the section, what it became, and its native descriptor. -/
structure Ported where
  source : KDesc
  trans : Translated
  desc : KDesc

/-- The native descriptor: portable, of this generation, at its place in the code, with the exchange area of its wave sets
(R80, R328). -/
def portedDesc (k : KDesc) (W : Nat) (t : Translated) (at_ : Nat) : KDesc :=
  let k := (((k.setNum 0x00 at_).setNum 0x04 t.code.length).setNum 0x08 t.hbase).setNum 0x0C
    (k.shared + if 32 < W then 512 * t.sets else 0)
  let flags : Byte := BitVec.ofNat 8 (k.flags ||| 4)
  { k with bytes := putAt (putAt k.bytes 0x18 [BitVec.ofNat 8 t.vregs]) 0x1C [flags, BitVec.ofNat 8 generation] }

/-- Translate the kernels of the Nelnath section, their code one after the other from a place; none where one is
rejected: by its words, or by the SHARED or the Qv that it would take (R327, R328). -/
def translateAll (sec : Bytes) : List KDesc → Nat → Option (List Ported)
  | [], _ => some []
  | k :: ks, at_ =>
    let W := Config.nelnathWidth (k.bytes ++ k.name)
    match translateKernel W k.vregs k.hbase ((sec.drop k.entry).take k.codelen) with
    | none => none
    | some t =>
      let d := portedDesc k W t at_
      if 524288 < d.shared || 127 < t.vregs then none
      else match translateAll sec ks (at_ + t.code.length) with
        | none => none
        | some rest => some (⟨k, t, d⟩ :: rest)

/-- The kernels of a bundle, each with the section of its records: its native ones, the translated form in place of one of
another generation, then the Nelnath ones that have no native form; none where a native one of another generation has no
Nelnath form (R329). DEDUCED, log 74. -/
def chooseKernels (native : List KDesc) (ported : List Ported) : Option (List (KDesc × Nat)) :=
  let form (k : KDesc) : Option (KDesc × Nat) :=
    if k.gen = generation then some (k, tmplType)
    else (ported.find? fun p => p.desc.name == k.name).map fun p => (p.desc, nelnathType)
  let more := ported.filter fun p => !(native.any fun k => k.name == p.desc.name)
  (native.mapM form).map fun ks => ks ++ more.map fun p => (p.desc, nelnathType)

/-! ### Relocations (R325) -/

/-- What a bundle's symbols are resolved against: its kernels, its data, its records, and the indices that the records
have on a die. -/
structure Placed where
  native : List KDesc
  ported : List Ported
  data : Bytes
  records : List TRecord
  idx : List Nat

/-- The PC, in its translated kernel, of a place of the Nelnath section. -/
def Ported.pc (p : Ported) (off : Nat) : Nat := p.trans.places.getD ((off - p.source.entry) / 4) 0 + off % 4

/-- What a symbol's value is after placement: a place in the code is its PC in its kernel, a place in the data its
slice-relative offset in the image or its scratchpad address, a template its index. DESIGN CHOICE, log 74. -/
def Placed.value (c : Placed) : Sym → Nat
  | .value v => v
  | .place ty off =>
    let ks := c.native ++ c.ported.map (·.desc)
    let record := c.records.findIdx? fun x => x.sect == ty && x.at_ == off
    if ty = codeType then
      match c.native.find? fun k => k.holds off with
      | some k => off - k.entry
      | none => off
    else if ty = dataType then
      match ks.find? fun k => k.imglen != 0 && k.imgoff ≤ off && off < k.imgoff + k.imglen with
      | some k => off - k.imgoff
      | none =>
        match (ks.flatMap fun k => k.images c.data).find? fun x => x.2.2 ≤ off && off < x.2.2 + x.2.1 with
        | some x => x.1 + (off - x.2.2)
        | none => off
    else match record with
      | some i => c.idx.getD i 0
      | none =>
        if ty = nelnathType then
          match c.ported.find? fun p => p.source.holds off with
          | some p => p.pc off
          | none => off
        else off

/-- A symbol in a descriptor: descriptors name places by their offset in the section (R80). -/
def Sym.offset : Sym → Nat
  | .value v => v
  | .place _ off => off

/-- Sections that each type patches. -/
def relaSection (typ sect : Nat) : Bool :=
  sect == nelnathType && typ ≤ 5 ||
    sect == if typ ≤ 3 then codeType else if typ = 4 then kdescType else if typ = 5 then tmplType else dataType

/-- Bytes that each type patches. -/
def relaWidth (typ : Nat) : Nat := if typ = 5 then 8 else 4

/-- The other half of a pair (R325). -/
def relaPairs (r q : Rela) : Bool := r.typ + q.typ == 3 && r.sym == q.sym && r.addend == q.addend

/-- An entry that Ovholt accepts, but for the value: its type, its place, its word and its other half. -/
def relaOk (r : Rela) (all : List Rela) (secs : Nat → Bytes) (records : List TRecord) : Bool :=
  let bs := secs r.sect
  let op := numAt bs (r.off + 3) 1
  let isRecord : Bool := match r.sym with
    | .place ty off => records.any fun x => x.sect == ty && x.at_ == off
    | .value _ => false
  1 ≤ r.typ && r.typ ≤ 6 && relaSection r.typ r.sect && r.off + relaWidth r.typ ≤ bs.length &&
    (match r.typ with
      | 1 => op == 0x2C && all.any fun q => relaPairs r q
      | 2 => op == 0x2D && all.any fun q => relaPairs r q
      | 3 => op == 0x2C && isRecord
      | _ => true)

/-- The value that an entry patches in fits. -/
def relaFits (r : Rela) (v : Int) : Bool :=
  if r.typ = 5 then 0 ≤ v && v < 2 ^ 64 else if r.typ = 3 then 0 ≤ v && v < 65536 else 0 ≤ v && v < 2 ^ 32

/-- The bytes after an entry is applied at a place with its value. -/
def relaApply (typ off : Nat) (bs : Bytes) (v : Nat) : Bytes :=
  let w := numAt bs off 4
  let imm (x : Nat) : Bytes := natLe 4 (w / 2 ^ 17 * 2 ^ 17 + x)
  match typ with
  | 1 => putAt bs off (imm (v % 65536))
  | 2 => putAt bs off (imm (v / 65536 % 65536))
  | 3 => putAt bs off (imm v)
  | 5 => putAt bs off (natLe 8 v)
  | _ => putAt bs off (natLe 4 v)

/-- Apply entries to a run of bytes, each where its place lies in it; none where a value does not fit or a place is not
there. VX_TMPL takes no addend. -/
def relocate (rs : List Rela) (value : Sym → Nat) (place : Rela → Option Nat) (bs : Bytes) : Option Bytes :=
  rs.foldlM (fun bs r =>
    let v : Int := (value r.sym : Int) + if r.typ = 3 then 0 else r.addend
    match place r with
    | some off => if relaFits r v then some (relaApply r.typ off bs v.toNat) else none
    | none => none) bs

/-- The entries of some types against a section. -/
def relasOf (rs : List Rela) (sect lo hi : Nat) : List Rela :=
  rs.filter fun r => r.sect == sect && lo ≤ r.typ && r.typ ≤ hi

/-- A section with its descriptors relocated, and the descriptors; HBASE is the handler's PC (R80, R81). -/
def relocateDescs (rs : List Rela) (sect : Nat) (bs : Bytes) : Option (Bytes × List KDesc) :=
  let rs := relasOf rs sect 4 4
  (relocate rs Sym.offset (fun r => some r.off) bs).map fun bs =>
    let ks := parseKDescs (sect == nelnathType) bs bs.length 0 bs.length
    (bs, ks.map fun k => if rs.any fun r => r.off == k.at_ + 8 then k.setNum 8 (k.hbase - k.entry) else k)

/-- Where an entry against code patches the placed code: that of the native section first, then the translated code. -/
def codePlace (ported : List Ported) (r : Rela) : Option Nat :=
  if r.sect = codeType then some r.off
  else (ported.find? fun p => p.source.holds r.off).map fun p => p.desc.entry + p.pc r.off

/-! ### Placement (R150, R326) -/

/-- The highest window of an ASID that is free on both dies. -/
def State.freeWindow (s : State) (asid : Nat) : Option Nat :=
  ((List.range 64).reverse).find? fun w =>
    !(List.range 2).any fun d => (s.die d).raf.any fun x => x.1 == asid && x.2.1 == w && x.2.2.getLsbD 0

/-- The virtual address of a window of a die of this module (R272). -/
def State.windowBase (s : State) (die win : Nat) : Nat := (s.locnOf die) * 2 ^ 46 + win * 2 ^ 40

/-- A code region: readable and executable, one page of 1 GB whose table stands in its last 8 KB (R275, R277). -/
def codeRegion (frame : Nat) : BitVec 128 :=
  BitVec.ofNat 128 (1 + 4 + 16 + 3 * 2 ^ 8 + (frame + 2 ^ 30 - 8192) / 8192 * 2 ^ 46 + (2 ^ 18 - 1) * 2 ^ 100)

/-- A bundle's code stands in its frame of a die, mapped at its window. DESIGN CHOICE, log 17. -/
def placeCode (s : State) (h : Nat) (b : Bundle) (die : Nat) : State :=
  let frame := Config.codeFrame die h % 512 * 2 ^ 30
  let s := (s.hbmWrite die frame (b.code.getD die [])).hbmWrite die (frame + 2 ^ 30 - 8192) (natLe 8 (frame + 1))
  s.modDie die fun d =>
    { d with raf := (b.asid, b.window, codeRegion frame) :: d.raf.filter fun x => !(x.1 == b.asid && x.2.1 == b.window) }

/-- Template indices in use on a die. -/
def State.usedTemplates (s : State) (die : Nat) : List Nat :=
  (s.kernels.filter (·.live)).flatMap fun k => k.tmpls.getD die []

/-- The lowest `n` template indices that are free on a die. -/
def State.freeTemplates (s : State) (die n : Nat) : List Nat :=
  let used := s.usedTemplates die
  ((List.range (used.length + n)).filter fun i => !used.contains i).take n

/-- Write one record of a template table, which grows as far as it needs. -/
def setTemplate (l : List Template) (i : Nat) (t : Template) : List Template :=
  (l ++ List.replicate (i + 1 - l.length) ({} : Template)).set i t

def placeTemplates (s : State) (die : Nat) (idx : List Nat) (ts : List Template) : State :=
  s.modDie die fun d => { d with templates := (idx.zip ts).foldl (fun l x => setTemplate l x.1 x.2) d.templates }

/-- Dies on which an interface owns cores. -/
def State.diesOf (s : State) (vi : Nat) : List Nat := (List.range 2).filter fun d => !(s.owned vi d).isEmpty

/-- The persist mode of an image loaded from an address of a process: that of its region of main memory; else that of the
scratchpad it goes to (R145, R275). -/
def imageCut (s : State) (pi vi die va addr : Nat) : Bool :=
  let p := s.proc pi
  match p.pages.lookup (va / 4096) with
  | some (.main m) =>
    match s.regionOf (owner m).2 p.asid (m + va % 4096) with
    | some e => e.getLsbD 7
    | none => s.inCut vi die addr
  | _ => s.inCut vi die addr

/-- An image is written at its scratchpad address, line by line: its lines are present and FRESH, and have no owner
(R82, R263, R267). -/
def placeImage (s : State) (vi die addr : Nat) (cut : Bool) (bs : Bytes) : State :=
  let h : Home := .scratch vi die
  let s := s.append h {} (fun _ => cut) ((linesOf addr bs.length).map fun l =>
    let lo := Nat.max addr (64 * l)
    { lane := 0, addr := lo, data := (bs.drop (lo - addr)).take (64 * l + 64 - lo) })
  (linesOf addr bs.length).foldl (fun s l =>
    (s.setPresent h (64 * l) true).setWatermark ⟨none, die, s.scratchPhys vi die (64 * l) / 64, 64 * l⟩ {}) s

/-- An image lies in the scratchpad that the interface addresses on a die. -/
def State.imageFits (s : State) (vi die addr n : Nat) : Bool :=
  0x10000000 ≤ addr && addr + n ≤ 0x10000000 + s.scratchSize vi die && addr + n ≤ 0x16000000

/-- What bundle_load has worked out before anything is placed: the kernels, the code, the records and their indices of each
die, the data, the records of each kernel, and the images, each with its place in the file. -/
structure Loading where
  kdescs : List KDesc
  codes : List Bytes
  data : Bytes
  idx : List (List Nat)
  templates : List (List Template)
  tmplOf : List (List Nat)
  images : List (Nat × Nat × Bytes)

/-- Steps 1 to 4 of R326: what is to be placed, or none where a check fails. -/
def State.prepare (s : State) (vi : Nat) (b : BundleImage) : Option Loading := do
  let code := b.section_ codeType
  let (_, native) ← relocateDescs b.rela kdescType (b.section_ kdescType)
  let (nel, sources) ← relocateDescs b.rela nelnathType (b.section_ nelnathType)
  let tmpl := b.section_ tmplType
  let records (tm ne : Bytes) : List TRecord :=
    parseTemplates tmplType tm tm.length 0 ++ sources.flatMap fun k => parseTemplates nelnathType ne k.tcount k.tlist
  let recs := records tmpl nel
  let ported ← translateAll nel sources code.length
  let kernels ← chooseKernels native ported
  let full := code ++ (ported.map (·.trans.code)).flatten
  let idx := (List.range 2).map fun d => s.freeTemplates d recs.length
  let data₀ := b.section_ dataType
  let value (data : Bytes) (d : Nat) : Sym → Nat := Placed.value ⟨native, ported, data, recs, idx.getD d []⟩
  let here (r : Rela) : Option Nat := some r.off
  let data ← relocate (relasOf b.rela dataType 6 6) (value data₀ 0) here data₀
  let codes ← (List.range 2).mapM fun d =>
    relocate (relasOf b.rela codeType 1 3 ++ relasOf b.rela nelnathType 1 3) (value data d) (codePlace ported) full
  let tabs ← (List.range 2).mapM fun d => do
    let tm ← relocate (relasOf b.rela tmplType 5 5) (value data d) here tmpl
    let ne ← relocate (relasOf b.rela nelnathType 5 5) (value data d) here nel
    return records tm ne
  let ks := kernels.map (·.1)
  let tmplOf := kernels.map fun k => k.1.templates k.2 recs
  let images := (ks.flatMap fun k => k.images data).map fun x => (x.1, b.at_ dataType + x.2.2, (data.drop x.2.2).take x.2.1)
  guard (b.headerOk && b.rela.all (fun r => relaOk r b.rela b.section_ recs) &&
    native.all (fun k => k.ok code.length data.length && k.flags < 4) &&
    ported.all (fun p => p.desc.ok full.length data.length && p.source.flags < 4) &&
    tabs.all (fun l => l.all TRecord.ok) && tmplOf.all (fun l => l.all fun i => i < recs.length) &&
    idx.flatten.all (· < 65536) && (s.diesOf vi).all fun d => images.all fun x => s.imageFits vi d x.1 x.2.2.length)
  return { kdescs := ks, codes := codes, data := data, idx := idx
           templates := tabs.map fun l => l.map fun r => parseTemplate r.bytes, tmplOf := tmplOf, images := images }

/-- A kernel as it is placed. -/
def placedKernel (s : State) (vi h asid win i : Nat) (l : Loading) (k : KDesc) : Kernel :=
  let mine := l.tmplOf.getD i []
  { vi := vi, bundle := h, index := i, name := k.name, codelen := k.codelen, hbase := k.hbase, shared := k.shared
    spill := k.spill, expect := k.expect, vregs := k.vregs, args := k.args, priority := k.priority, race := k.race
    flags := k.flags, gen := k.gen, code := (List.range 2).map fun d => s.windowBase d win + k.entry, asid := asid
    tmpls := (List.range 2).map fun d => mine.map fun j => (l.idx.getD d []).getD j 0
    image := if k.imglen = 0 then [] else (l.data.drop k.imgoff).take k.imglen }

/-- Steps 3 to 6 of R326, of a bundle that a process loads from an address. -/
def placeBundle (s : State) (c : Call) (win : Nat) (bs : Bytes) (l : Loading) : State :=
  let h := s.bundles.length
  let bn : Bundle :=
    { vi := c.vi, asid := c.asid, live := true, digest := Config.sha256 bs, code := l.codes, window := win }
  let ks := l.kdescs.mapIdx fun i k => placedKernel s c.vi h c.asid win i l k
  let s := { s with bundles := s.bundles ++ [bn], kernels := s.kernels ++ ks }
  let s := (List.range 2).foldl (fun s d =>
    placeTemplates (placeCode s h bn d) d (l.idx.getD d []) (l.templates.getD d [])) s
  (s.diesOf c.vi).foldl (fun s d => l.images.foldl (fun s x =>
    placeImage s c.vi d x.1 (imageCut s c.proc c.vi d (c.arg 0 + x.2.1) x.1) x.2.2) s) s

/-! ### Calls (R316) -/

/-- BUNDLE_LOAD (R326): a0 the image's address, a1 its length. -/
def execBundleLoad (core : Nat) (s : State) : Host.Outcome State Fault Refusal :=
  sysCall s core 0x110 fun c =>
    match procRead s c.proc (c.arg 0) (c.arg 1) with
    | (s, none) => s
    | (s, some bs) =>
      match (parseBundle bs).bind (s.prepare c.vi), s.freeWindow c.asid with
      | some l, some win => ret (placeBundle s c win bs l) c.thread s.bundles.length
      | _, _ => ret s c.thread eINVAL

/-- A loaded bundle of an interface. -/
def State.liveBundle (s : State) (vi h : Nat) : Option Bundle :=
  (s.bundles[h]?).filter fun b => b.vi == vi && b.live

/-- BUNDLE_UNLOAD (R316), a0 the handle: BUSY while a launch of it is queued or running. -/
def execBundleUnload (core : Nat) (s : State) : Host.Outcome State Fault Refusal :=
  sysCall s core 0x111 fun c =>
    let h := c.arg 0
    match s.liveBundle c.vi h with
    | none => ret s c.thread eNOENT
    | some b =>
      if s.launches.any fun l => !l.isOver && (s.kernel l.kernel).vi == c.vi && (s.kernel l.kernel).bundle == h then
        ret s c.thread eBUSY
      else
        let off (k : Kernel) : Kernel := if k.vi == c.vi && k.bundle == h then { k with live := false } else k
        let s := { s with bundles := s.bundles.modify h fun b => { b with live := false }, kernels := s.kernels.map off }
        let s := (List.range 2).foldl (fun s d =>
          (dropTlb s d b.asid fun t => t.win == b.window).modDie d fun x =>
            { x with raf := x.raf.filter fun e => !(e.1 == b.asid && e.2.1 == b.window) }) s
        ret s c.thread 0

/-- The NUL-terminated name at an address of a process, as far as it is reached; none where the process does not reach a
byte of it. -/
def procName (s : State) (pi : Nat) : Nat → Nat → State × Option Bytes
  | 0, _ => (s, some [])
  | fuel + 1, va =>
    match procRead s pi va 1 with
    | (s, some [b]) =>
      if b = 0 then (s, some [])
      else match procName s pi fuel (va + 1) with
        | (s, some bs) => (s, some (b :: bs))
        | (s, none) => (s, none)
    | (s, _) => (s, none)

/-- The longest name of a loaded kernel, and its NUL. -/
def State.longestName (s : State) : Nat := (s.kernels.map fun k => k.name.length + 1).foldl Nat.max 1

/-- KERNEL_FIND (R316): a0 the handle, a1 the address of a name. -/
def execKernelFind (core : Nat) (s : State) : Host.Outcome State Fault Refusal :=
  sysCall s core 0x112 fun c =>
    match procName s c.proc s.longestName (c.arg 1) with
    | (s, none) => s
    | (s, some name) =>
      match s.kernels.find? fun k => k.live && k.vi == c.vi && k.bundle == c.arg 0 && k.name == name with
      | some k => ret s c.thread k.index
      | none => ret s c.thread eNOENT

end Sys2Proof.Machine
end

