-- ==== Sys2Proof/Machine/Calls.lean ====
section
/-!
DEFINITION. The system calls on launches, queues, buffers and requeueing, and the host's messages
(R261, R271, R302, R307, R310, R316, R318, R320, R322, R323).
-/

namespace Sys2Proof.Machine

/-! ### Launches (R307, R316, R318, R320) -/

/-- LAUNCH_SYSTEM_CALL (R316 to R318): a0 the record's address, a multiple of 64. DEDUCED, log 66. -/
def execLaunchSystemCall (core : Nat) (s : State) : Host.Outcome State Fault Refusal :=
  sysCall s core 0x100 fun c =>
    if c.arg 0 % 64 ≠ 0 then ret s c.thread eINVAL
    else match procRead s c.proc (c.arg 0) 384 with
      | (s, none) => s
      | (s, some record) =>
        match queueRecord s { vi := c.vi, proc := c.proc, thread := c.thread, asid := c.asid, entry := s.tick } record with
        | (s, .ok n) => ret s c.thread n
        | (s, .error reason) => ret s c.thread eREFUSED [reason]

/-- What launch_wait returns of a launch that is over. -/
def waitValue (l : Launch) : Int := if l.st = .complete then 0 else 1

/-- LAUNCH_WAIT (R316): a0 the launch, a1 the timeout in ns. -/
def execLaunchWait (core : Nat) (s : State) : Host.Outcome State Fault Refusal :=
  sysCall s core 0x101 fun c =>
    match s.findLaunch c.vi (c.arg 0) with
    | none => ret s c.thread eNOENT
    | some li =>
      if (s.launch li).isOver then ret s c.thread (waitValue (s.launch li))
      else
        let w : Waiter := { thread := c.thread, launch := li
                            until_ := if c.arg 1 = 0 then none else some (s.tick + c.arg 1) }
        { (s.modThread c.thread fun t => { t with waiting := true }) with waiters := s.waiters ++ [w] }

/-- LAUNCH_WAIT_TIMEOUT (R316). -/
def execLaunchWaitTimeout (thread : Nat) (s : State) : Host.Outcome State Fault Refusal :=
  let due (w : Waiter) : Bool := w.thread == thread && w.until_.any fun t => t ≤ s.tick
  .next (match s.waiters.find? due with
    | none => s
    | some w => ret { s with waiters := s.waiters.erase w } thread eTIMEOUT)

/-- LAUNCH_CANCEL (R320): a0 the launch. -/
def execLaunchCancel (core : Nat) (s : State) : Host.Outcome State Fault Refusal :=
  sysCall s core 0x102 fun c =>
    match s.findLaunch c.vi (c.arg 0) with
    | none => ret s c.thread eNOENT
    | some li => ret (if (s.launch li).isOver then s else cancelLaunch s li) c.thread 0

/-- The time record of a launch that is over (R307). -/
def timeRecord (l : Launch) : Bytes :=
  let end_ := l.tEnd.getD l.tQueued
  let placed := l.tPlaced.getD end_
  natLe 4 l.number ++ natLe 4 0 ++ natLe 8 (l.tQueued - l.tEntry) ++ natLe 8 (placed - l.tQueued) ++ natLe 8 l.tFault ++
    natLe 8 l.tWait ++ natLe 8 (end_ - placed - l.tFault - l.tWait)

/-- LAUNCH_TIME (R307): a0 the launch, a1 the buffer; the record is there once the launch is over. -/
def execLaunchTime (core : Nat) (s : State) : Host.Outcome State Fault Refusal :=
  sysCall s core 0x103 fun c =>
    match s.findLaunch c.vi (c.arg 0) with
    | none => ret s c.thread eNOENT
    | some li =>
      if !(s.launch li).isOver then ret s c.thread eBUSY
      else match procWrite s c.proc (c.arg 1) (timeRecord (s.launch li)) with
        | (s, none) => s
        | (s, some _) => ret s c.thread 0

/-! ### Queues (R316) -/

/-- QUEUE_OPEN (R316), a0 the class: the lowest closed queue opens. -/
def execQueueOpen (core : Nat) (s : State) : Host.Outcome State Fault Refusal :=
  sysCall s core 0x104 fun c =>
    if 7 < c.arg 0 then ret s c.thread eINVAL
    else match (List.range 64).find? fun q => !((s.vi c.vi).queues.getD q ⟨0, true⟩).open_ with
      | none => ret s c.thread eFULL
      | some q => ret (s.modVi c.vi fun v => { v with queues := v.queues.set q ⟨c.arg 0, true⟩ }) c.thread q

/-- QUEUE_CLOSE (R316), a0 the queue: BUSY while records remain. DEDUCED, log 67. -/
def execQueueClose (core : Nat) (s : State) : Host.Outcome State Fault Refusal :=
  sysCall s core 0x105 fun c =>
    let q := c.arg 0
    if !((s.vi c.vi).queues.getD q ⟨0, false⟩).open_ then ret s c.thread eNOENT
    else if !(s.inQueue c.vi q).isEmpty then ret s c.thread eBUSY
    else ret (s.modVi c.vi fun v => { v with queues := v.queues.modify q fun x => { x with open_ := false } }) c.thread 0

/-! ### Buffers and requeueing (R261, R271, R302) -/

/-- A run of scratchpad that every die of an interface has. -/
def State.bufferFits (s : State) (vi addr n : Nat) : Bool := (s.diesOf vi).all fun d => s.imageFits vi d addr n

/-- RACE_CONFIG (R261): a0 the buffer's base, a1 RBLEN. -/
def execRaceConfig (core : Nat) (s : State) : Host.Outcome State Fault Refusal :=
  sysCall s core 0x130 fun c =>
    if c.arg 0 % 64 ≠ 0 || !s.bufferFits c.vi (c.arg 0) (64 * c.arg 1) then ret s c.thread eINVAL
    else ret (s.modVi c.vi fun v =>
      { v with raceBase := some (BitVec.ofNat 32 (c.arg 0)), rblen := c.arg 1, raceW := 0, raceR := 0 }) c.thread 0

/-- The buffer of every wave slot of the interface's cores begins anew: its header reads zero, and nothing is counted in
it (R302). -/
def clearBuffers (s : State) (vi base tbsize : Nat) : State :=
  (List.range 2).foldl (fun s d => (s.owned vi d).foldl (fun s c =>
    let at_ (slot : Nat) : Nat := s.scratchPhys vi d (base + tbsize * (128 * (s.owned vi d).idxOf c + slot))
    let s := s.modDie d fun x =>
      { x with scratch := (List.range 128).foldl (fun m slot => m.clear (at_ slot) (at_ slot + 16)) x.scratch }
    s.modCore d c fun x =>
      { x with traceLost := List.replicate 128 0, traceBytes := List.replicate 128 0 }) s) s

/-- TRACE_CONFIG (R302): a0 the base, a1 TBSIZE. -/
def execTraceConfig (core : Nat) (s : State) : Host.Outcome State Fault Refusal :=
  sysCall s core 0x131 fun c =>
    let base := c.arg 0
    let tbsize := c.arg 1
    let need (d : Nat) : Nat := 128 * (s.owned c.vi d).length * tbsize
    if base % 4096 ≠ 0 || tbsize % 64 ≠ 0 || tbsize < 256 || 65536 < tbsize ||
        !((s.diesOf c.vi).all fun d => s.imageFits c.vi d base (need d)) then ret s c.thread eINVAL
    else ret ((clearBuffers s c.vi base tbsize).modVi c.vi fun v =>
      { v with traceBase := some (BitVec.ofNat 32 base), tbsize := tbsize }) c.thread 0

/-- REQUEUE (R271), a0 the launch, a1 the block: a reported block is queued again as unstarted. -/
def execRequeue (core : Nat) (s : State) : Host.Outcome State Fault Refusal :=
  sysCall s core 0x140 fun c =>
    match s.findLaunch c.vi (c.arg 0) with
    | none => ret s c.thread eNOENT
    | some li =>
      match (s.launch li).blocks.find? fun bi => (s.block bi).lin == c.arg 1 && (s.block bi).st == .reported with
      | none => ret s c.thread eNOENT
      | some bi =>
        let now := s.tick
        ret (s.modBlock bi fun b => { b with st := .unstarted, requeued := some now }) c.thread 0

/-! ### Messages (R310, R321 to R323) -/

/-- The function that is no interface: the physical function. DESIGN CHOICE, log 71. -/
def physical : Nat := 64

/-- A reply: its status, 0 or an error code of R316, and what follows; the state word says so, and MSI-X vector 0 is
raised. DESIGN CHOICE, log 71. -/
def reply (s : State) (vi : Nat) (status : Int) (more : Bytes) : State :=
  (s.modVi vi fun v => { v with msgState := 2, msgWait := none, reply := wordLe (wordOf status) ++ more }).post (.msix vi)

/-- Messages that are served before step 6 of the boot: the physical function's STATUS and ATTEST (R310, R321). -/
def State.servesNow (s : State) (vi : Nat) (early : Bool) : Bool := s.boot = 6 || (early && vi == physical && 2 ≤ s.boot)

/-- The host posts a request, its type, the length of its fields and the fields: it is served, or waits; one that finds the
window in use is ignored and counted (R310). DESIGN CHOICE, log 71. -/
def postMessage (s : State) (vi : Nat) (i : Instr) (typ : Nat) (fields : Bytes) (early : Bool) (serve : State → State) :
    State :=
  if (s.vi vi).msgState ≠ 0 then s.modVi vi fun v => { v with msgIgnored := v.msgIgnored + 1 }
  else
    let s := s.modVi vi fun v => { v with msgState := 1, request := natLe 4 typ ++ natLe 4 fields.length ++ fields }
    if s.servesNow vi early then serve s else s.modVi vi fun v => { v with msgWait := some i }

/-- A process's memory as its bundle gives it: its loadable segments at their addresses (R324). DESIGN CHOICE, log 86. -/
def segmentMem (segs : List Segment) : Memory := segs.foldl (fun m g => m.writeN g.va (g.bytes.take g.size)) []

/-- START: a process is created from a bundle image in host memory, with a thread at the entry of its control program.
An interface with no cores cannot be started (R310, R311, R324). The ASID is Chanter's choice. DEDUCED, logs 67 and 87. -/
def serveStart (vi addr len asid : Nat) (s : State) : State :=
  let bs := s.hostMem.readN addr len
  match (parseBundle bs).filter BundleImage.headerOk with
  | none => reply s vi eINVAL []
  | some b =>
    if (s.vi vi).desc.cores.isEmpty then reply s vi eINVAL []
    else if !s.asidFree vi asid then reply s vi eFULL []
    else
      let p : Process := { vi := vi, asid := asid, bundle := bs, mem := segmentMem b.segments }
      let n := s.procs.length
      reply (spawnThread { s with procs := s.procs ++ [p] } n (BitVec.ofNat 64 b.entry)) vi 0 (natLe 4 n)

/-- A process of an interface. -/
def State.procOf (s : State) (vi proc : Nat) : Option Process := (s.procs[proc]?).filter fun p => p.vi == vi || vi == physical

/-- SIGNAL (R310). -/
def serveSignal (vi proc sig : Nat) (s : State) : State :=
  match s.procOf vi proc with
  | none => reply s vi eNOENT []
  | some _ => reply (s.modProc proc fun p => { p with signals := p.signals ++ [sig] }) vi 0 []

/-- STATUS (R310). -/
def serveStatus (vi proc : Nat) (s : State) : State :=
  match s.procOf vi proc with
  | none => reply s vi eNOENT []
  | some p => reply s vi 0 (natLe 4 (if p.alive then 1 else 0) ++ natLe 4 p.exit)

/-- An attestation report (R323). -/
def State.report (s : State) (target : Nat) (nonce : Bytes) : Bytes :=
  let slot := s.flash.getD (s.bootSlot.getD 0) default
  nonce ++ Config.serial ++ natLe 4 (2 ^ 28 + 2 ^ 24 + s.locnOf 0) ++ natLe 4 (2 ^ 28 + 2 ^ 24 + s.locnOf 1) ++
    slot.digests.flatten ++ natLe 4 slot.rollback ++
    ((s.bundles.filter fun b => b.vi == target && b.live).map (·.digest)).flatten

/-- ATTEST: the next leaf index is written to the flash before the signature is made (R323). -/
def serveAttest (vi target : Nat) (nonce : Bytes) (s : State) : State :=
  if (target ≠ vi && vi ≠ physical) || Config.hssLeaves ≤ s.leaf.value then reply s vi ePERM []
  else
    let n := s.leaf.value
    let r := s.report target nonce
    reply { s with leaf := s.leaf.write (n + 1) } vi 0 (r ++ Config.hssSign n r)

/-- RECOVERED: the launch number and the linear index of each reported block (R310). -/
def serveRecovered (vi : Nat) (s : State) : State :=
  let mine := s.blocks.filter fun b => b.st == .reported && ((s.launch b.launch).vi == vi || vi == physical)
  reply s vi 0 (mine.map fun b => natLe 4 (s.launch b.launch).number ++ natLe 4 b.lin).flatten

/-- START (R310). -/
def execStart (vi addr len asid : Nat) (s : State) : Host.Outcome State Fault Refusal :=
  .next (postMessage s vi (.start vi addr len asid) 1 (natLe 8 addr ++ natLe 8 len) false (serveStart vi addr len asid))

/-- SIGNAL (R310). -/
def execSignal (vi proc sig : Nat) (s : State) : Host.Outcome State Fault Refusal :=
  .next (postMessage s vi (.signal vi proc sig) 2 (natLe 4 proc ++ natLe 4 sig) false (serveSignal vi proc sig))

/-- STATUS (R310, R321). -/
def execStatus (vi proc : Nat) (s : State) : Host.Outcome State Fault Refusal :=
  .next (postMessage s vi (.status vi proc) 3 (natLe 4 proc) true (serveStatus vi proc))

/-- ATTEST (R310, R321, R323). -/
def execAttest (vi target : Nat) (nonce : Bytes) (s : State) : Host.Outcome State Fault Refusal :=
  .next (postMessage s vi (.attest vi target nonce) 4 (nonce ++ natLe 4 target) true (serveAttest vi target nonce))

/-- RECOVERED (R271, R310). -/
def execRecovered (vi : Nat) (s : State) : Host.Outcome State Fault Refusal :=
  .next (postMessage s vi (.recovered vi) 5 [] false (serveRecovered vi))

/-- A message that waited is served (R321). -/
def serveWaiting (s : State) (vi : Nat) : State :=
  match (s.vi vi).msgWait with
  | some (.start _ addr len asid) => serveStart vi addr len asid s
  | some (.signal _ proc sig) => serveSignal vi proc sig s
  | some (.status _ proc) => serveStatus vi proc s
  | some (.attest _ target nonce) => serveAttest vi target nonce s
  | some (.recovered _) => serveRecovered vi s
  | _ => s

/-- The physical function's STATUS or ATTEST that waited is served from step 3 on (R310, R321). -/
def serveEarly (s : State) : State :=
  match (s.vi physical).msgWait with
  | some (.status _ _) => serveWaiting s physical
  | some (.attest _ _ _) => serveWaiting s physical
  | _ => s

/-- RESOURCE_DESCRIPTOR_REQUEST: limits of R311. -/
def State.descOk (s : State) (vi : Nat) (d : ViDesc) : Bool :=
  let others := (List.range 64).filter fun i => i != vi
  d.cores.all (fun c => c.die < 2 && c.core < 96) && d.cores.Nodup && d.hbmShare.all (· ≤ 255) && d.hbmShare.length ≤ 8 &&
    d.ports.all (· < 72) && d.fabric.all (fun o => o.1 < 1024 && o.2 < 2) && d.spslot ≤ 8192 && d.spslot % 128 == 0 &&
    d.hdm ≤ 256 && 1 ≤ d.asids && raceCode d.raceMin ≤ raceCode d.raceDef && raceCode d.raceDef ≤ raceCode d.raceMax &&
    (others.all fun i => !((s.vi i).desc.cores.any d.cores.contains)) &&
    d.asids + (others.map fun i => (s.vi i).desc.asids).sum ≤ 4096

/-- RESOURCE_DESCRIPTOR_REQUEST (R311): the descriptor changes only while none of the interface's processes exist. -/
def execResourceDescriptorRequest (vi : Nat) (desc : ViDesc) (s : State) : Host.Outcome State Fault Refusal :=
  .next (if 4 ≤ s.boot && s.descOk vi desc && !(s.procs.any fun p => p.vi == vi && p.alive) then
      s.modVi vi fun v => { v with desc := desc }
    else s)

end Sys2Proof.Machine
end

