-- ==== Sys2Proof/Machine/Outside.lean ====
section
/-!
DEFINITION. What Chanter, the host, the fabric and the management port do to the module: region attributes, discarding,
eviction, TLB invalidation, links, peer requests, system-core and CXL.mem accesses, register writes, and storage errors
(R3, R145, R149, R238, R261, R263, R275 to R280, R283, R286, R295, R302, R309, R310, R313, R314, R316, R322).
-/

namespace Sys2Proof.Machine

/-! ### Region attributes and discarding (R275, R276, R279, R316) -/

/-- A move that may have used a translation of a die has its writes still on the way there (R278). -/
def State.writesDue (s : State) (die : Nat) : Bool :=
  s.accs.any fun a => a.kind == .engine && a.st == .module_ && a.dest == .main && a.die == die

/-- An entry as it is written: its reserved bits stay zero (R3, R275). -/
def rafWritten (e : BitVec 128) : BitVec 128 := BitVec.ofNat 128 (bitsOf e.toNat 46 82 * 2 ^ 46 + bitsOf e.toNat 2 8 * 4 + bitsOf e.toNat 0 1)

/-- Every translation of a window is invalidated at the die's sites, and then its entry changes (R276). -/
def setRaf (s : State) (die win asid : Nat) (e : Option (BitVec 128)) : State :=
  (dropTlb s die asid fun t => t.win == win).modDie die fun d =>
    let others := d.raf.filter fun x => !(x.1 == asid && x.2.1 == win)
    { d with raf := (e.map fun e => (asid, win, e)).toList ++ others }

/-- MAP (R275, R276): a0 the window, of die a0 / 64; a1 and a2 the halves of the entry; a3 the ASID, which the interface
holds live. It takes place once the invalidation may complete. DEDUCED, log 68. -/
def execMap (core : Nat) (s : State) : Host.Outcome State Fault Refusal :=
  sysCall s core 0x120 fun c =>
    let die := c.arg 0 / 64
    let entry := BitVec.ofNat 128 (c.arg 1 + c.arg 2 * 2 ^ 64)
    if 2 ≤ die then ret s c.thread eINVAL
    else if !(s.liveAsids c.vi).contains (c.arg 3) then ret s c.thread ePERM
    else if s.writesDue die then s
    else ret (setRaf s die (c.arg 0 % 64) (c.arg 3) (some (rafWritten entry))) c.thread 0

/-- UNMAP (R276): a0 the window, as in MAP; a1 the ASID. -/
def execUnmap (core : Nat) (s : State) : Host.Outcome State Fault Refusal :=
  sysCall s core 0x121 fun c =>
    let die := c.arg 0 / 64
    if 2 ≤ die then ret s c.thread eINVAL
    else if !(s.liveAsids c.vi).contains (c.arg 1) then ret s c.thread ePERM
    else if s.writesDue die then s
    else ret (setRaf s die (c.arg 0 % 64) (c.arg 1) none) c.thread 0

/-- Set DSC on the leaf of a mapped page, whose translation is invalidated, and forget what was evicted of it (R279). -/
def discardPage (s : State) (die asid page : Nat) : State :=
  let s := { s with evicted := s.evicted.filter fun x => !(x.1 == asid && x.2.1 == page) }
  match s.leafOf die asid page with
  | none => s
  | some a =>
    let x := leNat ((s.die die).hbm.readN a 8)
    if entryOk x then
      (dropTlb s die asid fun t => t.leaf == a).modDie die fun d =>
        { d with hbm := d.hbm.writeN a (natLe 8 (x - 4 * bitsOf x 2 1 + 4)) }
    else s

/-- DISCARD (R279): a0 the address, a1 the length; the whole pages that the range covers of one DISC region of the
process's ASID. DEDUCED, log 68. -/
def execDiscard (core : Nat) (s : State) : Host.Outcome State Fault Refusal :=
  sysCall s core 0x122 fun c =>
    let va := c.arg 0
    let len := c.arg 1
    let o := owner va
    if o.1 ≠ s.moduleNo || !s.mayName c.vi o || 2 ^ 57 ≤ va then ret s c.thread eINVAL
    else match s.regionOf o.2 c.asid va with
      | none => ret s c.thread eINVAL
      | some e =>
        let size := 2 ^ pageBits e
        if !e.getLsbD 6 || len = 0 || rafLimit e < (offsetOf va + len - 1) / 4096 then ret s c.thread eINVAL
        else if s.writesDue o.2 then s
        else
          let first := (va + size - 1) / size
          let pages := (List.range ((va + len) / size - first)).map fun k => (first + k) * size
          ret (pages.foldl (fun s p => discardPage s o.2 c.asid p) s) c.thread 0

/-! ### Eviction (R280) -/

/-- A launch with a placed block, not over. -/
def State.placedLaunch (s : State) (li : Nat) : Bool :=
  !(s.launch li).isOver && (s.launch li).blocks.any fun b => (s.block b).st == .placed

/-- Launches that are queued and of which nothing is placed. -/
def State.waiting (s : State) (li : Nat) : Bool := !(s.launch li).isOver && !s.placedLaunch li

/-- Records before a launch in its queue. -/
def State.placeInQueue (s : State) (li : Nat) : Nat :=
  let l := s.launch li
  ((s.inQueue l.vi l.queue).filter (· < li)).length

/-- Of two launches that wait for nothing, the distributor would serve `x` before `y` (R27): the higher class, then the
earlier place in its queue, then the round. -/
def State.servesFirst (s : State) (x y : Nat) : Bool :=
  if s.classOf x ≠ s.classOf y then s.classOf y < s.classOf x
  else if s.placeInQueue x ≠ s.placeInQueue y then s.placeInQueue x < s.placeInQueue y
  else if s.turnOf x ≠ s.turnOf y then s.turnOf x < s.turnOf y
  else x < y

/-- A launch that waits for none of `rest`: neither by its dependences nor as the head of its queue (R27). -/
def State.freeOf (s : State) (rest : List Nat) (li : Nat) : Bool :=
  let l := s.launch li
  !rest.any fun x => l.deps.contains x ||
    (x < li && (s.launch x).vi == l.vi && (s.launch x).queue == l.queue)

/-- The order in which the distributor would serve waiting launches (R27, R280). DESIGN CHOICE, log 69. -/
def State.serveOrder (s : State) : Nat → List Nat → List Nat
  | 0, _ => []
  | n + 1, rest =>
    let best := (rest.filter (s.freeOf rest)).foldl (fun (acc : Option Nat) li => match acc with
      | none => some li
      | some x => if s.servesFirst li x then some li else some x) none
    match best with
    | none => []
    | some li => li :: s.serveOrder n (rest.erase li)

/-- A declared range: ASID, first address, and the address after its end. -/
structure Declared where
  asid : Nat
  lo : Nat
  hi : Nat
  deriving DecidableEq, Repr

def State.declared (s : State) (li : Nat) : List Declared :=
  (s.launch li).ranges.map fun r => ⟨(s.launch li).asid, r.1, r.1 + r.2⟩

/-- Rank of the first waiting launch that declares a range; none: it counts as never used. -/
def State.nextUse (s : State) (r : Declared) : Option Nat :=
  let w := (List.range s.launches.length).filter s.waiting
  (s.serveOrder w.length w).findIdx? fun li => (s.declared li).contains r

def Declared.meets (a b : Declared) : Bool := a.asid == b.asid && a.lo < b.hi && b.lo < a.hi

/-- The range overlaps what a placed launch declares. -/
def State.inUse (s : State) (r : Declared) : Bool :=
  (List.range s.launches.length).any fun li => s.placedLaunch li && (s.declared li).any r.meets

/-- Pages of host-backed regions of a die that a range touches: address, size and leaf. -/
def State.hostPages (s : State) (die : Nat) (r : Declared) : List (Nat × Nat × Nat) :=
  (s.die die).raf.flatMap fun x =>
    let e := x.2.2
    let size := 2 ^ pageBits e
    let base := s.windowBase die x.2.1
    let lo := Nat.max r.lo (base + rafBase e * 4096)
    let hi := Nat.min r.hi (base + (rafLimit e + 1) * 4096)
    if x.1 == r.asid && rafValid e && e.getLsbD 5 && lo < hi then
      (List.range ((hi + size - 1) / size - lo / size)).filterMap fun k =>
        let page := (lo / size + k) * size
        (s.leafOf die r.asid page).map fun a => (page, size, a)
    else []

/-- Of those, the pages that are in HBM and may go. -/
def State.residentPages (s : State) (die : Nat) (r : Declared) : List (Nat × Nat × Nat) :=
  (s.hostPages die r).filter fun p =>
    entryOk (leNat ((s.die die).hbm.readN p.2.2 8)) && !s.inUse ⟨r.asid, p.1, p.1 + p.2.1⟩

/-- Where Chanter keeps a page in host memory. DESIGN CHOICE, log 69. -/
def hostPlace (asid page : Nat) : Nat := asid * 2 ^ 57 + page

/-- One page goes to host memory: V is cleared, its translation invalidated, its bytes copied. A discarded page reads as
zeros (R279, R280). DESIGN CHOICE, log 69. -/
def evictPage (s : State) (die asid : Nat) (p : Nat × Nat × Nat) : State :=
  let m := (s.die die).hbm
  let x := leNat (m.readN p.2.2 8)
  let bs := if bitsOf x 2 1 = 1 then List.replicate p.2.1 0 else m.readN (bitsOf x 12 27 * 4096) p.2.1
  let h := hostPlace asid p.1
  let s := (dropTlb s die asid fun t => t.leaf == p.2.2).modDie die fun d =>
    { d with hbm := d.hbm.writeN p.2.2 (natLe 8 (x - 1)) }
  { s with hostMem := (s.hostMem.clear h (h + p.2.1)).writeN h bs
           evicted := (asid, p.1, h) :: s.evicted.filter fun y => !(y.1 == asid && y.2.1 == p.1) }

/-- A range is evicted before another: its next use is farther ahead; then the lower ASID, then the lower address. -/
def State.evictedFirst (s : State) (a b : Declared) : Bool :=
  match s.nextUse a, s.nextUse b with
  | none, some _ => true
  | some _, none => false
  | some x, some y => if x ≠ y then y < x else a.asid < b.asid || (a.asid == b.asid && a.lo < b.lo)
  | none, none => a.asid < b.asid || (a.asid == b.asid && a.lo < b.lo)

/-- The declared range that goes. -/
def State.victim (s : State) (die : Nat) : Option Declared :=
  let rs := ((List.range s.launches.length).flatMap s.declared).filter fun r =>
    !s.inUse r && !(s.residentPages die r).isEmpty
  rs.foldl (fun best r => match best with
    | none => some r
    | some b => if s.evictedFirst r b then some r else some b) none

/-- EVICTION (R280): one declared range goes, once the invalidation may complete. -/
def execEviction (die : Nat) (s : State) : Host.Outcome State Fault Refusal :=
  .next (if s.writesDue 0 || s.writesDue 1 then s
    else match s.victim die with
      | none => s
      | some r => (List.range 2).foldl (fun s d =>
          (s.residentPages d r).foldl (fun s p => evictPage s d r.asid p) s) s)

/-- TLB_INVALIDATE (R278): it completes once every move that used the entry has been appended. A move reads its source
and sends its writes in one step. -/
def execTlbInvalidate (die site k : Nat) (s : State) : Host.Outcome State Fault Refusal :=
  .next (match ((s.die die).tlb.getD site [])[k]? with
    | none => s
    | some t =>
      let used (a : Acc) : Bool := a.kind == .engine && a.st == .module_ && a.dest == .main && a.die == die &&
        a.lanes.any fun l => t.frame ≤ l.addr && l.addr < t.frame + 2 ^ t.size
      if s.accs.any used then s
      else s.modDie die fun d => { d with tlb := d.tlb.modify site fun l => l.eraseIdx k })

/-! ### The fabric (R196, R199, R202, R313, R314) -/

/-- LINK_DOWN (R314): copies whose route has no port left fail when they next move. -/
def execLinkDown (port : Nat) (s : State) : Host.Outcome State Fault Refusal :=
  .next { s with ports := s.ports.filter (· != port) }

/-- A peer's request is translated at its owner die (R8, R274, R313), and carried out or answered. DEDUCED, log 70. -/
def atOwner (s : State) (asid va : Nat) (want : Want) (f : State → Nat → Nat → Bool → State) : State :=
  let o := owner va
  if o.1 ≠ s.moduleNo then s
  else match translate s o.2 asid va want with
    | (s, .frame pa dsc) => f s o.2 pa dsc
    | (s, .unmapped) => s.post (.answer .unmapped [])
    | (s, .perm) => s.post (.answer .perm [])
    | (s, .miss) => (postFault s o.2 asid va want none).post (.answer .wait [])

/-- What a peer reads at a translated address: a discarded page counts for the interface that holds the ASID (R279).
DEDUCED, log 70. -/
def peerRead (s : State) (die asid pa n : Nat) (dsc : Bool) : State × Bytes :=
  match s.procs.find? fun p => p.alive && p.asid == asid with
  | some p => mainRead s p.vi die pa n dsc
  | none => (s, if dsc then List.replicate n 0 else (s.die die).hbm.readN pa n)

/-- Elements of an ALL-GATHER arrive from another module at the copy that they are for (R197). -/
def deliverPeer (s : State) (die vi a : Nat) (bs : Bytes) : State :=
  let mine (i : Nat) : Bool :=
    let c := s.copy i
    c.t.mode == .agather && c.st == .active && c.die == die && c.vi == vi && c.t.dst ≤ a &&
      a + bs.length ≤ c.t.dst + 4 * c.t.elements * c.ring.length
  match (List.range s.copies.length).find? mine with
  | none => s
  | some ci =>
    let c := s.copy ci
    receive (wroteLine (appendLine s (.scratch vi die) c.blk none (a / 64) [{ lane := 0, addr := a, data := bs }]) ci (a / 64)) ci
      ((a - c.t.dst) / (4 * Nat.max 1 c.t.elements)) bs.length

/-- A peer die gives the source words of its copy to the matching copies here (R197). DEDUCED, log 51. -/
def contribute (s : State) (peer tmpl n : Nat) (ws : List Word) : State :=
  let give (c : Copy) : Copy :=
    if c.t.mode == .rscatter && c.st == .active && c.tix == tmpl && c.nth == n && c.ring.contains peer then
      { c with supplied := setNat c.supplied (c.ring.idxOf peer) ws }
    else c
  { s with copies := s.copies.map give }

/-- A peer die has accepted that many collective copies of a template index (R196). -/
def acceptPeer (s : State) (peer tmpl n : Nat) : State :=
  let old := ((s.peers.find? fun x => x.1 == peer && x.2.1 == tmpl).map (·.2.2)).getD 0
  { s with peers := (peer, tmpl, Nat.max old n) :: s.peers.filter fun x => !(x.1 == peer && x.2.1 == tmpl) }

/-- FABRIC_REQUEST (R313). -/
def execFabricRequest (r : FabReq) (s : State) : Host.Outcome State Fault Refusal :=
  .next (match r with
    | .write asid va bs =>
      if inLine va bs.length then
        atOwner s asid va .write fun s die pa dsc => (mainWrite s die asid va pa dsc bs).post (.answer .ok [])
      else s
    | .read asid va n =>
      if inLine va n then
        atOwner s asid va .read fun s die pa dsc =>
          let r := peerRead s die asid pa n dsc
          r.1.post (.answer .ok r.2)
      else s
    | .counter asid va inc note failed =>
      if va % 8 = 0 then
        atOwner s asid va .write fun s die pa dsc =>
          (countMain s asid die va pa dsc inc note failed).post (.answer .ok [])
      else s
    | .accepted peer tmpl n => acceptPeer s peer tmpl n
    | .deliver die vi addr bs => if inLine addr.toNat bs.length then deliverPeer s die vi addr.toNat bs else s
    | .contribute peer tmpl n ws => contribute s peer tmpl n ws)

/-! ### CXL.mem (R309) -/

/-- CXL_MEM_REQUEST (R309, R311): within the interface's range. DESIGN CHOICE, log 72. -/
def execCxlMemRequest (vi off : Nat) (data : Option Bytes) (n : Nat) (s : State) : Host.Outcome State Fault Refusal :=
  let size := (s.vi vi).desc.hdm * 2 ^ 30
  .next (match data with
    | some bs => if off + bs.length ≤ size then s.modVi vi fun v => { v with hdm := v.hdm.writeN off bs } else s
    | none => if off + n ≤ size then s.post (.data ((s.vi vi).hdm.readN off n)) else s)

/-! ### Register writes (R3 and the rules named) -/

/-- FLOOR as it is written: code 3 as 2 (R283). -/
def floorWritten (v : Nat) : Nat := Nat.min 2 (bitsOf v 2 2)

/-- CMPCTL as it is written: reserved bits zero, LEN 7 as 6 (R295). -/
def cmpCtlWritten (v : Nat) : Word :=
  BitVec.ofNat 32 (bitsOf v 30 2 * 2 ^ 30 + Nat.min 6 (bitsOf v 4 3) * 16 + bitsOf v 0 2)

/-- A region descriptor as it is written (R145). -/
def regionWritten (v : Nat) : Word := BitVec.ofNat 32 (bitsOf v 31 1 * 2 ^ 31 + bitsOf v 0 24)

/-- A route entry: four bytes, each with bit 7 set where it names a port. DEDUCED, log 73. -/
def routeWritten (v : Nat) : List Nat :=
  (List.range 4).filterMap fun i => if bitsOf v (8 * i + 7) 1 = 1 then some (bitsOf v (8 * i) 7) else none

def setCmp (s : State) (die core i : Nat) (f : Comparator → Comparator) : State :=
  s.modCore die core fun c => { c with cmps := c.cmps.modify i f }

/-- The reader's word of a slot's trace buffer, through the interface that owns the core (R302). -/
def setTraceRead (s : State) (die core slot v : Nat) : State :=
  match (List.range 64).find? fun vi => (s.vi vi).desc.cores.contains ⟨die, core⟩ with
  | none => s
  | some vi => match (s.vi vi).traceBase with
    | none => s
    | some b =>
      s.scratchPut vi die (b.toNat + (s.vi vi).tbsize * (128 * (s.owned vi die).idxOf core + slot) + 4) (natLe 4 v)

/-- The state word of a message window: idle once the reply is read; 1 while it is in use is counted (R310). -/
def setMsgState (s : State) (vi v : Nat) : State :=
  s.modVi vi fun x =>
    if v = 0 && x.msgState = 2 then { x with msgState := 0 }
    else if v = 1 && x.msgState ≠ 0 then { x with msgIgnored := x.msgIgnored + 1 }
    else x

/-- REGISTER_WRITE (R3). DEDUCED, log 73. -/
def execRegisterWrite (r : HubReg) (v : Nat) (s : State) : Host.Outcome State Fault Refusal :=
  .next (match r with
    | .stopFloor cl => s.modCluster cl fun c => { c with floor := floorWritten v }
    | .weight cl i => if i < 64 then s.modCluster cl fun c => { c with weightsNew := setNat c.weightsNew i (bitsOf v 0 12) } else s
    | .cmpAddr die core i => setCmp s die core i fun c => { c with addr := BitVec.ofNat 32 v }
    | .cmpCtl die core i => setCmp s die core i fun c => { c with ctl := cmpCtlWritten v }
    | .cmpLaunch die core i => setCmp s die core i fun c => { c with launch := BitVec.ofNat 32 v }
    | .region vi die i => s.modVi vi fun x => { x with regions := x.regions.modify die fun l => l.set i (regionWritten v) }
    | .raceRead vi => s.modVi vi fun x => { x with raceR := v }
    | .traceRead die core slot => if slot < 128 then setTraceRead s die core slot v else s
    | .msgState vi => setMsgState s vi v
    | .route vi m => if m < 1024 then s.modVi vi fun x => { x with routes := setNat x.routes m (routeWritten v) } else s
    | .attached => { s with attached := v != 0 }
    | .brkPolicy tag => { s with brkGo := (if v = 0 then [] else [tag]) ++ s.brkGo.filter (· != tag) }
    | .readOnly => s)

/-! ### Errors of storage (R238, R263) -/

/-- The die whose storage holds a line. -/
def State.keyDie (s : State) : LineKey → Nat
  | .scratch die _ => die
  | .shared b _ => (s.block b).die
  | .spill w _ => (s.wave w).part.die
  | .wave w => (s.waveBlock w).die
  | .ckpt b => (s.block b).die
  | .main die _ => die

/-- A line is marked with its SOFT code, and the mark is reported (R238). -/
def markLine (s : State) (key : LineKey) (code : Nat) : State :=
  (s.modDie (s.keyDie key) fun d => { d with marked := (key, code) :: d.marked.filter fun m => m.1 != key }).post (.marked key)

/-- The newest valid slot of a line does not read back. -/
def breakSlot (s : State) (key : LineKey) : State :=
  let die := s.keyDie key
  let l := s.feltLine die key
  let l := match newestOf FeltSlot.valid l.a l.b with
    | none => l
    | some x => if l.a = some x then { l with a := some x.broken } else { l with b := some x.broken }
  s.modDie die fun d => { d with felt := l :: d.felt.filter fun x => x.key != key }

/-- The watermark of a granule is LOST (R263). -/
def loseWatermark (s : State) (key : LineKey) : State :=
  match key with
  | .scratch die l => s.setWatermark ⟨none, die, l, 0⟩ { st := .lost }
  | .shared b l => s.setWatermark ⟨some b, (s.block b).die, l, 0⟩ { st := .lost }
  | _ => s

/-- UNCORRECTABLE_ERROR (R238, R263). DEDUCED, log 62. -/
def execUncorrectableError (t : ErrTarget) (s : State) : Host.Outcome State Fault Refusal :=
  .next (match t with
    | .regSlot w d => if ((s.wave w).reg d).isV then s.modWave w fun x => { x with badRegs := (d, 1) :: x.badRegs } else s
    | .line key => match key with
      | .shared .. => markLine s key 2
      | .scratch .. => markLine s key 3
      | .spill .. => markLine s key 3
      | .main .. => markLine s key 0
      | _ => s
    | .log ai =>
      let op := (s.acc ai).op
      s.modWave (s.acc ai).wave fun x => { x with badOps := op :: x.badOps }
    | .felt key =>
      let s := breakSlot s key
      match key with
      | .wave _ => s
      | .ckpt _ => s
      | _ => markLine s key 5
    | .watermark key => loseWatermark s key)

/-! ### The management port (R322) -/

/-- SELECT_SLOT (R322). -/
def execSelectSlot (slot : Nat) (s : State) : Host.Outcome State Fault Refusal := .next { s with slotSel := s.slotSel.write slot }

/-- RAISE_ROLLBACK_MINIMUM (R322). -/
def execRaiseRollbackMinimum (v : Nat) (s : State) : Host.Outcome State Fault Refusal :=
  .next { s with rollbackMin := Nat.max s.rollbackMin v }

end Sys2Proof.Machine
end

