-- ==== Sys2Proof/Machine/Power.lean ====
section
/-!
DEFINITION. Power and temperature: windows and the actions of Bellows, rail and clock steps, the guard step, budget
leases, HBM refresh and thermal allowances (R281 to R293).
-/

namespace Sys2Proof.Machine

/-! ### The cluster's power and budget (R285, R286, R290) -/

/-- VMIN of a clock step, in units of 100 MHz (R282). -/
def vmin (step : Nat) : Nat := Nat.min (Config.fusedVmin step) (Config.vminCap step)

/-- WGTi in force: as written, or the fused default (R286). -/
def ClusterState.weight (c : ClusterState) (i : Nat) : Nat := (lookupNat c.weights i).getD (Config.fusedWeight i % 4096)

/-- The dynamic part of the estimate, in units of 1/64 mW (R285). -/
def dynamicPower (c : ClusterState) (n : Nat → Nat) : Nat :=
  ((List.range 64).map fun i => c.weight i * Nat.min 65535 (n i)).sum

/-- Occurrences of an event in a cluster's window: those of its 16 cores; a gated core counts none (R285).
DESIGN CHOICE, log 14. -/
def State.activity (s : State) (cl i : Nat) : Nat :=
  (((clusterCores (cl % 6)).filter fun core => (s.core (cl / 6) core).gate != .gated).map fun core =>
    Config.activity s.steps (96 * (cl / 6) + core) i).sum

/-- Estimated power of a cluster in milliwatts (R285). -/
def State.power (s : State) (cl : Nat) : Nat :=
  dynamicPower (s.cluster cl) (s.activity cl) / 64 + Config.staticPower (s.cluster cl).vcode (Config.tempBand s.steps)

/-- The module budget in watts: of the lease in force, or SAFEW (R290). -/
def State.budget (s : State) : Nat :=
  match s.lease with
  | some l => if l.live then Nat.min 3000 l.watts else Config.safew
  | none => Config.safew

/-- What the twelve clusters have together, in milliwatts. -/
def State.shared12 (s : State) : Nat := 1000 * (s.budget - Config.uncore)

/-- p > B, and p ≤ 7·B/8 (R287). -/
def State.overBudget (s : State) (cl : Nat) : Bool := s.shared12 < 12 * s.power cl
def State.underBudget (s : State) (cl : Nat) : Bool := 96 * s.power cl ≤ 7 * s.shared12

/-! ### Actions (R282, R283, R287 to R289) -/

/-- A guard step that is held or rising. -/
def ClusterState.guardStep (c : ClusterState) : Nat := if c.guard = .none then 0 else 1

/-- The code that the rail reaches once its pending steps are made; a rising guard step is applied first (R289). -/
def ClusterState.railGoal (c : ClusterState) : Nat := c.vcode + c.railUp + (if c.guard = .rising then 1 else 0) - c.railDown

/-- A clock step, or the raise of the rail before one, is in progress. -/
def ClusterState.clockBusy (c : ClusterState) : Bool := c.clockTo.isSome || c.clockWant.isSome

/-- A raise of the clock begins, once the rail stands at VMIN of the new clock with the guard step (R282, R287).
DEDUCED, log 64. -/
def ClusterState.clockReady (c : ClusterState) : ClusterState :=
  match c.clockWant with
  | some f => if vmin f + c.guardStep ≤ c.vcode then { c with clockWant := none, clockTo := some f } else c
  | none => c

/-- The first possible action where p > B; the point held, where none is. DEDUCED, log 63. -/
def ClusterState.lower (c : ClusterState) : ClusterState × Bool :=
  if c.pass < 2 then ({ c with pass := Nat.max (c.pass + 1) c.floor }, false)
  else if c.clockBusy then (c, false)
  else if vmin c.step + c.guardStep < c.railGoal then ({ c with railDown := c.railDown + 1 }, false)
  else if 14 < c.step then ({ c with clockTo := some (c.step - 1) }, false)
  else (c, true)

/-- The first possible action where p ≤ 7·B/8. DEDUCED, log 64. -/
def ClusterState.restore (c : ClusterState) : ClusterState :=
  if c.step < 20 && !c.clockBusy then
    let goal := vmin (c.step + 1) + c.guardStep
    let now := c.vcode + (if c.guard = .rising then 1 else 0)
    let c := { c with clockWant := some (c.step + 1) }
    ClusterState.clockReady (if c.railGoal < goal then { c with railUp := goal - now, railDown := now - goal } else c)
  else if c.floor < c.pass then { c with pass := c.pass - 1 }
  else c

/-- Weights written during the window are in force from its end (R286). DEDUCED, log 78. -/
def ClusterState.newWeights (c : ClusterState) : ClusterState :=
  { c with weights := c.weightsNew.foldr (fun x l => setNat l x.1 x.2) c.weights, weightsNew := [] }

/-- BELLOWS_WINDOW (R285 to R289): a window ends after 64 clocks. DEDUCED, log 63, 78. -/
def execBellowsWindow (cl : Nat) (s : State) : Host.Outcome State Fault Refusal :=
  let c := s.cluster cl
  .next (if s.clk cl < c.winClk + 64 then s
    else
      let isOver := s.overBudget cl
      let low := c.lower
      let new := if isOver then low.1 else if s.underBudget cl then c.restore else c
      let held := isOver && low.2
      let now := s.clk cl
      let s := s.modCluster cl fun _ => { new.newWeights with winClk := c.winClk + 64, isOver := held
                                                              passWas := c.pass, passAt := now }
      if held && !c.isOver then s.post (.overPost cl) else s)

/-- One rail step: the guard step first, then a raise, then a lowering (R281, R289). -/
def ClusterState.railStep (c : ClusterState) : ClusterState :=
  if c.guard = .rising then { c with vcode := Nat.min 32 (c.vcode + 1), guard := .held }
  else if c.railUp ≠ 0 then { c with vcode := Nat.min 32 (c.vcode + 1), railUp := c.railUp - 1 }
  else if c.railDown ≠ 0 then { c with vcode := c.vcode - 1, railDown := c.railDown - 1 }
  else c

/-- RAIL_STEP (R281, R287, R288). -/
def execRailStep (cl : Nat) (s : State) : Host.Outcome State Fault Refusal :=
  .next (s.modCluster cl fun c => c.railStep.clockReady)

/-- CLOCK_STEP (R287). -/
def execClockStep (cl : Nat) (s : State) : Host.Outcome State Fault Refusal :=
  .next (s.modCluster cl fun c => match c.clockTo with
    | some f => { c with step := f, clockTo := none }
    | none => c)

/-- Every tensor core of a cluster has been idle for 1,024 clocks (R288). -/
def State.clusterIdle (s : State) (cl : Nat) : Bool :=
  (clusterCores (cl % 6)).all fun core => (List.range 16).all fun p => s.tensorIdle ⟨cl / 6, core, p⟩ 1024

/-- The guard step goes, one step down; never below VMIN (R282, R288). -/
def ClusterState.release (c : ClusterState) : ClusterState :=
  let f := Nat.max c.step (Nat.max (c.clockTo.getD 0) (c.clockWant.getD 0))
  { c with guard := .none, railDown := if vmin f < c.railGoal then c.railDown + 1 else c.railDown }

/-- GUARD_RELEASE (R288). -/
def execGuardRelease (cl : Nat) (s : State) : Host.Outcome State Fault Refusal :=
  .next (if (s.cluster cl).guard = .held && s.clusterIdle cl then s.modCluster cl ClusterState.release else s)

/-! ### Leases (R290, R291) -/

/-- A sequence number is newer, modulo 2^32. -/
def newerSeq (a b : Nat) : Bool := serialLe 32 b a && a % 2 ^ 32 != b % 2 ^ 32

/-- BUDGET_LEASE (R290, R291). DEDUCED, log 65. -/
def execBudgetLease (lease : Bytes) (s : State) : Host.Outcome State Fault Refusal :=
  let l : Lease :=
    { seq := numAt lease 0 4, watts := numAt lease 4 2, issued := numAt lease 8 8, expiry := s.tick + 500000000 }
  .next (if numAt lease 6 2 ≠ 0 then { s with leaseBad := s.leaseBad + 1 }
    else if s.lease.all fun old => newerSeq l.seq old.seq then { s with lease := some l }
    else s)

/-- LEASE_EXPIRY (R291): the term of 500 ms is over. DEDUCED, log 65. -/
def execLeaseExpiry (s : State) : Host.Outcome State Fault Refusal :=
  .next { s with lease := s.lease.map fun l => if l.expiry ≤ s.tick then { l with live := false } else l }

/-! ### Temperatures (R292, R293) -/

/-- A reading of a stack's sensor, in hundredths of a degree (R292). -/
def StackState.sense (x : StackState) (tick : Nat) (centi : Int) : StackState :=
  { centi := centi, lastRead := tick, doubled := if 8500 < centi then true else if centi ≤ 8300 then false else x.doubled
    hotref := if x.doubled then x.hotref + 1 else x.hotref }

/-- HBM_SENSOR_READ (R292): a stack's sensor is read when 1 ms has passed since it was. -/
def execHbmSensorRead (stack : Nat) (centi : Int) (s : State) : Host.Outcome State Fault Refusal :=
  let now := s.tick
  .next { s with hbmStacks := s.hbmStacks.modify stack fun x =>
    if x.lastRead + 1000000 ≤ now then x.sense now centi else x }

/-- TALLOW_UPDATE (R245, R293). -/
def execTallowUpdate (die core : Nat) (allow : BitVec 16) (s : State) : Host.Outcome State Fault Refusal :=
  .next (coolMarks (s.modCore die core fun c => { c with tallow := allow }))

end Sys2Proof.Machine
end

