-- ==== Sys2Proof/Machine/Recover.lean ====
section
/-!
DEFINITION. The abrupt loss of module power, and power-up with recovery (R156, R263, R266, R270, R271, R321, R322).
-/

namespace Sys2Proof.Machine

/-! ### The loss (R156, R266, R271) -/

/-- The slot write that the loss cuts off: the oldest pending write of a line, or a checkpoint record. What it leaves is
no valid slot. DESIGN CHOICE, log 61. -/
def tornSlot (s : State) (key : LineKey) (bs : Bytes) : State :=
  let x := parseSlot bs
  let slot := if x.valid then x.broken else x
  match key with
  | .ckpt bi => if s.mayCheckpoint bi then commit (ckptState s bi) bi true true else s
  | _ => match (s.die (s.keyDie key)).persist.find? fun w => w.key == key with
    | some w => drainAt s (s.keyDie key) w (some slot)
    | none => s

/-- What a cut-off write leaves (R266, R322). -/
def tornWrite (s : State) : Torn → State
  | .felt key slot => tornSlot s key slot
  | .leaf => { s with leaf := s.leaf.cutOff (s.leaf.value + 1) }
  | .select slot => { s with slotSel := s.slotSel.cutOff slot }

/-- What a die keeps: its Felt layer, and what Chanter keeps of templates and tags. Every presence bit is set.
DEDUCED, log 56. -/
def DieState.powerless (d : DieState) : DieState :=
  { templates := d.templates, tags := d.tags, felt := d.felt, wmLost := d.wmLost }

/-- A block that was placed is held as a saved one until its disposition. -/
def Block.powerless (b : Block) : Block :=
  if b.st == .placed || b.st == .saved then
    { b with st := .saved, shared := [], absent := [], wm := [], recs := [], preempt := none, migrate := none
             preemptDue := none, cancelled := b.cancelled || b.cancelDue, cancelDue := false, ckpt := [], ckptSeq := none
             phaseStep := false }
  else b

def Wave.powerless (w : Wave) : Wave :=
  if w.ended then { w with spill := [] }
  else { w with saved := true, issued := false, spill := [], holds := [], holdsOut := [], heldAcc := [], resumeDue := none }

/-- An interface keeps what Chanter holds of it; its message window and its share of HBM are lost. DEDUCED, log 57. -/
def ViState.powerless (v : ViState) : ViState :=
  { v with hdm := [], msgState := 0, msgWait := none, msgIgnored := 0, request := [], reply := [] }

/-- The time base starts again; the times of launches still queued count from there. DEDUCED, log 58. -/
def Launch.powerless (l : Launch) : Launch :=
  if l.isOver then l
  else { l with tEntry := 0, tQueued := 0, tPlaced := l.tPlaced.map fun _ => 0, tLast := l.tLast.map fun _ => 0, tFault := 0, tWait := 0, starved := none }

def MemOp.powerless (o : MemOp) : MemOp := { o with counted := 0, logIx := none, fullIx := [] }

def Acc.powerless (a : Acc) : Acc := if a.isOver then a else { a with st := .dropped }

def Tile.powerless (t : Tile) : Tile := if t.st = .done then t else { t with st := .dropped }

/-- Copies do not survive, and the Deckle tables are empty (R271). -/
def Copy.powerless (c : Copy) : Copy :=
  { c with st := .done, rlocks := [], wlocks := [], todo := [], bumps := [], heldOn := [], peerWait := false }

/-- Power is lost: what the Felt layers, the flash and the host hold stays, with what Chanter keeps durably.
DEDUCED, log 56, 57, 58. -/
def powerless (s : State) : State :=
  { s with
    waves := s.waves.map Wave.powerless, blocks := s.blocks.map Block.powerless
    launches := s.launches.map Launch.powerless, ops := s.ops.map MemOp.powerless, accs := s.accs.map Acc.powerless
    tiles := s.tiles.map Tile.powerless, copies := s.copies.map Copy.powerless, vis := s.vis.map ViState.powerless
    dies := s.dies.map DieState.powerless, cores := List.replicate 192 CoreState.fresh
    clusters := List.replicate 12 {}, hbmStacks := List.replicate 8 {}
    threads := s.threads.map fun t => { t with waiting := false }, sysCores := List.replicate Config.systemCores {}
    now := 0, moduleNo := 0, powerLost := true, boot := 0, bootSlot := none, lease := none, leaseBad := 0, waiters := []
    ports := List.range 72, attached := false, brkGo := [], brkCount := [], peers := [] }

/-- ABRUPT_LOSS (R156, R266, R322, R330). DESIGN CHOICE, log 61. -/
def execAbruptLoss (torn : Option Torn) (s : State) : Host.Outcome State Fault Refusal :=
  .next (powerless (match torn with
    | some t => tornWrite s t
    | none => s))

/-! ### Recovery (R263, R270, R271) -/

/-- A block's committed generation is that of its newest valid record. -/
def readRecord (s : State) (bi : Nat) : State :=
  let b := s.block bi
  if b.st == .saved then
    let c := ((s.ckptRecord b.die bi).map (·.committed)).getD 0
    s.modBlock bi fun b => { b with committed := c }
  else s

/-- One line takes its recovered value; with none, zero, and it is marked (R270). DEDUCED, log 55. -/
def recoverLine (s : State) (die : Nat) (key : LineKey) : State :=
  let r := s.recovered die key
  let s := match key with
    | .scratch d l => s.modDie d fun x => { x with scratch := x.scratch.writeN (64 * l) r.1 }
    | .shared b l => s.modBlock b fun x => { x with shared := x.shared.writeN (64 * l) r.1 }
    | .spill w l => s.modWave w fun x => { x with spill := x.spill.writeN (64 * l) r.1 }
    | _ => s
  let data : Bool := match key with
    | .wave _ => false
    | .ckpt _ => false
    | _ => true
  if r.2 && data then s.modDie die fun d => { d with marked := (key, 5) :: d.marked.filter fun m => m.1 != key } else s

/-- A line of a block that will not be resumed is of no more use. -/
def State.keeps (s : State) : LineKey → Bool
  | .scratch .. => true
  | .shared b _ => (s.block b).st == .saved
  | .ckpt b => (s.block b).st == .saved
  | .spill w _ => (s.waveBlock w).st == .saved
  | .wave w => (s.waveBlock w).st == .saved
  | .main .. => false

/-- Shared memory of a saved block begins as its image, and the lines that have versions follow (R82, R270). -/
def imageBlock (s : State) (bi : Nat) : State :=
  let b := s.block bi
  let l := s.launch b.launch
  if b.st == .saved then
    let m := imageMemory (s.kernel l.kernel) l.slices
    s.modBlock bi fun b => { b with shared := m, wmLost := true }
  else s

/-- Lines of a die's scratchpad for which a slot qualifies. -/
def State.soundLines (s : State) (die : Nat) : List Nat :=
  (s.die die).felt.foldl (fun acc x => match x.key with
    | .scratch _ l => if (s.recovered die x.key).2 then acc else insertNat l acc
    | _ => acc) []

/-- A die's Felt layer is recovered: scratchpad of which no slot qualifies is marked, written before or not; every watermark
of the die is LOST (R263, R270). -/
def recoverDie (s : State) (die : Nat) : State :=
  let keys := ((s.die die).felt.map (·.key)).filter s.keeps
  (keys.foldl (fun s k => recoverLine s die k) s).modDie die fun d =>
    { d with wm := [], wmLost := true, unwritten := true, sound := s.soundLines die }

/-- Step 3 after an abrupt loss. -/
def recover (s : State) : State :=
  let blocks := List.range s.blocks.length
  let s := blocks.foldl readRecord s
  let s := blocks.foldl imageBlock s
  (List.range 2).foldl recoverDie s

/-! ### Resuming and relaunching (R271) -/

/-- A wave of the generation, as its snapshot holds it: nothing of it is in flight. With no version left its state reads
as zero, and its registers raise SOFT (R270). DEDUCED, log 60. -/
def revived (old : Wave) : Option Snapshot → Wave
  | some (.wave w) =>
    { w with spill := old.spill, saved := true, ended := false, ql := 0, qs := 0, qx := 0, qt := 0, holds := [], holdsOut := []
             heldAcc := [], pend := [], arriving := [], log := List.replicate 40 none, full := List.replicate 4 none
             lossy := true, resumeDue := none, badOps := [] }
  | _ =>
    { old with saved := true, ended := false, pc := 0, k := List.replicate 16 0, mode := 0, z := false, n := false, c := false
               v := false, mz := false, mf := false, ql := 0, qs := 0, qx := 0, qt := 0, pri := 0
               regs := List.replicate 128 (.u 0), slots := old.slots.map fun x => { x with reg := none }, fstat := 0, hm := 0
               args := List.replicate 16 0, pend := [], stop := .run, trapMode := false, trapHalt := false, sb := List.replicate 64 0
               what := .none, heldAcc := [], trapDue := false, log := List.replicate 40 none, full := List.replicate 4 none
               holds := [], holdsOut := [], suspended := none, tokens := [], arriving := [], know := [], lossy := true
               badRegs := (List.range 128).map fun d => (BitVec.ofNat 7 d, 5) }

/-- A block is resumed, as a saved one, with the state of its committed generation. -/
def resumeBlock (s : State) (bi : Nat) (r : Block) : State :=
  let b := s.block bi
  let live := r.ckpt
  let s := b.waves.foldl (fun s wi =>
    if live.contains wi then
      let snap := s.recoveredSnap b.die (.wave wi)
      s.modWave wi fun w => revived w snap
    else s.modWave wi fun w => { w with ended := true, saved := false }) s
  s.modBlock bi fun b =>
    { r with st := .saved, shared := b.shared, wmLost := true, wm := [], recs := [], absent := [], ckpt := [], ckptSeq := none
             committed := b.committed, firstPlaced := some 0, savedAt := 0, die := b.die }

/-- Marks of a block's lines go with it. -/
def unmark (s : State) (bi : Nat) (waves : List Nat) : State :=
  s.modDie (s.block bi).die fun d => { d with marked := d.marked.filter fun m => !LineKey.ofBlock bi waves m.1 }

/-- The disposition of a block that was placed or saved (R271); one whose launch was being cancelled is discarded (R320).
DEDUCED, log 59. -/
def dispose (s : State) (bi : Nat) : State :=
  let b := s.block bi
  if b.st != .saved then s
  else if b.cancelled then finishCancel (discardBlock (unmark s bi b.waves) bi .discarded) b.launch
  else match (if b.committed = 0 then none else s.ckptRecord b.die bi) with
    | some r => resumeBlock s bi r
    | none =>
      let s := unmark s bi b.waves
      if (s.kernel (s.launch b.launch).kernel).idem then discardBlock s bi .unstarted
      else (discardBlock s bi .reported).post (.reported bi)

/-- Code of the loaded bundles is placed again in main memory. -/
def placeAgain (s : State) : State :=
  (List.range s.bundles.length).foldl (fun s h => match s.bundles[h]? with
    | some b => if b.live then (List.range 2).foldl (fun s d => placeCode s h b d) s else s
    | none => s) s

/-! ### Power-up (R321, R322) -/

/-- The boot ROM accepts an image slot (R322). -/
def State.slotOk (s : State) (i : Nat) : Bool :=
  match s.flash[i]? with
  | some x => Config.bootVerify x && x.digests == x.content.map Config.sha256 && s.rollbackMin ≤ x.rollback
  | none => false

/-- The slot that boots: the one last selected, and then the other. -/
def State.bootChoice (s : State) : Option Nat := [s.slotSel.value, 1 - s.slotSel.value].find? s.slotOk

/-- The first stage of a slot runs. -/
def State.booted (s : State) (slot : Nat) : State := { s with boot := 1, bootSlot := some slot }

/-- The next step of R321: with no slot that the boot ROM accepts, it holds system core 0 and reports (R322). -/
def powerStep (s : State) : State :=
  match s.boot with
  | 0 => match s.bootChoice with
    | some i => (s.modSysCore 0 fun c => { c with held := false }).booted i
    | none => (s.modSysCore 0 fun c => { c with held := true }).post .bootFail
  | 1 => serveEarly { s with boot := 2 }
  | 2 => { (if s.powerLost then recover s else s) with boot := 3 }
  | 3 => { s with boot := 4, moduleNo := Config.moduleNo % 1024 }
  | 4 =>
    let s := if s.powerLost then (List.range s.blocks.length).foldl dispose (placeAgain s) else s
    { s with boot := 5, powerLost := false }
  | 5 => (List.range 65).foldl serveWaiting { s with boot := 6 }
  | _ => s

/-- POWER_UP (R321). -/
def execPowerUp (s : State) : Host.Outcome State Fault Refusal := .next (powerStep s)

end Sys2Proof.Machine
end

