-- ==== Sys2Proof/Machine/Dispatch.lean ====
section
/-!
DEFINITION. The dispatch: one arm for each row of the opcode table, calling its meaning.
-/

namespace Sys2Proof.Machine

/-- What an instruction or an event does. -/
def exec (i : Instr) (s : State) : Host.Outcome State Fault Refusal :=
  match i with
  | .nop => Sys2Proof.Machine.execNop s
  | .br cond off => Sys2Proof.Machine.execBr cond off s
  | .jmp a => Sys2Proof.Machine.execJmp a s
  | .call d off => Sys2Proof.Machine.execCall d off s
  | .ret a => Sys2Proof.Machine.execRet a s
  | .exit => Sys2Proof.Machine.execExit s
  | .trap n => Sys2Proof.Machine.execTrap n s
  | .sleep n => Sys2Proof.Machine.execSleep n s
  | .mode m => Sys2Proof.Machine.execMode m s
  | .sreg d idx => Sys2Proof.Machine.execSreg d idx s
  | .sset a idx => Sys2Proof.Machine.execSset a idx s
  | .tret => Sys2Proof.Machine.execTret s
  | .retry => Sys2Proof.Machine.execRetry s
  | .skip => Sys2Proof.Machine.execSkip s
  | .trd d n => Sys2Proof.Machine.execTrd d n s
  | .add d a b => Sys2Proof.Machine.execAdd d a b s
  | .sub d a b => Sys2Proof.Machine.execSub d a b s
  | .mul d a b => Sys2Proof.Machine.execMul d a b s
  | .mulhi d a b => Sys2Proof.Machine.execMulhi d a b s
  | .fma d a b => Sys2Proof.Machine.execFma d a b s
  | .fms d a b => Sys2Proof.Machine.execFms d a b s
  | .fnma d a b => Sys2Proof.Machine.execFnma d a b s
  | .min d a b => Sys2Proof.Machine.execMin d a b s
  | .max d a b => Sys2Proof.Machine.execMax d a b s
  | .abs d a => Sys2Proof.Machine.execAbs d a s
  | .neg d a => Sys2Proof.Machine.execNeg d a s
  | .and d a b => Sys2Proof.Machine.execAnd d a b s
  | .or d a b => Sys2Proof.Machine.execOr d a b s
  | .xor d a b => Sys2Proof.Machine.execXor d a b s
  | .andn d a b => Sys2Proof.Machine.execAndn d a b s
  | .not d a => Sys2Proof.Machine.execNot d a s
  | .shl d a b => Sys2Proof.Machine.execShl d a b s
  | .shr d a b => Sys2Proof.Machine.execShr d a b s
  | .sra d a b => Sys2Proof.Machine.execSra d a b s
  | .rol d a b => Sys2Proof.Machine.execRol d a b s
  | .bfe d a b => Sys2Proof.Machine.execBfe d a b s
  | .bfi d a b => Sys2Proof.Machine.execBfi d a b s
  | .popc d a => Sys2Proof.Machine.execPopc d a s
  | .clz d a => Sys2Proof.Machine.execClz d a s
  | .addi d a imm => Sys2Proof.Machine.execAddi d a imm s
  | .andi d a imm => Sys2Proof.Machine.execAndi d a imm s
  | .ori d a imm => Sys2Proof.Machine.execOri d a imm s
  | .xori d a imm => Sys2Proof.Machine.execXori d a imm s
  | .li d imm => Sys2Proof.Machine.execLi d imm s
  | .lih d imm => Sys2Proof.Machine.execLih d imm s
  | .shli d a n => Sys2Proof.Machine.execShli d a n s
  | .shri d a n => Sys2Proof.Machine.execShri d a n s
  | .srai d a n => Sys2Proof.Machine.execSrai d a n s
  | .brev d a => Sys2Proof.Machine.execBrev d a s
  | .sel d a b km => Sys2Proof.Machine.execSel d a b km s
  | .mov d a => Sys2Proof.Machine.execMov d a s
  | .cmpEq m a b => Sys2Proof.Machine.execCmpEq m a b s
  | .cmpNe m a b => Sys2Proof.Machine.execCmpNe m a b s
  | .cmpLt m a b => Sys2Proof.Machine.execCmpLt m a b s
  | .cmpLe m a b => Sys2Proof.Machine.execCmpLe m a b s
  | .cmpGt m a b => Sys2Proof.Machine.execCmpGt m a b s
  | .cmpGe m a b => Sys2Proof.Machine.execCmpGe m a b s
  | .cmpOrd m a b => Sys2Proof.Machine.execCmpOrd m a b s
  | .cmpEqU m a b => Sys2Proof.Machine.execCmpEqU m a b s
  | .cmpNeU m a b => Sys2Proof.Machine.execCmpNeU m a b s
  | .cmpLtU m a b => Sys2Proof.Machine.execCmpLtU m a b s
  | .cmpLeU m a b => Sys2Proof.Machine.execCmpLeU m a b s
  | .cmpGtU m a b => Sys2Proof.Machine.execCmpGtU m a b s
  | .cmpGeU m a b => Sys2Proof.Machine.execCmpGeU m a b s
  | .cmpUno m a b => Sys2Proof.Machine.execCmpUno m a b s
  | .kand d a b => Sys2Proof.Machine.execKand d a b s
  | .kor d a b => Sys2Proof.Machine.execKor d a b s
  | .kxor d a b => Sys2Proof.Machine.execKxor d a b s
  | .knot d a => Sys2Proof.Machine.execKnot d a s
  | .kandn d a b => Sys2Proof.Machine.execKandn d a b s
  | .kmov d a => Sys2Proof.Machine.execKmov d a s
  | .kset d v => Sys2Proof.Machine.execKset d v s
  | .kget v a => Sys2Proof.Machine.execKget v a s
  | .kpop v a => Sys2Proof.Machine.execKpop v a s
  | .kfirst v a => Sys2Proof.Machine.execKfirst v a s
  | .ktest a b => Sys2Proof.Machine.execKtest a b s
  | .shape d a => Sys2Proof.Machine.execShape d a s
  | .sassert a n => Sys2Proof.Machine.execSassert a n s
  | .sforce d => Sys2Proof.Machine.execSforce d s
  | .scompact d => Sys2Proof.Machine.execScompact d s
  | .lane d => Sys2Proof.Machine.execLane d s
  | .perm d a b => Sys2Proof.Machine.execPerm d a b s
  | .lmoveLo d a b => Sys2Proof.Machine.execLmoveLo d a b s
  | .lmoveHi d a b => Sys2Proof.Machine.execLmoveHi d a b s
  | .lmoveFlip d a b => Sys2Proof.Machine.execLmoveFlip d a b s
  | .lmoveRot d a b => Sys2Proof.Machine.execLmoveRot d a b s
  | .bcast d a b => Sys2Proof.Machine.execBcast d a b s
  | .qswapH d a => Sys2Proof.Machine.execQswapH d a s
  | .qswapV d a => Sys2Proof.Machine.execQswapV d a s
  | .qswapD d a => Sys2Proof.Machine.execQswapD d a s
  | .helper a => Sys2Proof.Machine.execHelper a s
  | .reduxAdd d a => Sys2Proof.Machine.execReduxAdd d a s
  | .reduxMin d a => Sys2Proof.Machine.execReduxMin d a s
  | .reduxMax d a => Sys2Proof.Machine.execReduxMax d a s
  | .reduxAddn d a n => Sys2Proof.Machine.execReduxAddn d a n s
  | .scanAdd d a => Sys2Proof.Machine.execScanAdd d a s
  | .scanAddn d a n => Sys2Proof.Machine.execScanAddn d a n s
  | .rcp d a => Sys2Proof.Machine.execRcp d a s
  | .rsq d a => Sys2Proof.Machine.execRsq d a s
  | .sqrt d a => Sys2Proof.Machine.execSqrt d a s
  | .ex2 d a => Sys2Proof.Machine.execEx2 d a s
  | .lg2 d a => Sys2Proof.Machine.execLg2 d a s
  | .sinpi d a => Sys2Proof.Machine.execSinpi d a s
  | .cospi d a => Sys2Proof.Machine.execCospi d a s
  | .tanh d a => Sys2Proof.Machine.execTanh d a s
  | .cvtF32I32 d a => Sys2Proof.Machine.execCvtF32I32 d a s
  | .cvtF32U32 d a => Sys2Proof.Machine.execCvtF32U32 d a s
  | .cvtI32F32 d a => Sys2Proof.Machine.execCvtI32F32 d a s
  | .cvtU32F32 d a => Sys2Proof.Machine.execCvtU32F32 d a s
  | .cvtF32F16 d a => Sys2Proof.Machine.execCvtF32F16 d a s
  | .cvtF32F16h d a => Sys2Proof.Machine.execCvtF32F16h d a s
  | .cvtF16x2F32 d a b => Sys2Proof.Machine.execCvtF16x2F32 d a b s
  | .cvtF64F32 d a => Sys2Proof.Machine.execCvtF64F32 d a s
  | .cvtF32F64 d a => Sys2Proof.Machine.execCvtF32F64 d a s
  | .cvtF64I32 d a => Sys2Proof.Machine.execCvtF64I32 d a s
  | .cvtI32F64 d a => Sys2Proof.Machine.execCvtI32F64 d a s
  | .cvtF64U32 d a => Sys2Proof.Machine.execCvtF64U32 d a s
  | .cvtU32F64 d a => Sys2Proof.Machine.execCvtU32F64 d a s
  | .scl d a b q => Sys2Proof.Machine.execScl d a b q s
  | .dot4I8 d a b => Sys2Proof.Machine.execDot4I8 d a b s
  | .dot4U8 d a b => Sys2Proof.Machine.execDot4U8 d a b s
  | .dot8I4 d a b => Sys2Proof.Machine.execDot8I4 d a b s
  | .dot4F8 d a b p => Sys2Proof.Machine.execDot4F8 d a b p s
  | .dot8F4 d a b => Sys2Proof.Machine.execDot8F4 d a b s
  | .cvtE4m3F32 d a b => Sys2Proof.Machine.execCvtE4m3F32 d a b s
  | .cvtE5m2F32 d a b => Sys2Proof.Machine.execCvtE5m2F32 d a b s
  | .cvtE2m1F32 d a b => Sys2Proof.Machine.execCvtE2m1F32 d a b s
  | .cvtBf16x2F32 d a b => Sys2Proof.Machine.execCvtBf16x2F32 d a b s
  | .cvtF32E4m3 d a b => Sys2Proof.Machine.execCvtF32E4m3 d a b s
  | .cvtF32E5m2 d a b => Sys2Proof.Machine.execCvtF32E5m2 d a b s
  | .cvtF32E2m1 d a b => Sys2Proof.Machine.execCvtF32E2m1 d a b s
  | .cvtF32Bf16x2 d a b => Sys2Proof.Machine.execCvtF32Bf16x2 d a b s
  | .t3x d a q => Sys2Proof.Machine.execT3x d a q s
  | .t3pk d a q => Sys2Proof.Machine.execT3pk d a q s
  | .lds32 d a imm => Sys2Proof.Machine.execLds32 d a imm s
  | .lds64 d a imm => Sys2Proof.Machine.execLds64 d a imm s
  | .lds8 d a imm => Sys2Proof.Machine.execLds8 d a imm s
  | .lds16 d a imm => Sys2Proof.Machine.execLds16 d a imm s
  | .ldx32 d a imm => Sys2Proof.Machine.execLdx32 d a imm s
  | .ldx64 d a imm => Sys2Proof.Machine.execLdx64 d a imm s
  | .ldx8 d a imm => Sys2Proof.Machine.execLdx8 d a imm s
  | .ldx16 d a imm => Sys2Proof.Machine.execLdx16 d a imm s
  | .lds128 d a imm => Sys2Proof.Machine.execLds128 d a imm s
  | .ldx128 d a imm => Sys2Proof.Machine.execLdx128 d a imm s
  | .sts32 d a imm => Sys2Proof.Machine.execSts32 d a imm s
  | .sts64 d a imm => Sys2Proof.Machine.execSts64 d a imm s
  | .sts8 d a imm => Sys2Proof.Machine.execSts8 d a imm s
  | .sts16 d a imm => Sys2Proof.Machine.execSts16 d a imm s
  | .stx32 d a imm => Sys2Proof.Machine.execStx32 d a imm s
  | .stx64 d a imm => Sys2Proof.Machine.execStx64 d a imm s
  | .stx8 d a imm => Sys2Proof.Machine.execStx8 d a imm s
  | .stx16 d a imm => Sys2Proof.Machine.execStx16 d a imm s
  | .sts128 d a imm => Sys2Proof.Machine.execSts128 d a imm s
  | .stx128 d a imm => Sys2Proof.Machine.execStx128 d a imm s
  | .spill d n => Sys2Proof.Machine.execSpill d n s
  | .fill d n => Sys2Proof.Machine.execFill d n s
  | .atomAdd d a b sc => Sys2Proof.Machine.execAtomAdd d a b sc s
  | .atomFadd d a b sc => Sys2Proof.Machine.execAtomFadd d a b sc s
  | .atomMin d a b sc => Sys2Proof.Machine.execAtomMin d a b sc s
  | .atomMax d a b sc => Sys2Proof.Machine.execAtomMax d a b sc s
  | .atomAnd d a b sc => Sys2Proof.Machine.execAtomAnd d a b sc s
  | .atomOr d a b sc => Sys2Proof.Machine.execAtomOr d a b sc s
  | .atomXor d a b sc => Sys2Proof.Machine.execAtomXor d a b sc s
  | .atomXchg d a b sc => Sys2Proof.Machine.execAtomXchg d a b sc s
  | .atomCas d a b sc => Sys2Proof.Machine.execAtomCas d a b sc s
  | .atomInc d a b sc => Sys2Proof.Machine.execAtomInc d a b sc s
  | .fence sc => Sys2Proof.Machine.execFence sc s
  | .pfence sc => Sys2Proof.Machine.execPfence sc s
  | .pckpt => Sys2Proof.Machine.execPckpt s
  | .meet nb => Sys2Proof.Machine.execMeet nb s
  | .arrive nb => Sys2Proof.Machine.execArrive nb s
  | .await nb => Sys2Proof.Machine.execAwait nb s
  | .waitc a b sc => Sys2Proof.Machine.execWaitc a b sc s
  | .ldsAcq d a w sc => Sys2Proof.Machine.execLdsAcq d a w sc s
  | .ldxAcq d a w sc => Sys2Proof.Machine.execLdxAcq d a w sc s
  | .wait ql qs qx qt => Sys2Proof.Machine.execWait ql qs qx qt s
  | .stsRel w a b sc => Sys2Proof.Machine.execStsRel w a b sc s
  | .stxRel w a b sc => Sys2Proof.Machine.execStxRel w a b sc s
  | .mmaF8 d a b p => Sys2Proof.Machine.execMmaF8 d a b p s
  | .mmaI8 d a b g => Sys2Proof.Machine.execMmaI8 d a b g s
  | .mmaBf16 d a b => Sys2Proof.Machine.execMmaBf16 d a b s
  | .mmaF16 d a b => Sys2Proof.Machine.execMmaF16 d a b s
  | .mmaMxf8 d a b xs sel p => Sys2Proof.Machine.execMmaMxf8 d a b xs sel p s
  | .mmaMxf4 d a b xs sel => Sys2Proof.Machine.execMmaMxf4 d a b xs sel s
  | .mmz d => Sys2Proof.Machine.execMmz d s
  | .gmma d b xs p => Sys2Proof.Machine.execGmma d b xs p s
  | .vclaim n => Sys2Proof.Machine.execVclaim n s
  | .vrel n => Sys2Proof.Machine.execVrel n s
  | .launch d a => Sys2Proof.Machine.execLaunch d a s
  | .rcmode m => Sys2Proof.Machine.execRcmode m s
  | .iinv => Sys2Proof.Machine.execIinv s
  | .brk tag => Sys2Proof.Machine.execBrk tag s
  | .trcStop => Sys2Proof.Machine.execTrcStop s
  | .trcStart => Sys2Proof.Machine.execTrcStart s
  | .trcSync => Sys2Proof.Machine.execTrcSync s
  | .rdclk d => Sys2Proof.Machine.execRdclk d s
  | .xperm d a b => Sys2Proof.Machine.execXperm d a b s
  | .xbcast d a b => Sys2Proof.Machine.execXbcast d a b s
  | .xreduxAdd d a => Sys2Proof.Machine.execXreduxAdd d a s
  | .xreduxMin d a => Sys2Proof.Machine.execXreduxMin d a s
  | .xreduxMax d a => Sys2Proof.Machine.execXreduxMax d a s
  | .xscan d a => Sys2Proof.Machine.execXscan d a s
  | .xballot d k c => Sys2Proof.Machine.execXballot d k c s
  | .xwidth d => Sys2Proof.Machine.execXwidth d s
  | .leave acc => Sys2Proof.Machine.execLeave acc s
  | .propagate acc => Sys2Proof.Machine.execPropagate acc s
  | .load acc => Sys2Proof.Machine.execLoad acc s
  | .atomic acc => Sys2Proof.Machine.execAtomic acc s
  | .accept acc => Sys2Proof.Machine.execAccept acc s
  | .move copy k => Sys2Proof.Machine.execMove copy k s
  | .complete copy => Sys2Proof.Machine.execComplete copy s
  | .drain die k => Sys2Proof.Machine.execDrain die k s
  | .tileComplete tile => Sys2Proof.Machine.execTileComplete tile s
  | .placeBlock launch die cluster cores => Sys2Proof.Machine.execPlaceBlock launch die cluster cores s
  | .restore blk die cluster cores => Sys2Proof.Machine.execRestore blk die cluster cores s
  | .reserveMode launch => Sys2Proof.Machine.execReserveMode launch s
  | .gangStarved launch => Sys2Proof.Machine.execGangStarved launch s
  | .waveEnd w => Sys2Proof.Machine.execWaveEnd w s
  | .endCommit blk => Sys2Proof.Machine.execEndCommit blk s
  | .tagSweep die tag => Sys2Proof.Machine.execTagSweep die tag s
  | .sleepElapsed w => Sys2Proof.Machine.execSleepElapsed w s
  | .claimGrant p => Sys2Proof.Machine.execClaimGrant p s
  | .claimDeadlock p blk => Sys2Proof.Machine.execClaimDeadlock p blk s
  | .arrival w => Sys2Proof.Machine.execArrival w s
  | .checkpoint blk => Sys2Proof.Machine.execCheckpoint blk s
  | .preempt blk gang => Sys2Proof.Machine.execPreempt blk gang s
  | .drainTimeout blk => Sys2Proof.Machine.execDrainTimeout blk s
  | .save blk => Sys2Proof.Machine.execSave blk s
  | .flushAndRestart blk => Sys2Proof.Machine.execFlushAndRestart blk s
  | .migration blk cluster cores => Sys2Proof.Machine.execMigration blk cluster cores s
  | .managedPowerGating die core => Sys2Proof.Machine.execManagedPowerGating die core s
  | .gatingCut die core => Sys2Proof.Machine.execGatingCut die core s
  | .gatingRestore die core => Sys2Proof.Machine.execGatingRestore die core s
  | .abruptLoss torn => Sys2Proof.Machine.execAbruptLoss torn s
  | .powerUp => Sys2Proof.Machine.execPowerUp s
  | .start vi addr len asid => Sys2Proof.Machine.execStart vi addr len asid s
  | .signal vi proc sig => Sys2Proof.Machine.execSignal vi proc sig s
  | .status vi proc => Sys2Proof.Machine.execStatus vi proc s
  | .attest vi target nonce => Sys2Proof.Machine.execAttest vi target nonce s
  | .recovered vi => Sys2Proof.Machine.execRecovered vi s
  | .launchSystemCall core => Sys2Proof.Machine.execLaunchSystemCall core s
  | .launchWait core => Sys2Proof.Machine.execLaunchWait core s
  | .launchCancel core => Sys2Proof.Machine.execLaunchCancel core s
  | .launchTime core => Sys2Proof.Machine.execLaunchTime core s
  | .queueOpen core => Sys2Proof.Machine.execQueueOpen core s
  | .queueClose core => Sys2Proof.Machine.execQueueClose core s
  | .bundleLoad core => Sys2Proof.Machine.execBundleLoad core s
  | .bundleUnload core => Sys2Proof.Machine.execBundleUnload core s
  | .kernelFind core => Sys2Proof.Machine.execKernelFind core s
  | .map core => Sys2Proof.Machine.execMap core s
  | .unmap core => Sys2Proof.Machine.execUnmap core s
  | .discard core => Sys2Proof.Machine.execDiscard core s
  | .raceConfig core => Sys2Proof.Machine.execRaceConfig core s
  | .traceConfig core => Sys2Proof.Machine.execTraceConfig core s
  | .requeue core => Sys2Proof.Machine.execRequeue core s
  | .faultService die k answer => Sys2Proof.Machine.execFaultService die k answer s
  | .tlbInvalidate die site k => Sys2Proof.Machine.execTlbInvalidate die site k s
  | .eviction die => Sys2Proof.Machine.execEviction die s
  | .linkDown port => Sys2Proof.Machine.execLinkDown port s
  | .bellowsWindow cluster => Sys2Proof.Machine.execBellowsWindow cluster s
  | .railStep cluster => Sys2Proof.Machine.execRailStep cluster s
  | .clockStep cluster => Sys2Proof.Machine.execClockStep cluster s
  | .guardRelease cluster => Sys2Proof.Machine.execGuardRelease cluster s
  | .budgetLease lease => Sys2Proof.Machine.execBudgetLease lease s
  | .leaseExpiry => Sys2Proof.Machine.execLeaseExpiry s
  | .hbmSensorRead stack centi => Sys2Proof.Machine.execHbmSensorRead stack centi s
  | .tallowUpdate die core allow => Sys2Proof.Machine.execTallowUpdate die core allow s
  | .halt w => Sys2Proof.Machine.execHalt w s
  | .resume w skip => Sys2Proof.Machine.execResume w skip s
  | .pcComparatorMatch w => Sys2Proof.Machine.execPcComparatorMatch w s
  | .singleStep w => Sys2Proof.Machine.execSingleStep w s
  | .focusStep w ln => Sys2Proof.Machine.execFocusStep w ln s
  | .pendingPathStack w => Sys2Proof.Machine.execPendingPathStack w s
  | .barrierPhaseStep blk => Sys2Proof.Machine.execBarrierPhaseStep blk s
  | .plainWrite w d => Sys2Proof.Machine.execPlainWrite w d s
  | .forcedWrite w d => Sys2Proof.Machine.execForcedWrite w d s
  | .traceSyncInterval w => Sys2Proof.Machine.execTraceSyncInterval w s
  | .traceLoss w => Sys2Proof.Machine.execTraceLoss w s
  | .selectSlot slot => Sys2Proof.Machine.execSelectSlot slot s
  | .raiseRollbackMinimum v => Sys2Proof.Machine.execRaiseRollbackMinimum v s
  | .registerWrite r v => Sys2Proof.Machine.execRegisterWrite r v s
  | .illWord word => Sys2Proof.Machine.execIllWord word s
  | .portableOnlyWord word => Sys2Proof.Machine.execPortableOnlyWord word s
  | .occupancyEnd p u => Sys2Proof.Machine.execOccupancyEnd p u s
  | .uncorrectableError t => Sys2Proof.Machine.execUncorrectableError t s
  | .fabricRequest r => Sys2Proof.Machine.execFabricRequest r s
  | .systemCoreAccess core act => Sys2Proof.Machine.execSystemCoreAccess core act s
  | .cxlMemRequest vi off data n => Sys2Proof.Machine.execCxlMemRequest vi off data n s
  | .launchWaitTimeout thread => Sys2Proof.Machine.execLaunchWaitTimeout thread s
  | .resourceDescriptorRequest vi desc => Sys2Proof.Machine.execResourceDescriptorRequest vi desc s

end Sys2Proof.Machine
end

