-- ==== Sys2Proof/Machine/Issue.lean ====
section
/-!
DEFINITION. What surrounds an instruction: time, the choice of a wave, the fetch, and what follows an issue
(R23, R24, R30, R75, R150, R216, R222, R274, R296 to R300, R307).
-/

namespace Sys2Proof.Machine

/-! ### Time (R30, R222, R307) -/

/-- Ticks of a launch between its first placement and its end are charged to FAULT or WAIT while a copy of it is held
(R307). -/
def chargeLaunch (s : State) (li ticks : Nat) (l : Launch) : Launch :=
  if l.tPlaced.isNone || l.isOver then l
  else
    let mine := s.copies.filter fun c => c.launch == li && c.st != .done
    if mine.any fun c => !c.heldOn.isEmpty then { l with tFault := l.tFault + ticks }
    else if mine.any fun c => c.peerWait then { l with tWait := l.tWait + ticks }
    else l

/-- Issue is stopped on the wave's core or in its block (R241, R242, R269, R320). -/
def State.issueStopped (s : State) (wi : Nat) : Bool :=
  let w := s.wave wi
  let b := s.block w.blk
  (s.core w.part.die w.part.core).gate != .on || b.cancelled || b.st != .placed ||
    (match b.preempt with | some .save => true | some .flush => true | _ => false)

/-- A wave that is READY or in TRAP, and may issue (R23, R30). -/
def State.counting (s : State) (wi : Nat) : Bool :=
  ((s.wave wi).state == .ready || (s.wave wi).state == .trap) && !s.issueStopped wi

/-- The wait count of a wave grows by the clocks of its cluster that it spends READY or in TRAP (R30). -/
def waitWave (s : State) (cl : List ClusterState) (wi : Nat) (w : Wave) : Wave :=
  if s.counting wi then { w with w := w.w + ((cl.getD w.cluster {}).cyc / 100 - s.waveClk wi) } else w

/-- Some tenths of a nanosecond pass: the time base and every cluster's clock advance, and the wait counts of R30 and
the charges of R307 with them. DESIGN CHOICE, log 77. -/
def elapse (s : State) (dt : Nat) : State :=
  let ticks := (s.now + dt) / 10 - s.now / 10
  let run (c : ClusterState) : ClusterState := { c with cyc := c.cyc + dt * c.step }
  let cl := s.clusters.map run
  { s with now := s.now + dt, steps := s.steps + 1, clusters := cl, waves := s.waves.mapIdx (waitWave s cl)
           launches := if ticks = 0 then s.launches else s.launches.mapIdx fun li l => chargeLaunch s li ticks l }

/-! ### Candidates (R23, R30) -/

/-- What can be settled before a choice: stops that have ended, operations that made no access, and halts that were
due before the next issue (R24, R296). -/
def refreshWave (s : State) (wi : Nat) : State :=
  let s := retestBar (retest s wi) wi
  let empty := (List.range s.ops.length).filter fun oi =>
    (s.op oi).wave == wi && (s.op oi).counted != 0 && ((s.op oi).cls == some .load || (s.op oi).cls == some .store) &&
      (s.opAccs oi).isEmpty
  let s := empty.foldl settle s
  let s := if (s.wave wi).haltDue && (s.wave wi).stop = .run then
      s.modWave wi fun w => { w with haltDue := false, halted := true, issued := false }
    else s
  pcStop s wi

/-- The instruction that a word is, as a wave issues it (R86, R98). -/
def instrOf (word : Word) : Instr :=
  match decode word with
  | .ok i => i
  | .error .portable => .portableOnlyWord word
  | .error _ => .illWord word

/-- The next instruction of a wave (R150, R216, R274): none where its code has no translation, and the wave halts. A PC
at or beyond CODELEN names no instruction. DEDUCED, log 22. -/
def fetchFor (s : State) (wi : Nat) : State × Option Instr :=
  let w := s.wave wi
  let l := s.waveLaunch wi
  let k := s.waveKernel wi
  let r := fetchWord s l.vi w.part.die w.part.core l.asid (k.code.getD w.part.die 0 + w.pc.toNat)
  if k.codelen ≤ w.pc.toNat then
    (r.1, some (.illWord (r.2.getD (wordOfInstr .nop))))
  else match r.2 with
    | some x => (r.1, some (instrOf x))
    | none => ((r.1.modWave wi fun w => { w with halted := true, issued := false }).post (.fetchFault wi), none)

/-- A wave runs an instruction. -/
def runWave (s : State) (wi : Nat) (i : Instr) : Host.Outcome State Fault Refusal := exec i { s with cur := some wi }

/-- Try a candidate: a wave whose instruction cannot issue yet stays ISSUED, with what it asked for meanwhile; one
whose instruction can issue is READY. DEDUCED, log 21. -/
def tryWave (acc : State × List (Nat × Instr)) (wi : Nat) : State × List (Nat × Instr) :=
  if !(acc.1.wave wi).running || acc.1.issueStopped wi then acc
  else match fetchFor acc.1 wi with
    | (s, none) => (s, acc.2)
    | (s, some i) =>
      let s := s.modWave wi fun w => { w with issued := false }
      match runWave s wi i with
      | .next t => if (t.wave wi).issued then ({ t with cur := none }, acc.2) else (s, acc.2 ++ [(wi, i)])
      | _ => (s, acc.2 ++ [(wi, i)])

/-- Effective priority (R30). -/
def Wave.effective (w : Wave) : Nat := if w.trapMode then 15 else Nat.min 15 (w.pri + w.w / 1024)

/-- The better of two candidates (R30). -/
def betterWave (a b : Wave) : Bool :=
  if a.effective ≠ b.effective then b.effective < a.effective
  else if a.w ≠ b.w then b.w < a.w
  else a.slot < b.slot

/-- The chosen candidate. -/
def State.choose (s : State) : List (Nat × Instr) → Option (Nat × Instr)
  | [] => none
  | x :: xs => match State.choose s xs with
    | none => some x
    | some y => if betterWave (s.wave y.1) (s.wave x.1) then some y else some x

/-! ### An issue -/

/-- The slices of a partition's waves whose images are still to be installed take them before these waves issue (R82,
R191). -/
def installDue (s : State) (p : PartRef) : State :=
  (s.residents p).foldl (fun s wi =>
    let w := s.wave wi
    if (s.block w.blk).late.contains w.slice then installSlice s w.blk w.slice else s) s

/-- What follows a turn of a wave. One that has issued is ISSUED until its next instruction is known to issue (R24), its
wait count begins again (R30), its comparators may match there again, and a step may end (R296, R298, R299). One whose
instruction failed a check of R75 has not issued. DEDUCED, log 29. -/
def afterIssue (s : State) (wi : Nat) (before : Wave) (i : Instr) : State :=
  let op := match i with
    | .illWord w => (opOf w).toNat
    | .portableOnlyWord w => (opOf w).toNat
    | i => (opOf (wordOfInstr i)).toNat
  let s := { s with cur := none }
  if (s.wave wi).unissued then s
  else
    let done (w : Wave) : Wave :=
      { w with w := 0, cmpSkip := w.cmpSkip.filter fun x => x.1 != before.pc, issued := w.running }
    afterStep (s.modWave wi done) wi before op

/-- A clock of one partition: at most one instruction issues (R30). DEDUCED, log 21. -/
def issueAt (p : PartRef) (s : State) : Host.Outcome State Fault Refusal :=
  let now := s.partClk p
  let last := (s.part p).lastIssue
  if last = some now then .next s
  else
    let s := installDue (tilesDue (s.modPart p fun x => { x with lastIssue := some now }) p) p
    let s := (s.residents p).foldl refreshWave s
    let r := (s.residents p).foldl tryWave (s, [])
    match r.1.choose r.2 with
    | none => .next (blockStops r.1)
    | some (wi, i) =>
      let s := traceDue (r.1.modWave wi fun w => { w with unissued := false }) wi
      let before := s.wave wi
      match runWave s wi i with
      | .next t => .next (blockStops (afterIssue t wi before i))
      | o => o

/-- An event of the table, where its operands are well-formed. DESIGN CHOICE, log 2. -/
def eventAt (i : Instr) (s : State) : Host.Outcome State Fault Refusal :=
  if i.isEvent && i.wellFormed then
    match exec i s with
    | .next t => .next (blockStops t)
    | o => o
  else .next s

/-- The next turn: the head of the agenda, or what the schedule gives. DESIGN CHOICE, log 1. -/
def State.nextTurn (s : State) : Turn × State :=
  match s.agenda with
  | t :: rest => (t, { s with agenda := rest })
  | [] => (Config.schedule s.steps, s)

/-- One turn. -/
def takeTurn (t : Turn) (s : State) : Host.Outcome State Fault Refusal :=
  match t.move with
  | .issue p => issueAt p (elapse s t.dt)
  | .event i => eventAt i (elapse s t.dt)

/-! ### A program placed from outside -/

/-- The translation tables and the code that `placeWord` lays out in die 0: three tables and one page. -/
def codeTables (hbm : Memory) (word : Word) : Memory :=
  let m := hbm.writeN 0x2000 (natLe 8 0x4001)
  let m := m.writeN 0x4000 (natLe 8 0x5001)
  let m := m.writeN 0x5000 (natLe 8 0x6001)
  m.writeN 0x6000 (wordLe word)

/-- A booted module with one wave on core 0 of die 0, whose first instruction is this word: interface 0 owns the core, a
kernel of one page of code is loaded, and its one block is placed. DESIGN CHOICE, log 3. -/
def placeWord (s : State) (word : Word) : State :=
  let va := s.moduleNo * 2 ^ 47
  let k : Kernel := { vi := 0, bundle := s.bundles.length, index := 0, codelen := 4096, vregs := 64, code := [va, va] }
  let l : Launch :=
    { vi := 0, number := (s.vi 0).nextLaunch, queue := 0, kernel := s.kernels.length, proc := 0, thread := 0, asid := 0
      gx := 1, gy := 1, gz := 1, threads := 32, slices := 1 }
  let li := s.launches.length
  let bi := s.blocks.length
  let s := { s with boot := 6, kernels := s.kernels ++ [k], launches := s.launches ++ [({ l with next := 1, blocks := [bi] } : Launch)]
                    blocks := s.blocks ++ [({ launch := li, lin := 0 } : Block)] }
  let s := s.modVi 0 fun v => { v with desc := { v.desc with cores := [⟨0, 0⟩], raceMax := .fault } }
  let s := s.modDie 0 fun d => { d with hbm := codeTables d.hbm word, raf := (0, 0, BitVec.ofNat 128 (2 ^ 46 + 17)) :: d.raf }
  let s := s.modCore 0 0 (fun _ => CoreState.fresh)
  placeAt s li bi 0 0 [0]

end Sys2Proof.Machine
end

