-- ==== Sys2Proof/Machine/Step.lean ====
section
/-!
DEFINITION. One step of the machine: one turn of one of its agents.
-/

namespace Sys2Proof.Machine

/-- One step: the next turn is taken. -/
def step (s : State) : Host.Outcome State Fault Refusal := takeTurn s.nextTurn.1 s.nextTurn.2

/-- The state with an instruction placed where the very next step fetches it: a loaded kernel, a placed block of one
wave, and a turn of its partition. DESIGN CHOICE, log 3. -/
def State.withFetchWord (s : State) (_nbits w : Nat) : State :=
  { placeWord s (BitVec.ofNat 32 w) with agenda := [⟨0, .issue ⟨0, 0, 0⟩⟩] }

end Sys2Proof.Machine
end

