-- ==== Sys2Proof/Safety.lean ====
section
/-!
DEFINITION. What holds of a machine in order: its memories keep their one form, its waves keep the shape the manual
gives them, no setting of a cluster leaves its range, and what is never taken back only grows
(R6, R12, R21, R22, R34, R36, R281 to R283, R287, R299, R322, R323).
-/

namespace Sys2Proof.Machine

/-! ### Memory -/

/-- The memory in what a Felt version holds. -/
def Snapshot.memOk : Snapshot → Prop
  | .wave w => w.spill.wf = true
  | .block b => b.shared.wf = true

def FeltLine.memOk (l : FeltLine) : Prop := (∀ x, l.snapA = some x → x.memOk) ∧ ∀ x, l.snapB = some x → x.memOk

def DieState.memOk (d : DieState) : Prop := d.scratch.wf = true ∧ d.hbm.wf = true ∧ ∀ l ∈ d.felt, l.memOk

/-- Every memory of the machine keeps its canonical form. -/
structure State.memOk (s : State) : Prop where
  dies : ∀ d ∈ s.dies, d.memOk
  blocks : ∀ b ∈ s.blocks, b.shared.wf = true
  waves : ∀ w ∈ s.waves, w.spill.wf = true
  vis : ∀ v ∈ s.vis, v.hdm.wf = true
  host : s.hostMem.wf = true
  procs : ∀ p ∈ s.procs, p.mem.wf = true

/-! ### Waves -/

/-- 128 vector registers, 16 masks, a side-buffer entry of 64 words, and at most 16 runs on the pending-path stack
(R21, R34, R231, R299). -/
def Wave.ok (w : Wave) : Prop := w.regs.length = 128 ∧ w.k.length = 16 ∧ w.sb.length = 64 ∧ w.path.length ≤ 16

def Snapshot.waveOk : Snapshot → Prop
  | .wave w => w.ok
  | .block _ => True

def FeltLine.waveOk (l : FeltLine) : Prop := (∀ x, l.snapA = some x → x.waveOk) ∧ ∀ x, l.snapB = some x → x.waveOk

/-- Every wave, and every saved image of one, has the shape of a wave. -/
structure State.wavesOk (s : State) : Prop where
  waves : ∀ w ∈ s.waves, w.ok
  dies : ∀ d ∈ s.dies, ∀ l ∈ d.felt, l.waveOk

/-! ### Power (R281 to R283, R287) -/

/-- A clock step of the list of R282. -/
def clockOk (f : Nat) : Prop := 14 ≤ f ∧ f ≤ 20

/-- VCODE within 0 to 32, no PASS or FLOOR code 3, and a clock between 1.4 and 2.0 GHz. -/
structure ClusterState.ok (c : ClusterState) : Prop where
  vcode : c.vcode ≤ 32
  pass : c.pass ≤ 2
  floor : c.floor ≤ 2
  clock : clockOk c.step
  next : ∀ f, c.clockTo = some f → clockOk f
  want : ∀ f, c.clockWant = some f → clockOk f

def State.powerOk (s : State) : Prop := ∀ c ∈ s.clusters, c.ok

/-! ### The module's parts (R6, R12) -/

/-- Two dies of 96 cores in six clusters, the hub die's 24 system cores, and the interfaces of the module. -/
def State.shapeOk (s : State) : Prop :=
  s.dies.length = 2 ∧ s.cores.length = 192 ∧ s.clusters.length = 12 ∧ s.vis.length = 65 ∧ s.hbmStacks.length = 8 ∧
    s.sysCores.length = 24

/-! ### Memory that does not change -/

/-- Every byte of every memory reads as before: shared memory, scratchpad and spill area as an access reads them, HBM,
host memory, the HDM of the interfaces and the memory of processes. -/
structure SameMem (s t : State) : Prop where
  homes : ∀ h a, t.homeRead h a = s.homeRead h a
  hbm : ∀ d a, (t.die d).hbm.read a = (s.die d).hbm.read a
  host : ∀ a, t.hostMem.read a = s.hostMem.read a
  hdm : ∀ v a, (t.vi v).hdm.read a = (s.vi v).hdm.read a
  procs : ∀ p a, (t.proc p).mem.read a = (s.proc p).mem.read a

/-! ### The issuing wave (R39, R41, R74, R103, R154, R238) -/

/-- Wave `wi` is issuing and no hold binds it; of these registers none is pending and none has suffered an error. -/
def State.ready (s : State) (wi : Nat) (regs : List (BitVec 7)) : Bool :=
  s.cur == some wi && decide (wi < s.waves.length) && s.unheld wi &&
    regs.all fun d => !(s.wave wi).pend.contains d && !(s.wave wi).badRegs.any fun x => x.1 == d

/-- The wave can make all of these registers V within its quota (R41). -/
def Wave.room (w : Wave) (ds : List (BitVec 7)) : Bool :=
  let n := (ds.filter fun d => !w.hasSlot d).length
  n == 0 || decide (w.liveV + n ≤ w.qw)

/-- A lane instruction that reads and writes these registers can issue now: every unit it could use is free, and its
results find room. -/
def State.laneReady (s : State) (wi : Nat) (rd wr : List (BitVec 7)) : Bool :=
  s.ready wi (rd ++ wr) && (s.wave wi).room wr && (s.wave wi).regs.length == 128 && (s.wave wi).k.length == 16 &&
    [ExecUnit.uniform, .vector, .sfu, .mask].all (s.unitFree wi)

/-- The wave after it retires an instruction that has no other effect on it. -/
def Wave.retired (w : Wave) : Wave :=
  { w with
    pc := w.pc + 4, issued := false, holds := [], suspended := if w.trapMode then w.suspended else none }

/-- A register write takes the result in this lane (R39, R40). -/
def Wave.takes (w : Wave) (l : Nat) : Bool := w.active == w.pm || bit w.active l

/-- In these cores nothing changed but what one partition counts as busy, and the core's slow passes. -/
structure OnlyBusy (s t : State) (p : PartRef) : Prop where
  others : ∀ n, n ≠ 96 * p.die + p.core → t.cores[n]? = s.cores[n]?
  core : t.core p.die p.core =
    { s.core p.die p.core with
      slowpass := (t.core p.die p.core).slowpass, parts := (t.core p.die p.core).parts }
  parts : ∀ k, k ≠ p.part → (t.core p.die p.core).parts[k]? = (s.core p.die p.core).parts[k]?
  part : t.part p = { s.part p with busy := (t.part p).busy }

/-- What a lane instruction with the destinations `ds` leaves: the wave has retired it; only `ds`, their slots and
sticky FSTAT bits changed in the wave, and only the occupancy of a unit outside it; no byte of memory changed. -/
structure LaneDone (s t : State) (wi : Nat) (ds : List (BitVec 7)) : Prop where
  state : t = { s with waves := s.waves.set wi (t.wave wi), cores := t.cores }
  wave : t.wave wi =
    { (s.wave wi).retired with
      regs := (t.wave wi).regs, slots := (t.wave wi).slots, fstat := (t.wave wi).fstat, badRegs := (t.wave wi).badRegs }
  regs : ∀ e, e ∉ ds → (t.wave wi).reg e = (s.wave wi).reg e
  phys : (t.wave wi).slots.map Slot.phys = (s.wave wi).slots.map Slot.phys
  slots : ∀ x ∈ (s.wave wi).slots, ∀ e, x.reg = some e → e ∉ ds → x ∈ (t.wave wi).slots
  bad : ∀ x ∈ (s.wave wi).badRegs, x.1 ∉ ds → x ∈ (t.wave wi).badRegs
  sticky : (s.wave wi).fstat &&& (t.wave wi).fstat = (s.wave wi).fstat
  busy : OnlyBusy s t (s.wave wi).part
  mem : SameMem s t

/-- Register `d` holds `f l` in every lane that the write takes, and its old value in the others (R39, R40). -/
def LaneValues (s t : State) (wi : Nat) (d : BitVec 7) (f : Nat → Word) : Prop :=
  ∀ l < 32, ((t.wave wi).reg d).lane l = if (s.wave wi).takes l then f l else ((s.wave wi).reg d).lane l

/-- Where `p` holds of the wave, the instruction, which reads `rd`, completes: it writes register `d` alone, lane `l` of
its result is `f` of the wave and `l`, and it sets no flag. -/
def WritesLaneIf (p : Wave → Prop) (i : Instr) (rd : List (BitVec 7)) (d : BitVec 7) (f : Wave → Nat → Word) : Prop :=
  ∀ s wi, s.laneReady wi rd [d] = true → p (s.wave wi) → ∃ t, exec i s = .next t ∧ LaneDone s t wi [d] ∧
    (t.wave wi).fstat = (s.wave wi).fstat ∧ LaneValues s t wi d (f (s.wave wi))

/-- The same of an instruction that depends on no field of MODE but the guard. -/
def WritesLane (i : Instr) (rd : List (BitVec 7)) (d : BitVec 7) (f : Wave → Nat → Word) : Prop :=
  WritesLaneIf (fun _ => True) i rd d f

/-- What an instruction that writes masks or codes, and no register, leaves: the wave has retired it, and in the wave
only masks, codes, the helper mask and sticky FSTAT bits changed; of the masks, at most `k`. An untraced wave's
instruction changes nothing else but the occupancy of a unit; a traced one's writes packets in the scratchpad. -/
structure CodesDone (s t : State) (wi : Nat) (k : Option (BitVec 4)) : Prop where
  state : t = { s with waves := s.waves.set wi (t.wave wi), cores := t.cores, dies := t.dies }
  wave : t.wave wi =
    { (s.wave wi).retired with
      fstat := (t.wave wi).fstat, k := (t.wave wi).k, mz := (t.wave wi).mz, mf := (t.wave wi).mf, z := (t.wave wi).z
      n := (t.wave wi).n, c := (t.wave wi).c, v := (t.wave wi).v, hm := (t.wave wi).hm, trace := (t.wave wi).trace }
  masks : ∀ j, some j ≠ k → (t.wave wi).mask j = (s.wave wi).mask j
  sticky : (s.wave wi).fstat &&& (t.wave wi).fstat = (s.wave wi).fstat
  untraced : (s.wave wi).trace.on = false →
    (t.wave wi).trace = (s.wave wi).trace ∧ t.dies = s.dies ∧ OnlyBusy s t (s.wave wi).part ∧ SameMem s t

/-- Z, N, C and V are as before. -/
def SameCodes (a b : Wave) : Prop := b.z = a.z ∧ b.n = a.n ∧ b.c = a.c ∧ b.v = a.v

/-- MZ and MF as R69 gives them from a mask `m`. -/
def MaskCodes (w : Wave) (m : Word) : Prop := w.mz = ((m &&& w.pm) == 0) ∧ w.mf = ((m &&& w.pm) == w.pm)

/-- The instruction, which reads `rd`, completes: it writes mask `k` with `f` of the wave, sets MZ and MF from it, and
sets no other code and no flag. -/
def WritesMask (i : Instr) (rd : List (BitVec 7)) (k : BitVec 4) (f : Wave → Word) : Prop :=
  ∀ s wi, s.laneReady wi rd [] = true → ∃ t, exec i s = .next t ∧ CodesDone s t wi (some k) ∧
    (t.wave wi).mask k = f (s.wave wi) ∧ MaskCodes (t.wave wi) (f (s.wave wi)) ∧ SameCodes (s.wave wi) (t.wave wi) ∧
    (t.wave wi).hm = (s.wave wi).hm ∧ (t.wave wi).fstat = (s.wave wi).fstat

/-- Two 16-bit elements of a word, each under a function (R49). -/
def halves (f : BitVec 16 → BitVec 16 → BitVec 16) (x y : Word) : Word :=
  f (x.extractLsb' 16 16) (y.extractLsb' 16 16) ++ f (x.extractLsb' 0 16) (y.extractLsb' 0 16)

/-- An exact integer clamped to a range (R55). -/
def clampTo (lo hi x : Int) : Int := if x < lo then lo else if hi < x then hi else x

/-! ### Values of binary32 (R47, R53, R54, R56, R57) -/

/-- The code is a NaN. -/
def f32Nan (x : Word) : Bool := decide (0x7F800000 < x &&& 0x7FFFFFFF)

/-- The code is that of a finite value. -/
def f32Fin (x : Word) : Bool := decide (x &&& 0x7FFFFFFF < 0x7F800000)

/-- A code as it is read: under FLUSH a subnormal is a zero of its sign. -/
def f32Read (flush : Bool) (x : Word) : Word := if flush && x &&& 0x7FFFFFFF < 0x00800000 then x &&& 0x80000000 else x

/-- The value of a code that is no NaN, in units of 2^-149; an infinity counts as 2^128. -/
def f32Int (x : Word) : Int :=
  let m := x.toNat % 2 ^ 23
  let e := x.toNat / 2 ^ 23 % 256
  let n : Nat := if e = 0 then m else (2 ^ 23 + m) * 2 ^ (e - 1)
  if x.msb then -n else n

/-- `r` is the exact nonzero value of `x` units of 2^-(149 + k), rounded to nearest with ties to even: an infinity from half a unit
beyond the largest value on, a zero for a subnormal under FLUSH. -/
def NearestF32 (flush : Bool) (k : Nat) (x : Int) (r : Word) : Prop :=
  let off (y : Word) : Nat := (f32Int y * 2 ^ k - x).natAbs
  r.msb = decide (x < 0) ∧
  if (2 ^ 25 - 1) * 2 ^ (252 + k) ≤ x.natAbs then r &&& 0x7FFFFFFF = 0x7F800000
  else if flush = true ∧ x.natAbs < 2 ^ 23 * 2 ^ k then x.natAbs ≤ (2 ^ 23 - 1) * 2 ^ k → r &&& 0x7FFFFFFF = 0
  else f32Fin r = true ∧ ∀ y, f32Fin y = true →
    off r ≤ off y ∧ (off r = off y → f32Int y ≠ f32Int r → r.getLsbD 0 = false)

/-- A binary format: exponent and mantissa bits, and the unit of its least digit, 2^-unit (R47, R48). -/
structure FltForm where
  exp : Nat
  man : Nat
  unit : Nat
  deriving DecidableEq, Repr

def FltForm.bits (f : FltForm) : Nat := 1 + f.exp + f.man

/-- The value of a code that is neither infinity nor NaN, in units of 2^-unit. -/
def FltForm.int (f : FltForm) (x : Nat) : Int :=
  let m := x % 2 ^ f.man
  let e := x / 2 ^ f.man % 2 ^ f.exp
  let n : Nat := if e = 0 then m else (2 ^ f.man + m) * 2 ^ (e - 1)
  if x / 2 ^ (f.exp + f.man) % 2 = 1 then -n else n

/-- The code is finite whatever the format, and under FLUSH no subnormal. -/
def FltForm.ok (f : FltForm) (flush : Bool) (x : Nat) : Bool :=
  let m := x % 2 ^ f.man
  let e := x / 2 ^ f.man % 2 ^ f.exp
  (e < 2 ^ f.exp - 1 || f.exp == 2 || (f.exp == 4 && m < 7)) && !(flush && e == 0 && m != 0)

/-- The float matrix forms, with the formats of A and B, and SEL of the scaled ones (R205, R206, R207). -/
def floatForms : List (TileFn × FltForm × FltForm × Option Nat) :=
  let e4 : FltForm := ⟨4, 3, 9⟩
  let e5 : FltForm := ⟨5, 2, 16⟩
  let pairs := [(0, e4, e4), (1, e4, e5), (2, e5, e4), (3, e5, e5)]
  [(.bf16, ⟨8, 7, 133⟩, ⟨8, 7, 133⟩, none), (.f16, ⟨5, 10, 24⟩, ⟨5, 10, 24⟩, none)] ++
    pairs.flatMap (fun p => [(.f8 p.1, p.2.1, p.2.2, none), (.gmma p.1, p.2.1, p.2.2, none)]) ++
    (List.range 4).flatMap fun h =>
      (.mxf4 h, ⟨2, 1, 1⟩, ⟨2, 1, 1⟩, some h) :: pairs.map fun p => (.mxf8 p.1 h, p.2.1, p.2.2, some h)

/-! ### Traps (R218, R229 to R236) -/

/-- The core of a wave is gated (R269). -/
def State.gatedCore (s : State) (wi : Nat) : Bool := (s.core (s.wave wi).part.die (s.wave wi).part.core).gate == .gated

/-- Wave `wi` is issuing outside trap mode, and its kernel has a handler at `base`. -/
def State.canTrap (s : State) (wi base : Nat) (regs : List (BitVec 7)) : Bool :=
  s.ready wi regs && !(s.wave wi).trapMode && !(s.wave wi).halted && !(s.wave wi).exited && (s.wave wi).stop == .run &&
    !s.gatedCore wi && s.handler wi == some base

/-- What an instruction leaves that traps: the wave stands at the vector of its class in trap mode; the side-buffer
entry is valid and names the trap; the trapping instruction has changed no register, slot, mask, code, MODE field, FSTAT
bit or queue count, and no byte of memory but those of a traced wave's packets. -/
structure Trapped (s t : State) (wi base : Nat) (cls : TrapClass) (code kind : Nat) (tpc rpc iword : Word) : Prop where
  wave : t.wave wi =
    { s.wave wi with
      trapMode := true, pc := BitVec.ofNat 32 (base + 0x40 * cls.code), sb := (t.wave wi).sb, what := .none, stop := .run
      issued := false, suspended := (t.wave wi).suspended, trapOp := s.ops.length, holds := []
      holdsOut := (t.wave wi).holdsOut, trapDue := false, trace := (t.wave wi).trace, unissued := (t.wave wi).unissued }
  size : (t.wave wi).sb.length = 64
  hdr : (t.wave wi).sb.getD 0 0 = BitVec.ofNat 32 (2 ^ 31 + kind * 2 ^ 28 + code * 2 ^ 8 + cls.code)
  tpc : (t.wave wi).sb.getD 1 0 = tpc
  rpc : (t.wave wi).sb.getD 2 0 = rpc
  iword : (t.wave wi).sb.getD 4 0 = iword
  guard : (t.wave wi).sb.getD 6 0 = (s.wave wi).guard
  mode : (t.wave wi).sb.getD 7 0 = (s.wave wi).mode.zeroExtend 32
  gen : (t.wave wi).sb.getD 9 0 = BitVec.ofNat 32 (s.waveBlock wi).gen
  others : ∀ j, j ≠ wi → t.wave j = s.wave j
  rest : t.blocks = s.blocks ∧ t.launches = s.launches ∧ t.accs = s.accs ∧ t.tiles = s.tiles ∧ t.copies = s.copies ∧
    t.ops = s.ops ++ [MemOp.blank] ∧ t.clusters = s.clusters ∧ t.posts = s.posts
  untraced : (s.wave wi).trace.on = false →
    (t.wave wi).trace = (s.wave wi).trace ∧ t.dies = s.dies ∧ SameMem s t ∧
      ∀ d c, t.core d c = { s.core d c with parts := (t.core d c).parts }

/-- A trap of the instruction at the wave's PC, raised at issue. -/
def IssueTraps (i : Instr) (s : State) (wi base : Nat) (cls : TrapClass) (code : Nat) (iword : Word) : Prop :=
  ∃ t, exec i s = .next t ∧ Trapped s t wi base cls code 0 (s.wave wi).pc (s.wave wi).pc iword

/-! ### Instructions that change their wave alone -/

/-- The instruction completes: wave `wi` becomes `w`, and nothing else changes, no byte of memory among it. -/
def SetsWave (i : Instr) (s : State) (wi : Nat) (w : Wave) : Prop :=
  ∃ t, exec i s = .next t ∧ t = { s with waves := s.waves.set wi w } ∧ SameMem s t

/-- The instruction completes: wave `wi` becomes `w`; only a traced wave's packets, in the scratchpad, may change
anything else. -/
def TracedWave (i : Instr) (s : State) (wi : Nat) (w : Wave) : Prop :=
  ∃ t, exec i s = .next t ∧ t.wave wi = { w with trace := (t.wave wi).trace } ∧
    t = { s with waves := s.waves.set wi (t.wave wi), cores := t.cores, dies := t.dies } ∧
    ((s.wave wi).trace.on = false → t = { s with waves := s.waves.set wi w } ∧ SameMem s t)

/-- The instruction completes: the wave retires it with U(x) in each of these registers, as a full write whatever the
guard, and nothing else changes but their slots. -/
def WritesU (i : Instr) (s : State) (wi : Nat) (pc : Word) (ws : List (BitVec 7 × Word)) : Prop :=
  ∃ t, exec i s = .next t ∧ t = { s with waves := s.waves.set wi (t.wave wi) } ∧
    t.wave wi = { (s.wave wi).retired with
      pc := pc, regs := (t.wave wi).regs, slots := (t.wave wi).slots, badRegs := (t.wave wi).badRegs } ∧
    (∀ x ∈ ws, (t.wave wi).reg x.1 = .u x.2 ∧ (t.wave wi).hasSlot x.1 = false) ∧
    (∀ e, e ∉ ws.map Prod.fst → (t.wave wi).reg e = (s.wave wi).reg e) ∧
    (t.wave wi).slots.map Slot.phys = (s.wave wi).slots.map Slot.phys ∧
    (∀ x ∈ (s.wave wi).slots, ∀ e, x.reg = some e → e ∉ ws.map Prod.fst → x ∈ (t.wave wi).slots) ∧ SameMem s t

/-! ### Memory instructions (R72, R141, R146, R157 to R164) -/

/-- Every address passes the checks of R141 for an access of this width, and none lies in the aperture window or in an
SC region. -/
def State.addrsOk (s : State) (wi width : Nat) (addrs : List Nat) : Bool :=
  addrs.all fun x => s.memCode wi x width false == none &&
    !(spaceOf x == .scratch && s.inSc (s.waveLaunch wi).vi (s.wave wi).part.die x)

/-- No line of the spill area that these addresses lie in is marked (R238). -/
def State.spillSound (s : State) (wi : Nat) (addrs : List Nat) : Bool :=
  addrs.all fun x => spaceOf x != .spill || (s.mark (.spill wi) x).isNone

/-- The operand log has an entry free and a full-vector entry for each of `v` V operands; with more than four, it is
empty (R162). -/
def Wave.logRoom (w : Wave) (v : Nat) : Bool :=
  if 4 < v then decide (40 ≤ w.log.countP Option.isNone) && decide (4 ≤ w.full.countP Option.isNone)
  else decide (1 ≤ w.log.countP Option.isNone) && decide (v ≤ w.full.countP Option.isNone)

/-- V registers among these, as often as they are named. -/
def Wave.countV (w : Wave) (ds : List (BitVec 7)) : Nat := ds.countP fun d => (w.reg d).isV

/-- The lanes that an instruction accesses memory for, with their addresses (R157). -/
def Wave.accessLanes (w : Wave) (a : BitVec 7) (off : Word) : List (Nat × Nat) :=
  ((List.range 32).filter fun l => bit w.guard l && bit w.pm l).map fun l => (l, ((w.reg a).lane l + off).toNat)

/-- What a memory instruction leaves at issue: one operation and one access for each space that its lanes address, spill
accesses performed and the others queued; the wave has retired it, with its queue counts, log, pending bits and slots. No
byte of memory changes but those that it stores in its spill area. -/
structure MemIssued (s t : State) (wi : Nat) (k : AccKind) (width : Nat) (dst : List (BitVec 7)) (lanes : List LaneAcc) :
    Prop where
  op : ∃ o, t.ops = s.ops ++ [o] ∧ o.wave = wi ∧ o.pc = (s.wave wi).pc ∧ o.mode = (s.wave wi).mode ∧
    o.dst = if lanes.isEmpty then [] else dst
  accs : ∃ new, t.accs = s.accs ++ new ∧ (new.map Acc.space).Nodup ∧ (∀ l ∈ lanes, ∃ x ∈ new, l ∈ x.lanes) ∧
    ∀ x ∈ new, x.op = s.ops.length ∧ x.wave = wi ∧ x.kind = k ∧ x.width = width ∧
      x.lanes = lanes.filter (fun l => spaceOf l.addr == x.space) ∧ x.lanes ≠ [] ∧
      x.st = if x.space != .spill then .queued else if k == .store then .done else .arrived
  wave : t.wave wi =
    { (s.wave wi).retired with
      ql := (t.wave wi).ql, qs := (t.wave wi).qs, rc := (t.wave wi).rc, log := (t.wave wi).log, full := (t.wave wi).full
      pend := (if lanes.isEmpty then [] else dst) ++ (s.wave wi).pend, slots := (t.wave wi).slots
      holds := (t.wave wi).holds, haltDue := (t.wave wi).haltDue, spill := (t.wave wi).spill }
  state : t =
    { s with
      waves := s.waves.set wi (t.wave wi), ops := t.ops, accs := t.accs, posts := t.posts, dies := t.dies
      appends := t.appends }
  dies : ∀ d, t.die d = { s.die d with persist := (t.die d).persist, marked := (t.die d).marked }
  phys : (t.wave wi).slots.map Slot.phys = (s.wave wi).slots.map Slot.phys
  mem : ∀ h x, (k = .load ∨ ∀ l ∈ lanes, spaceOf l.addr = .spill → h = .spill wi →
    0x18000000 ≤ x ∧ (x < l.addr ∨ l.addr + width ≤ x)) → t.homeRead h x = s.homeRead h x

/-! ### Matrix instructions (R204, R209, R288) -/

/-- The 32 lanes of a register as a matrix instruction reads them: zero where no lane is present (R204). -/
def Wave.blockLanes (w : Wave) (r : BitVec 7) : Lanes := (List.range 32).map fun l => if bit w.pm l then (w.reg r).lane l else 0

/-- The eight registers of a block (R204). -/
def block8 (x : BitVec 4) : List (BitVec 7) := (List.range 8).map fun j => BitVec.ofNat 7 (8 * x.toNat + j)

/-- What a matrix instruction leaves at issue: one tile over the fragments it has read, QT one higher, its D block pending;
the wave has retired it. No byte of memory changes. -/
structure TileIssued (s t : State) (wi : Nat) (fn : TileFn) (d : BitVec 4) (a b : Option (BitVec 4)) (xs : List (BitVec 7)) :
    Prop where
  op : ∃ o, t.ops = s.ops ++ [o] ∧ o.wave = wi ∧ o.pc = (s.wave wi).pc ∧ o.mode = (s.wave wi).mode ∧ o.cls = some .tile ∧
    o.dst = block8 d ∧ o.counted = 1
  tile : ∃ x, t.tiles[s.tiles.length]? = some x ∧ t.tiles.length = s.tiles.length + 1 ∧ x.wave = wi ∧ x.op = s.ops.length ∧
    x.part = (s.wave wi).part ∧ x.fn = fn ∧ x.passes = s.wavePass wi ∧ x.c = (block8 d).map (s.wave wi).blockLanes ∧
    x.a = a.elim [] (fun y => (block8 y).map (s.wave wi).blockLanes) ∧
    x.b = b.elim [] (fun y => (block8 y).map (s.wave wi).blockLanes) ∧
    (∀ y, xs[0]? = some y → x.xa = (s.wave wi).blockLanes y) ∧ (∀ y, xs[1]? = some y → x.xb = (s.wave wi).blockLanes y)
  others : ∀ (i : Nat) (x : Tile), s.tiles[i]? = some x → ∃ st, t.tiles[i]? = some ({ x with st := st } : Tile)
  wave : t.wave wi = { (s.wave wi).retired with
    qt := (s.wave wi).qt + 1, pend := block8 d ++ (s.wave wi).pend, slots := (t.wave wi).slots, log := (t.wave wi).log
    full := (t.wave wi).full }
  state : t = { s with
    waves := s.waves.set wi (t.wave wi), ops := t.ops, tiles := t.tiles, accs := t.accs, cores := t.cores }
  cores : ∀ i, i ≠ 96 * (s.wave wi).part.die + (s.wave wi).part.core → t.cores[i]? = s.cores[i]?
  mem : SameMem s t

/-- The partition takes a tile now: its input stage is free, and no dense burst waits for the guard step (R209, R288). -/
def State.tileRoom (s : State) (wi : Nat) : Prop :=
  let p := (s.wave wi).part
  let c := s.cluster (s.wave wi).cluster
  s.stageFull p = false ∧ (s.tensorIdle p 64 = true → c.guard = .held ∨ (c.guard = .none ∧ 32 ≤ c.vcode))

/-! ### Bytes stored (R144, R159) -/

/-- Where a home keeps the byte of an address. -/
def State.place (s : State) : Home → Nat → Nat
  | .shared _, a => a
  | .scratch vi die, a => s.scratchPhys vi die a
  | .spill _, a => a - 0x18000000

/-- The byte that a run of stores leaves at a place: of two lanes that store there, the higher lane's (R159). -/
def lastStore (place : Nat → Nat) (lanes : List LaneAcc) (x : Nat) : Option Byte :=
  (lanes.flatMap fun l => l.data.mapIdx fun j b => (place (l.addr + j), b)).reverse.lookup x

/-- The home is one of the machine's. -/
def State.homeOk (s : State) : Home → Bool
  | .shared b => decide (b < s.blocks.length) && decide ((s.block b).die < s.dies.length)
  | .scratch _ die => decide (die < s.dies.length)
  | .spill w => decide (w < s.waves.length) && decide ((s.wave w).part.die < s.dies.length)

/-- These bytes have been stored at a home, and no other byte of memory has changed. -/
structure BytesStored (s t : State) (h : Home) (lanes : List LaneAcc) : Prop where
  shared : ∀ b x, (t.block b).shared.read x =
    (if h = .shared b then lastStore (s.place h) lanes x else none).getD ((s.block b).shared.read x)
  scratch : ∀ d x, (t.die d).scratch.read x =
    (match h with
      | .scratch _ die => if die = d then lastStore (s.place h) lanes x else none
      | _ => none).getD ((s.die d).scratch.read x)
  spill : ∀ w x, (t.wave w).spill.read x =
    (if h = .spill w then lastStore (s.place h) lanes x else none).getD ((s.wave w).spill.read x)
  hbm : ∀ d a, (t.die d).hbm.read a = (s.die d).hbm.read a
  host : ∀ a, t.hostMem.read a = s.hostMem.read a
  hdm : ∀ v a, (t.vi v).hdm.read a = (s.vi v).hdm.read a
  procs : ∀ p a, (t.proc p).mem.read a = (s.proc p).mem.read a

/-- The writes of a wave's access have entered the persist buffer of its home's die, one for each line (R153). -/
structure Pushed (s t : State) (h : Home) (wi : Nat) (lanes : List LaneAcc) : Prop where
  new : ∃ new, (t.die (h.die s)).persist = (s.die (h.die s)).persist ++ new ∧ t.appends = s.appends + new.length ∧
    (∀ x ∈ new, x.wave = some wi ∧ x.blk = some (s.wave wi).blk ∧ x.party = some (s.wave wi).part.die ∧ x.data = t.lineNow x.key) ∧
    ∀ l ∈ lanes, l.data ≠ [] → ∃ x ∈ new, x.key = s.lineKey h l.addr
  others : ∀ d, d ≠ h.die s → (t.die d).persist = (s.die d).persist

/-! ### Stops that end (R24) -/

/-- A stopped wave as it goes on after the instruction that stopped it. -/
def State.woken (s : State) (wi : Nat) : Wave :=
  let w := s.wave wi
  { w.retired with
    holds := w.holds.filter (fun h => !s.holdOver wi h), stop := .run }

end Sys2Proof.Machine
end

