-- ==== Sys2Proof/Certificates/Slice0/Obligations.lean ====
section
/-!
DEFINITION. The statements about the model.
-/

section

open Sys2Proof Sys2Proof.Machine

/-! ### Lane instructions -/

/-- R110: the logic instructions give their function of the operands in every lane; the shifts use the low five bits of
their amount, shift zeros or copies of bit 31 in; none sets a flag. An immediate shift with a nonzero IMM10[9:5] is no
instruction and raises ILL. -/
def Obligations.LogicAndShiftLanes : Prop :=
  (∀ (d a b : BitVec 7) (imm : BitVec 10) (n : BitVec 5),
  WritesLane (.and d a b) [a, b] d (fun w l => (w.reg a).lane l &&& (w.reg b).lane l) ∧
  WritesLane (.or d a b) [a, b] d (fun w l => (w.reg a).lane l ||| (w.reg b).lane l) ∧
  WritesLane (.xor d a b) [a, b] d (fun w l => (w.reg a).lane l ^^^ (w.reg b).lane l) ∧
  WritesLane (.andn d a b) [a, b] d (fun w l => (w.reg a).lane l &&& ~~~(w.reg b).lane l) ∧
  WritesLane (.not d a) [a] d (fun w l => ~~~(w.reg a).lane l) ∧
  WritesLane (.andi d a imm) [a] d (fun w l => (w.reg a).lane l &&& imm.zeroExtend 32) ∧
  WritesLane (.ori d a imm) [a] d (fun w l => (w.reg a).lane l ||| imm.zeroExtend 32) ∧
  WritesLane (.xori d a imm) [a] d (fun w l => (w.reg a).lane l ^^^ imm.zeroExtend 32) ∧
  WritesLane (.shl d a b) [a, b] d (fun w l => (w.reg a).lane l <<< ((w.reg b).lane l &&& 31)) ∧
  WritesLane (.shr d a b) [a, b] d (fun w l => (w.reg a).lane l >>> ((w.reg b).lane l &&& 31)) ∧
  WritesLane (.sra d a b) [a, b] d (fun w l => (w.reg a).lane l |>.sshiftRight' ((w.reg b).lane l &&& 31)) ∧
  WritesLane (.rol d a b) [a, b] d (fun w l =>
    let n := (w.reg b).lane l &&& 31
    ((w.reg a).lane l <<< n) ||| ((w.reg a).lane l >>> (32 - n))) ∧
  WritesLane (.shli d a n) [a] d (fun w l => (w.reg a).lane l <<< n) ∧
  WritesLane (.shri d a n) [a] d (fun w l => (w.reg a).lane l >>> n) ∧
  WritesLane (.srai d a n) [a] d (fun w l => (w.reg a).lane l |>.sshiftRight' n)) ∧
  ∀ (word : Word) (s : State) (wi base : Nat), (opOf word).toNat ∈ [0x2E, 0x2F, 0x30] → word.extractLsb' 5 5 ≠ 0 →
    decode word = .error .zero ∧ (s.canTrap wi base [] = true → IssueTraps (.illWord word) s wi base .ill 3 word)

/-- R111, R112: bit fields, counts of bits, and bit reversal, untyped and without flags. -/
def Obligations.BitFieldLanes : Prop := ∀ d a b : BitVec 7,
  let pos (x : Word) : Word := x &&& 31
  let len (x : Word) : Nat := Nat.min (x.extractLsb' 8 6).toNat 32
  let m (x : Word) : Word := if len x = 32 then 0xFFFFFFFF else (1 <<< len x) - 1
  WritesLane (.bfe d a b) [a, b] d (fun w l => let y := (w.reg b).lane l; ((w.reg a).lane l >>> pos y) &&& m y) ∧
  WritesLane (.bfi d a b) [d, a, b] d (fun w l =>
    let y := (w.reg b).lane l
    ((w.reg d).lane l &&& ~~~(m y <<< pos y)) ||| (((w.reg a).lane l &&& m y) <<< pos y)) ∧
  WritesLane (.popc d a) [a] d (fun w l => BitVec.ofNat 32 ((List.range 32).countP ((w.reg a).lane l).getLsbD)) ∧
  WritesLane (.clz d a) [a] d (fun w l => ((w.reg a).lane l).clz) ∧
  WritesLane (.brev d a) [a] d (fun w l => ((w.reg a).lane l).reverse)

/-- R113, R114, R122, R120: immediates, `mov`, `lane` and `shape`; and under a full write `li` gives U, `lih` U
where D was U and V otherwise, `mov` the shape and value of A, `lane` A(0, 1), and `shape` U.
R114, R37: `sel` gives every present lane that the write takes the lane of A where the select mask has its bit, and of
B elsewhere; under a full write with all of PM or none of it selected, D takes the shape of the chosen operand, and a U
or A operand whole. -/
def Obligations.MovesAndSelects : Prop :=
  (∀ (d a : BitVec 7) (e : BitVec 17) (h : BitVec 16),
  WritesLane (.li d e) [] d (fun _ _ => e.zeroExtend 32) ∧
  WritesLane (.lih d h) [d] d (fun w l => (h.zeroExtend 32 <<< 16) ||| ((w.reg d).lane l &&& 0xFFFF)) ∧
  WritesLane (.mov d a) [a] d (fun w l => (w.reg a).lane l) ∧
  WritesLane (.lane d) [] d (fun _ l => BitVec.ofNat 32 l) ∧
  WritesLane (.shape d a) [a] d (fun w _ => match w.reg a with | .u _ => 0 | .a .. => 1 | .v _ => 2) ∧
  ∀ s wi, s.laneReady wi [a] [d] = true → (s.wave wi).active = (s.wave wi).pm →
    (∃ t, exec (.li d e) s = .next t ∧ (t.wave wi).reg d = .u (e.zeroExtend 32)) ∧
    (∃ t, exec (.lih d h) s = .next t ∧
      if ((s.wave wi).reg d).isU then ((t.wave wi).reg d).isU = true else ((t.wave wi).reg d).isV = true) ∧
    (∃ t, exec (.mov d a) s = .next t ∧ (t.wave wi).reg d = (s.wave wi).reg a) ∧
    (∃ t, exec (.lane d) s = .next t ∧ (t.wave wi).reg d = .a 0 1) ∧
    (∃ t, exec (.shape d a) s = .next t ∧ ((t.wave wi).reg d).isU = true)) ∧
  (∀ (d a b : BitVec 7) (k : BitVec 3) (s : State) (wi : Nat),
  s.laneReady wi [a, b] [d] = true → ∃ t, exec (.sel d a b k) s = .next t ∧ LaneDone s t wi [d] ∧
    (t.wave wi).fstat = (s.wave wi).fstat ∧
    let w := s.wave wi
    let m := w.mask (k.zeroExtend 4)
    (∀ l < 32, bit w.pm l = true → ((t.wave wi).reg d).lane l =
      if !w.takes l then (w.reg d).lane l else if bit m l then (w.reg a).lane l else (w.reg b).lane l) ∧
    let takes (r : Reg) : Prop := ((t.wave wi).reg d).shape = r.shape ∧ (r.isV = false → (t.wave wi).reg d = r)
    (w.active = w.pm → m &&& w.pm = w.pm → takes (w.reg a)) ∧
    (w.active = w.pm → m &&& w.pm ≠ w.pm → m &&& w.pm = 0 → takes (w.reg b)))

/-- R37, R40: the shape a guarded write leaves. Under a full write a logic instruction gives U only if all its inputs
are U, and V otherwise; under a partial write with a lane acting, the destination becomes V, unless it held U(x) and the
result is U(x); with no lane acting it is unchanged. -/
def Obligations.WrittenShapes : Prop := ∀ (d a b : BitVec 7) (s : State) (wi : Nat), s.laneReady wi [a, b] [d] = true →
  let w := s.wave wi
  (∀ i ∈ [Instr.and d a b, .or d a b, .xor d a b, .andn d a b, .shr d a b, .sra d a b, .rol d a b, .bfe d a b],
    w.active = w.pm → ∃ t, exec i s = .next t ∧
      if (w.reg a).isU && (w.reg b).isU then ((t.wave wi).reg d).isU = true else ((t.wave wi).reg d).isV = true) ∧
  (w.active ≠ w.pm → ∃ t, exec (.mov d a) s = .next t ∧
    if w.active = 0 ∨ (w.reg d = w.reg a ∧ (w.reg a).isU = true) then (t.wave wi).reg d = w.reg d
    else ((t.wave wi).reg d).isV = true)

/-- R37, I32 or U32 with saturation off, full write: the shapes of sums, differences, products, negation and left
shifts of U and A registers. -/
def Obligations.AffineShapes : Prop := ∀ (d a b : BitVec 7) (s : State) (wi : Nat), s.laneReady wi [a, b] [d] = true →
  modeType (s.wave wi).mode ∈ [0, 1] → modeSat (s.wave wi).mode = false → (s.wave wi).active = (s.wave wi).pm →
  let gives (i : Instr) (r : Reg) : Prop := ∃ t, exec i s = .next t ∧ (t.wave wi).reg d = r
  ∀ x y p q u v, (s.wave wi).reg a = .a p q →
    ((s.wave wi).reg b = .u x → gives (.add d a b) (.a (p + x) q) ∧ gives (.sub d a b) (.a (p - x) q) ∧
      gives (.sub d b a) (.a (x - p) (-q)) ∧ gives (.add d b a) (.a (p + x) q) ∧ gives (.mul d b a) (.a (x * p) (x * q)) ∧
      gives (.shl d a b) (.a (p <<< (x &&& 31)) (q <<< (x &&& 31)))) ∧
    ((s.wave wi).reg b = .a u v → gives (.add d a b) (.a (p + u) (q + v)) ∧ gives (.sub d a b) (.a (p - u) (q - v)) ∧
      ∃ t, exec (.mul d a b) s = .next t ∧ ((t.wave wi).reg d).isV = true) ∧
    gives (.neg d a) (.a (-p) (-q)) ∧ gives (.addi d a y) (.a (p + y.signExtend 32) q)

/-- R106 to R109: integer arithmetic with saturation off. Under I32 and U32 every lane is taken modulo 2^32; U32 differs
from I32 in `min`, `max`, `mulhi` and `abs`.
R136 with SATN clear: the integer dot products wrap modulo 2^32. -/
def Obligations.IntAndDotLanes : Prop :=
  (∀ (d a b : BitVec 7) (e : BitVec 10),
  let int : Wave → Prop := fun w => modeType w.mode ∈ [0, 1] ∧ modeSat w.mode = false
  let sgn : Wave → Prop := fun w => modeType w.mode = 0 ∧ modeSat w.mode = false
  let uns : Wave → Prop := fun w => modeType w.mode = 1 ∧ modeSat w.mode = false
  let A (w : Wave) (l : Nat) : Word := (w.reg a).lane l
  let B (w : Wave) (l : Nat) : Word := (w.reg b).lane l
  let D (w : Wave) (l : Nat) : Word := (w.reg d).lane l
  WritesLaneIf int (.add d a b) [a, b] d (fun w l => A w l + B w l) ∧
  WritesLaneIf int (.sub d a b) [a, b] d (fun w l => A w l - B w l) ∧
  WritesLaneIf int (.mul d a b) [a, b] d (fun w l => A w l * B w l) ∧
  WritesLaneIf int (.addi d a e) [a] d (fun w l => A w l + e.signExtend 32) ∧
  WritesLaneIf int (.fma d a b) [d, a, b] d (fun w l => D w l + A w l * B w l) ∧
  WritesLaneIf int (.fms d a b) [d, a, b] d (fun w l => A w l * B w l - D w l) ∧
  WritesLaneIf int (.fnma d a b) [d, a, b] d (fun w l => D w l - A w l * B w l) ∧
  WritesLaneIf int (.neg d a) [a] d (fun w l => -A w l) ∧
  WritesLaneIf sgn (.mulhi d a b) [a, b] d (fun w l => BitVec.ofInt 32 ((A w l).toInt * (B w l).toInt / 2 ^ 32)) ∧
  WritesLaneIf uns (.mulhi d a b) [a, b] d (fun w l => BitVec.ofNat 32 ((A w l).toNat * (B w l).toNat / 2 ^ 32)) ∧
  WritesLaneIf sgn (.min d a b) [a, b] d (fun w l => if (A w l).slt (B w l) then A w l else B w l) ∧
  WritesLaneIf sgn (.max d a b) [a, b] d (fun w l => if (A w l).slt (B w l) then B w l else A w l) ∧
  WritesLaneIf uns (.min d a b) [a, b] d (fun w l => if A w l < B w l then A w l else B w l) ∧
  WritesLaneIf uns (.max d a b) [a, b] d (fun w l => if A w l < B w l then B w l else A w l) ∧
  WritesLaneIf sgn (.abs d a) [a] d (fun w l => if (A w l).msb then -A w l else A w l) ∧
  WritesLaneIf uns (.abs d a) [a] d (fun w l => A w l)) ∧
  (∀ (d a b : BitVec 7),
  let p : Wave → Prop := fun w => modeSat w.mode = false
  let sum (k : Nat) (f : Nat → Word → Int) (w : Wave) (l : Nat) : Word :=
    BitVec.ofInt 32 (((w.reg d).lane l).toInt +
      ((List.range k).map fun j => f j ((w.reg a).lane l) * f j ((w.reg b).lane l)).sum)
  WritesLaneIf p (.dot4I8 d a b) [d, a, b] d (sum 4 fun j x => (x.extractLsb' (8 * j) 8).toInt) ∧
  WritesLaneIf p (.dot4U8 d a b) [d, a, b] d (sum 4 fun j x => ((x.extractLsb' (8 * j) 8).toNat : Int)) ∧
  WritesLaneIf p (.dot8I4 d a b) [d, a, b] d (sum 8 fun j x => (x.extractLsb' (4 * j) 4).toInt))

/-- R106, R108, R109 under I16×2 with saturation off: each 16-bit element separately.
R55, R106 under SATN: the exact result is clamped to the range of the type, and SAT, bit 5 of FSTAT, is set where a
lane acted for is clamped (R52). -/
def Obligations.HalfAndSaturatedLanes : Prop :=
  (∀ (d a b : BitVec 7),
  let p : Wave → Prop := fun w => modeType w.mode = 6 ∧ modeSat w.mode = false
  let on (f : BitVec 16 → BitVec 16 → BitVec 16) (w : Wave) (l : Nat) : Word := halves f ((w.reg a).lane l) ((w.reg b).lane l)
  WritesLaneIf p (.add d a b) [a, b] d (on fun x y => x + y) ∧
  WritesLaneIf p (.sub d a b) [a, b] d (on fun x y => x - y) ∧
  WritesLaneIf p (.mul d a b) [a, b] d (on fun x y => x * y) ∧
  WritesLaneIf p (.mulhi d a b) [a, b] d (on fun x y => BitVec.ofInt 16 (x.toInt * y.toInt / 2 ^ 16)) ∧
  WritesLaneIf p (.min d a b) [a, b] d (on fun x y => if x.slt y then x else y) ∧
  WritesLaneIf p (.max d a b) [a, b] d (on fun x y => if x.slt y then y else x)) ∧
  (∀ (d a b : BitVec 7) (s : State) (wi : Nat), s.laneReady wi [a, b] [d] = true →
  modeType (s.wave wi).mode ∈ [0, 1] → modeSat (s.wave wi).mode = true →
  let w := s.wave wi
  let val (x : Word) : Int := if modeType w.mode = 0 then x.toInt else x.toNat
  let lo : Int := if modeType w.mode = 0 then -2 ^ 31 else 0
  let hi : Int := if modeType w.mode = 0 then 2 ^ 31 - 1 else 2 ^ 32 - 1
  let does (i : Instr) (f : Int → Int → Int) : Prop :=
    let exact (l : Nat) : Int := f (val ((w.reg a).lane l)) (val ((w.reg b).lane l))
    ∃ t, exec i s = .next t ∧ LaneDone s t wi [d] ∧ LaneValues s t wi d (fun l => BitVec.ofInt 32 (clampTo lo hi (exact l))) ∧
      (t.wave wi).fstat = if ∃ l < 32, bit w.active l = true ∧ clampTo lo hi (exact l) ≠ exact l
        then w.fstat ||| 0x20 else w.fstat
  does (.add d a b) (· + ·) ∧ does (.sub d a b) (· - ·) ∧ does (.mul d a b) (· * ·))

/-- R66, R67, R91, R92, R106 to R109, R130, R133: a typed instruction completes under every element type that it is
defined for, writes its destination alone, a pair under the F64 pair type, and changes no mask, code or byte of memory.
R131, R132, R134 to R139: a conversion, dot product or ternary instruction completes under every MODE with XTRAP
clear, writes its destination alone, a pair for a 64-bit result, and changes no mask, code or byte of memory.
R53 to R57, R106, R107, R109, R131 under RNE with XTRAP clear: F32 sums, products and multiply-adds are the exact value
rounded once, with the sign of an exact zero, and NaN where an operand is NaN or the operation invalid, which sets NV;
exact results set no flag. `min`, `max`, `abs` and `neg` of F32. Integers are rounded to F32, and F32 to integers in
range; others give the most negative value or all ones. -/
def Obligations.TypedComplete : Prop :=
  (∀ (d a b : BitVec 7) (e : BitVec 10) (sb : BitVec 2) (s : State) (wi : Nat),
  let ty := modeType (s.wave wi).mode
  let does (i : Instr) (types : List Nat) (rd : List (BitVec 7)) (also : List (BitVec 7)) : Prop :=
    let r := fun x => if ty = 5 then [x, x + 1] else [x]
    ty ∈ types → (ty = 5 → ∀ x ∈ d :: rd, x.toNat % 2 = 0) → s.laneReady wi (also ++ rd.flatMap r) (r d) = true →
      modeTrap (s.wave wi).mode = false → ∃ t, exec i s = .next t ∧ LaneDone s t wi (r d)
  let all := [0, 1, 2, 3, 4, 5, 6]
  does (.add d a b) all [a, b] [] ∧ does (.sub d a b) all [a, b] [] ∧ does (.mul d a b) all [a, b] [] ∧
  does (.fma d a b) all [d, a, b] [] ∧ does (.fms d a b) all [d, a, b] [] ∧ does (.fnma d a b) all [d, a, b] [] ∧
  does (.min d a b) all [a, b] [] ∧ does (.max d a b) all [a, b] [] ∧ does (.abs d a) all [a] [] ∧
  does (.neg d a) all [a] [] ∧ does (.addi d a e) [0, 1] [a] [] ∧ does (.mulhi d a b) [0, 1, 6] [a, b] [] ∧
  does (.rcp d a) [2, 3, 4, 5] [a] [] ∧ does (.rsq d a) [2, 3, 4, 5] [a] [] ∧ does (.sqrt d a) [2, 3, 4, 5] [a] [] ∧
  does (.ex2 d a) [2, 3, 4] [a] [] ∧ does (.lg2 d a) [2, 3, 4] [a] [] ∧ does (.sinpi d a) [2, 3, 4] [a] [] ∧
  does (.cospi d a) [2, 3, 4] [a] [] ∧ does (.tanh d a) [2, 3, 4] [a] [] ∧ does (.scl d a b sb) [2, 3, 4, 5] [a] [b]) ∧
  (∀ (d a b : BitVec 7) (p : BitVec 2) (q : BitVec 3) (s : State) (wi : Nat),
  let does (i : Instr) (rd wr : List (BitVec 7)) : Prop :=
    s.laneReady wi rd wr = true → modeTrap (s.wave wi).mode = false → ∃ t, exec i s = .next t ∧ LaneDone s t wi wr
  does (.cvtF32I32 d a) [a] [d] ∧ does (.cvtF32U32 d a) [a] [d] ∧ does (.cvtI32F32 d a) [a] [d] ∧
  does (.cvtU32F32 d a) [a] [d] ∧ does (.cvtF32F16 d a) [a] [d] ∧ does (.cvtF32F16h d a) [a] [d] ∧
  does (.cvtF16x2F32 d a b) [a, b] [d] ∧
  does (.cvtF64F32 d a) [a] [d, d + 1] ∧ does (.cvtF64I32 d a) [a] [d, d + 1] ∧ does (.cvtF64U32 d a) [a] [d, d + 1] ∧
  does (.cvtF32F64 d a) [a, a + 1] [d] ∧ does (.cvtI32F64 d a) [a, a + 1] [d] ∧ does (.cvtU32F64 d a) [a, a + 1] [d] ∧
  does (.cvtE4m3F32 d a b) [d, a, b] [d] ∧ does (.cvtE5m2F32 d a b) [d, a, b] [d] ∧
  does (.cvtE2m1F32 d a b) [d, a, b] [d] ∧ does (.cvtBf16x2F32 d a b) [a, b] [d] ∧
  does (.cvtF32E4m3 d a b) [a, b] [d] ∧ does (.cvtF32E5m2 d a b) [a, b] [d] ∧ does (.cvtF32E2m1 d a b) [a, b] [d] ∧
  does (.cvtF32Bf16x2 d a b) [a, b] [d] ∧
  does (.dot4I8 d a b) [d, a, b] [d] ∧ does (.dot4U8 d a b) [d, a, b] [d] ∧ does (.dot8I4 d a b) [d, a, b] [d] ∧
  does (.dot4F8 d a b p) [d, a, b] [d] ∧ does (.dot8F4 d a b) [d, a, b] [d] ∧
  does (.t3x d a q) [a] [d] ∧ does (.t3pk d a q) [d, a] [d]) ∧
  (∀ (d a b : BitVec 7) (s : State) (wi : Nat), s.laneReady wi [d, a, b] [d] = true →
  modeRound (s.wave wi).mode = 0 → modeTrap (s.wave wi).mode = false →
  let w := s.wave wi
  let fl := modeFlush w.mode
  let A (l : Nat) : Word := f32Read fl ((w.reg a).lane l)
  let B (l : Nat) : Word := f32Read fl ((w.reg b).lane l)
  let D (l : Nat) : Word := f32Read fl ((w.reg d).lane l)
  let inf (x : Word) : Prop := x &&& 0x7FFFFFFF = 0x7F800000
  let zero (x : Word) : Prop := x &&& 0x7FFFFFFF = 0
  let lanes (i : Instr) (p : Nat → Word → Prop) (q : Word → Prop) : Prop := ∃ t, exec i s = .next t ∧ LaneDone s t wi [d] ∧
    (∀ l < 32, w.takes l = true → p l (((t.wave wi).reg d).lane l)) ∧ q (t.wave wi).fstat
  let sum (i : Instr) (k : Nat) (args : List (Nat → Word)) (x : Nat → Int) (negZero : Nat → Bool) (invalid : Nat → Prop) : Prop :=
    lanes i
      (fun l r => ((invalid l ∨ ∃ f ∈ args, f32Nan (f l) = true) → r = 0x7FC00000) ∧
        ((∀ f ∈ args, f32Fin (f l) = true) →
          if x l = 0 then r = (if negZero l then 0x80000000 else 0) else NearestF32 fl k (x l) r))
      (fun fstat => ((∃ l < 32, bit w.active l = true ∧ (invalid l ∨ ∃ f ∈ args, f32Nan (f l) = true ∧ (f l).getLsbD 22 = false)) →
          fstat.getLsbD 4 = true) ∧
        ((∀ l < 32, bit w.active l = true → (∀ f ∈ args, f32Fin (f l) = true) ∧
          ∃ y, f32Fin y = true ∧ f32Read fl y = y ∧ f32Int y * 2 ^ k = x l) → fstat = w.fstat))
  let prod (l : Nat) : Int := f32Int (A l) * f32Int (B l)
  let negProd (l : Nat) : Bool := prod l == 0 && (A l ^^^ B l).msb
  let posProd (l : Nat) : Bool := prod l == 0 && !(A l ^^^ B l).msb
  let badProd (l : Nat) : Prop := (inf (A l) ∧ zero (B l)) ∨ (zero (A l) ∧ inf (B l))
  let some3 (l : Nat) : Prop := f32Nan (A l) = false ∧ f32Nan (B l) = false ∧ f32Nan (D l) = false ∧ (inf (A l) ∨ inf (B l)) ∧ inf (D l)
  let neg : Word := 0x80000000
  (modeType w.mode = 2 →
    sum (.add d a b) 0 [A, B] (fun l => f32Int (A l) + f32Int (B l)) (fun l => A l == neg && B l == neg)
      (fun l => inf (A l) ∧ B l = A l ^^^ neg) ∧
    sum (.sub d a b) 0 [A, B] (fun l => f32Int (A l) - f32Int (B l)) (fun l => A l == neg && B l == 0)
      (fun l => inf (A l) ∧ B l = A l) ∧
    sum (.mul d a b) 149 [A, B] prod (fun l => (A l ^^^ B l).msb) badProd ∧
    sum (.fma d a b) 149 [D, A, B] (fun l => f32Int (D l) * 2 ^ 149 + prod l) (fun l => D l == neg && negProd l)
      (fun l => badProd l ∨ (some3 l ∧ (A l ^^^ B l ^^^ D l).msb = true)) ∧
    sum (.fms d a b) 149 [D, A, B] (fun l => prod l - f32Int (D l) * 2 ^ 149) (fun l => D l == 0 && negProd l)
      (fun l => badProd l ∨ (some3 l ∧ (A l ^^^ B l ^^^ D l).msb = false)) ∧
    sum (.fnma d a b) 149 [D, A, B] (fun l => f32Int (D l) * 2 ^ 149 - prod l) (fun l => D l == neg && posProd l)
      (fun l => badProd l ∨ (some3 l ∧ (A l ^^^ B l ^^^ D l).msb = false)) ∧
    let key (x : Word) : Int := if x.msb then -((x &&& 0x7FFFFFFF).toNat : Int) - 1 else x.toNat
    let pick (i : Instr) (first : Word → Word → Bool) : Prop := lanes i (fun l r => r =
      if f32Nan (A l) && f32Nan (B l) then 0x7FC00000 else if f32Nan (A l) then B l else if f32Nan (B l) then A l
      else if first (A l) (B l) then A l else B l) (fun _ => True)
    pick (.min d a b) (fun x y => key x ≤ key y) ∧ pick (.max d a b) (fun x y => key y ≤ key x) ∧
    lanes (.abs d a) (fun l r => r = if f32Nan (A l) then 0x7FC00000 else A l &&& 0x7FFFFFFF) (fun _ => True) ∧
    lanes (.neg d a) (fun l r => r = if f32Nan (A l) then 0x7FC00000 else A l ^^^ neg) (fun _ => True)) ∧
  let toF32 (i : Instr) (v : Word → Int) : Prop :=
    lanes i (fun l r => let x := v ((w.reg a).lane l) * 2 ^ 149; if x = 0 then r = 0 else NearestF32 fl 0 x r) (fun _ => True)
  let toInt (i : Instr) (lo hi : Int) (bad : Word) : Prop := lanes i (fun l r => (f32Nan (A l) = true → r = bad) ∧
    ∀ n : Int, f32Nan (A l) = false → let off := (n * 2 ^ 149 - f32Int (A l)).natAbs
      2 * off ≤ 2 ^ 149 → (2 * off = 2 ^ 149 → n % 2 = 0) → r = if lo ≤ n ∧ n ≤ hi then BitVec.ofInt 32 n else bad) (fun _ => True)
  toF32 (.cvtF32I32 d a) (fun x => x.toInt) ∧ toF32 (.cvtF32U32 d a) (fun x => x.toNat) ∧
  (modeSat w.mode = false → toInt (.cvtI32F32 d a) (-2 ^ 31) (2 ^ 31 - 1) 0x80000000 ∧
    toInt (.cvtU32F32 d a) 0 (2 ^ 32 - 1) 0xFFFFFFFF))

/-- R123, R124, R126: permutes, lane moves, broadcast and quad exchanges. Under a full write `bcast` gives U and the
others V. A word with another F, or a quad exchange with a nonzero B, is no instruction. -/
def Obligations.PermuteLanes : Prop := (∀ (d a b : BitVec 7),
  let swap (x : Nat) (w : Wave) (l : Nat) : Word :=
    if bit (w.pm ||| w.hm) l && bit (w.pm ||| w.hm) (l ^^^ x) then (w.reg a).lane (l ^^^ x) else (w.reg a).lane l
  WritesLane (.perm d a b) [a, b] d (fun w l => (w.reg a).lane ((w.reg b).lane l &&& 31).toNat) ∧
  WritesLane (.lmoveLo d a b) [a, b] d (fun w l =>
    let n := ((w.reg b).lane l).toNat; (w.reg a).lane (if n ≤ l then l - n else l)) ∧
  WritesLane (.lmoveHi d a b) [a, b] d (fun w l =>
    let n := ((w.reg b).lane l).toNat; (w.reg a).lane (if l + n ≤ 31 then l + n else l)) ∧
  WritesLane (.lmoveFlip d a b) [a, b] d (fun w l => (w.reg a).lane (l ^^^ ((w.reg b).lane l &&& 31).toNat)) ∧
  WritesLane (.lmoveRot d a b) [a, b] d (fun w l =>
    (w.reg a).lane (((l : Int) - ((w.reg b).lane l).toNat) % 32).toNat) ∧
  WritesLane (.bcast d a b) [a, b] d (fun w _ => (w.reg a).lane ((w.reg b).lane w.l0 &&& 31).toNat) ∧
  WritesLane (.qswapH d a) [a] d (swap 1) ∧ WritesLane (.qswapV d a) [a] d (swap 2) ∧ WritesLane (.qswapD d a) [a] d (swap 3) ∧
  ∀ s wi, s.laneReady wi [a, b] [d] = true → (s.wave wi).active = (s.wave wi).pm →
    (∃ t, exec (.bcast d a b) s = .next t ∧ ((t.wave wi).reg d).isU = true) ∧
    ∀ i ∈ [Instr.perm d a b, .lmoveLo d a b, .lmoveHi d a b, .lmoveFlip d a b, .lmoveRot d a b, .qswapH d a, .qswapV d a,
      .qswapD d a], ∃ t, exec i s = .next t ∧ ((t.wave wi).reg d).isV = true) ∧
  ∀ word : Word,
    (opOf word = 0x66 → 3 < (fF word).toNat → decode word = .error .subop) ∧
    (opOf word = 0x68 → 2 < (fF word).toNat → decode word = .error .subop) ∧
    (opOf word = 0x68 → (fF word).toNat ≤ 2 → fB word ≠ 0 → decode word = .error .zero)

/-- R127 to R129 under I32 and U32 with saturation off: reductions and scans over the lanes in g and PM, modulo 2^32,
and the least and the greatest lane. -/
def Obligations.ReduceLanes : Prop := ∀ (d a : BitVec 7) (n : BitVec 3),
  let int : Wave → Prop := fun w => modeType w.mode ∈ [0, 1] ∧ modeSat w.mode = false
  let lanes (w : Wave) (l : Nat) : List Nat := (List.range l).filter fun j => bit w.active j
  let sum (w : Wave) (r l : Nat) : Word := ((lanes w l).map fun j => (w.reg (a + BitVec.ofNat 7 r)).lane j).sum
  let total (w : Wave) (r : Nat) : Word := ((List.range r).map fun x => sum w x 32).sum
  let run (x : BitVec 7) (k : Nat) : List (BitVec 7) := (List.range k).map fun r => x + BitVec.ofNat 7 r
  WritesLaneIf int (.reduxAdd d a) [a] d (fun w _ => total w 1) ∧
  WritesLaneIf int (.scanAdd d a) [a] d (fun w l => sum w 0 (l + 1)) ∧
  WritesLaneIf int (.reduxAddn d a n) (run a (n.toNat + 1)) d (fun w _ => total w (n.toNat + 1)) ∧
  (∀ s wi, s.laneReady wi (run a (n.toNat + 1)) (run d (n.toNat + 1)) = true → int (s.wave wi) →
    ∃ t, exec (.scanAddn d a n) s = .next t ∧ LaneDone s t wi (run d (n.toNat + 1)) ∧
      ∀ r ≤ n.toNat, LaneValues s t wi (d + BitVec.ofNat 7 r) fun l => total (s.wave wi) r + sum (s.wave wi) r (l + 1)) ∧
  ∀ s wi, s.laneReady wi [a] [d] = true → int (s.wave wi) → (s.wave wi).active ≠ 0 →
    let w := s.wave wi
    let le (x y : Word) : Prop := if modeType w.mode = 0 then x.toInt ≤ y.toInt else x.toNat ≤ y.toNat
    (∃ t x, exec (.reduxMin d a) s = .next t ∧ LaneDone s t wi [d] ∧ (t.wave wi).fstat = w.fstat ∧
      LaneValues s t wi d (fun _ => x) ∧
      (∃ j ∈ lanes w 32, (w.reg a).lane j = x) ∧ ∀ j ∈ lanes w 32, le x ((w.reg a).lane j)) ∧
    (∃ t x, exec (.reduxMax d a) s = .next t ∧ LaneDone s t wi [d] ∧ (t.wave wi).fstat = w.fstat ∧
      LaneValues s t wi d (fun _ => x) ∧
      (∃ j ∈ lanes w 32, (w.reg a).lane j = x) ∧ ∀ j ∈ lanes w 32, le ((w.reg a).lane j) x)

/-- R121, R38: `sforce` and `scompact` ignore the guard. `sforce` leaves V with every lane value; after `scompact` every
present lane has its value, a U or A register is as it was, and a register whose present lanes hold one value is U; one
whose present lanes lie on a line through the two lowest of them, which are neighbours, is A, and another stays V. -/
def Obligations.ShapeControl : Prop := ∀ (d : BitVec 7) (s : State) (wi : Nat), s.laneReady wi [d] [d] = true →
  let w := s.wave wi
  (∃ t, exec (.sforce d) s = .next t ∧ LaneDone s t wi [d] ∧ (t.wave wi).fstat = w.fstat ∧
    ((t.wave wi).reg d).isV = true ∧ ∀ l < 32, ((t.wave wi).reg d).lane l = (w.reg d).lane l) ∧
  (∃ t, exec (.scompact d) s = .next t ∧ LaneDone s t wi [d] ∧ (t.wave wi).fstat = w.fstat ∧
    (∀ l < 32, bit w.pm l = true → ((t.wave wi).reg d).lane l = (w.reg d).lane l) ∧
    ((w.reg d).isV = false → (t.wave wi).reg d = w.reg d) ∧
    ∀ x, (w.reg d).isV = true → (∀ l < 32, bit w.pm l = true → (w.reg d).lane l = x) → w.pm ≠ 0 →
      (t.wave wi).reg d = .u x) ∧
  ∀ lo < 32, (w.reg d).isV = true → bit w.pm lo = true → (∀ j < lo, bit w.pm j = false) →
    (∃ j < 32, bit w.pm j = true ∧ (w.reg d).lane j ≠ (w.reg d).lane lo) →
    let step := (w.reg d).lane (lo + 1) - (w.reg d).lane lo
    let base := (w.reg d).lane lo - BitVec.ofNat 32 lo * step
    let line : Prop := bit w.pm (lo + 1) = true ∧
      ∀ j < 32, bit w.pm j = true → (w.reg d).lane j = base + BitVec.ofNat 32 j * step
    ∃ t, exec (.scompact d) s = .next t ∧
      (line → (t.wave wi).reg d = .a base step) ∧ (¬ line → (t.wave wi).reg d = w.reg d)

/-! ### Masks and compares -/

/-- R117, R118: the mask instructions write all 32 bits of their mask, and set MZ and MF from it.
R118, R119, R125: the queries of masks, `ktest` and `helper`. -/
def Obligations.MaskInstructions : Prop :=
  (∀ (d a b : BitVec 4) (v : BitVec 7),
  WritesMask (.kand d a b) [] d (fun w => w.mask a &&& w.mask b) ∧
  WritesMask (.kor d a b) [] d (fun w => w.mask a ||| w.mask b) ∧
  WritesMask (.kxor d a b) [] d (fun w => w.mask a ^^^ w.mask b) ∧
  WritesMask (.kandn d a b) [] d (fun w => w.mask a &&& ~~~w.mask b) ∧
  WritesMask (.knot d a) [] d (fun w => ~~~w.mask a) ∧
  WritesMask (.kmov d a) [] d (fun w => w.mask a) ∧
  WritesMask (.kset d v) [v] d (fun w => (w.reg v).lane w.l0)) ∧
  (∀ (a b : BitVec 4) (v : BitVec 7),
  let count (m : Word) : Nat := (List.range 32).countP m.getLsbD
  WritesLane (.kget v a) [] v (fun w _ => w.mask a) ∧
  WritesLane (.kpop v a) [] v (fun w _ => BitVec.ofNat 32 (count (w.mask a &&& w.pm))) ∧
  WritesLane (.kfirst v a) [] v (fun w _ => BitVec.ofNat 32 (((List.range 32).find? (w.mask a &&& w.pm).getLsbD).getD 32)) ∧
  ∀ s wi, s.laneReady wi [] [] = true →
    (∃ t, exec (.ktest a b) s = .next t ∧ CodesDone s t wi none ∧
      MaskCodes (t.wave wi) ((s.wave wi).mask a &&& (s.wave wi).mask b) ∧ SameCodes (s.wave wi) (t.wave wi) ∧
      (t.wave wi).fstat = (s.wave wi).fstat ∧ (t.wave wi).hm = (s.wave wi).hm) ∧
    ∃ t, exec (.helper a) s = .next t ∧ CodesDone s t wi none ∧
      (t.wave wi).hm = (s.wave wi).mask a &&& ~~~(s.wave wi).pm ∧ SameCodes (s.wave wi) (t.wave wi) ∧
      (t.wave wi).mz = (s.wave wi).mz ∧ (t.wave wi).mf = (s.wave wi).mf ∧ (t.wave wi).fstat = (s.wave wi).fstat)

/-- R69, R90, R115, R116 under I32 and U32: the mask has the present lanes in which the relation holds; MZ and MF follow
it; Z, N, C and V follow the difference of two U operands, and otherwise keep their values; no flag is set. -/
def Obligations.IntCompares : Prop := ∀ (k : BitVec 4) (a b : BitVec 7) (s : State) (wi : Nat),
  s.laneReady wi [a, b] [] = true → modeType (s.wave wi).mode ∈ [0, 1] →
  let w := s.wave wi
  let sgn := modeType w.mode = 0
  let does (i : Instr) (rel : Word → Word → Prop) : Prop := ∃ t, exec i s = .next t ∧ CodesDone s t wi (some k) ∧
    (∀ l < 32, bit ((t.wave wi).mask k) l = true ↔ bit w.pm l = true ∧ rel ((w.reg a).lane l) ((w.reg b).lane l)) ∧
    MaskCodes (t.wave wi) ((t.wave wi).mask k) ∧ (t.wave wi).hm = w.hm ∧ (t.wave wi).fstat = w.fstat ∧
    (∀ x y, w.reg a = .u x → w.reg b = .u y → (t.wave wi).z = (x == y) ∧ (t.wave wi).n = (x - y).msb ∧
      (t.wave wi).c = decide (y ≤ x) ∧ (t.wave wi).v = BitVec.ssubOverflow x y) ∧
    ((w.reg a).isU = false ∨ (w.reg b).isU = false → SameCodes w (t.wave wi))
  does (.cmpEq k a b) (fun x y => x = y) ∧ does (.cmpNe k a b) (fun x y => x ≠ y) ∧
  does (.cmpLt k a b) (fun x y => if sgn then x.toInt < y.toInt else x.toNat < y.toNat) ∧
  does (.cmpLe k a b) (fun x y => if sgn then x.toInt ≤ y.toInt else x.toNat ≤ y.toNat) ∧
  does (.cmpGt k a b) (fun x y => if sgn then y.toInt < x.toInt else y.toNat < x.toNat) ∧
  does (.cmpGe k a b) (fun x y => if sgn then y.toInt ≤ x.toInt else y.toNat ≤ x.toNat)

/-- R90, R115 under F32 with XTRAP clear: a lane with a NaN satisfies `ne` of no form but the unordered ones, and the
relations `eq` to `ge`, `ord` never; every relation of opcode 0x51 with `uno` holds there. A quiet NaN sets NV under
`lt`, `le`, `gt` and `ge` alone. A lane with no NaN compares the two values, zeros of both signs and, under FLUSH,
subnormals as one. The mask has present lanes alone, and MZ and MF follow it; Z, N, C and V follow two U operands (R116).
R66, R90, R115: a compare completes under every element type that its relation is defined for, with XTRAP clear. -/
def Obligations.FloatCompares : Prop :=
  (∀ (k : BitVec 4) (a b : BitVec 7) (s : State) (wi : Nat),
  s.laneReady wi [a, b] [] = true → modeType (s.wave wi).mode = 2 → modeTrap (s.wave wi).mode = false →
  let w := s.wave wi
  let nan (x : Word) : Prop := x &&& 0x7FFFFFFF > 0x7F800000
  let quiet (x : Word) : Prop := nan x → x.getLsbD 22 = true
  let val (x : Word) : Int := f32Int (f32Read (modeFlush w.mode) x)
  let does (i : Instr) (unordered signals : Bool) (rel : Int → Int → Bool) : Prop :=
    ∃ t, exec i s = .next t ∧ CodesDone s t wi (some k) ∧
    (∀ l < 32, nan ((w.reg a).lane l) ∨ nan ((w.reg b).lane l) →
      bit ((t.wave wi).mask k) l = (unordered && bit w.pm l)) ∧
    (∀ l < 32, ¬ nan ((w.reg a).lane l) → ¬ nan ((w.reg b).lane l) →
      bit ((t.wave wi).mask k) l = (bit w.pm l && rel (val ((w.reg a).lane l)) (val ((w.reg b).lane l)))) ∧
    (∀ x y, w.reg a = .u x → w.reg b = .u y → let un := f32Nan x || f32Nan y
      (t.wave wi).z = (!un && val x == val y) ∧ (t.wave wi).n = (!un && decide (val x < val y)) ∧
      (t.wave wi).c = (un || decide (val y ≤ val x)) ∧ (t.wave wi).v = un) ∧
    (t.wave wi).mask k &&& ~~~w.pm = 0 ∧ MaskCodes (t.wave wi) ((t.wave wi).mask k) ∧ (t.wave wi).hm = w.hm ∧
    ((w.reg a).isU = false ∨ (w.reg b).isU = false → SameCodes w (t.wave wi)) ∧
    ((∀ l < 32, bit w.pm l = true → quiet ((w.reg a).lane l) ∧ quiet ((w.reg b).lane l)) → (t.wave wi).fstat =
      if signals = true ∧ ∃ l < 32, bit w.pm l = true ∧ (nan ((w.reg a).lane l) ∨ nan ((w.reg b).lane l))
      then w.fstat ||| 0x10 else w.fstat)
  let eq (x y : Int) : Bool := x == y
  let ne (x y : Int) : Bool := x != y
  let lt (x y : Int) : Bool := decide (x < y)
  let le (x y : Int) : Bool := decide (x ≤ y)
  let gt (x y : Int) : Bool := decide (y < x)
  let ge (x y : Int) : Bool := decide (y ≤ x)
  does (.cmpEq k a b) false false eq ∧ does (.cmpNe k a b) false false ne ∧ does (.cmpLt k a b) false true lt ∧
  does (.cmpLe k a b) false true le ∧ does (.cmpGt k a b) false true gt ∧ does (.cmpGe k a b) false true ge ∧
  does (.cmpOrd k a b) false false (fun _ _ => true) ∧ does (.cmpEqU k a b) true false eq ∧
  does (.cmpNeU k a b) true false ne ∧ does (.cmpLtU k a b) true false lt ∧ does (.cmpLeU k a b) true false le ∧
  does (.cmpGtU k a b) true false gt ∧ does (.cmpGeU k a b) true false ge ∧
  does (.cmpUno k a b) true false (fun _ _ => false)) ∧
  (∀ (k : BitVec 4) (a b : BitVec 7) (s : State) (wi : Nat),
  let ty := modeType (s.wave wi).mode
  let does (i : Instr) (types : List Nat) : Prop :=
    let r := fun x => if ty = 5 then [x, x + 1] else [x]
    ty ∈ types → (ty = 5 → ∀ x ∈ [a, b], x.toNat % 2 = 0) → s.laneReady wi (r a ++ r b) [] = true →
      modeTrap (s.wave wi).mode = false → ∃ t, exec i s = .next t ∧ CodesDone s t wi (some k) ∧
        MaskCodes (t.wave wi) ((t.wave wi).mask k) ∧ (t.wave wi).hm = (s.wave wi).hm
  let all := [0, 1, 2, 3, 4, 5, 6]
  let fl := [2, 3, 4, 5]
  does (.cmpEq k a b) all ∧ does (.cmpNe k a b) all ∧ does (.cmpLt k a b) all ∧ does (.cmpLe k a b) all ∧
  does (.cmpGt k a b) all ∧ does (.cmpGe k a b) all ∧ does (.cmpOrd k a b) fl ∧ does (.cmpEqU k a b) fl ∧
  does (.cmpNeU k a b) fl ∧ does (.cmpLtU k a b) fl ∧ does (.cmpLeU k a b) fl ∧ does (.cmpGtU k a b) fl ∧
  does (.cmpGeU k a b) fl ∧ does (.cmpUno k a b) fl)


/-! ### Traps and their ends -/

/-- R86, R87, R216, R228: a word that is no instruction raises ILL with its code, and changes no state of the wave but what
trap entry writes. An instruction that stands at or beyond CODELEN raises ILL with the lowest code that applies: one that
it meets in its wave, and otherwise TARGET.
R98: a word with OP 0xF0 to 0xF7 raises XLT PORTABLE. -/
def Obligations.WordsTrap : Prop :=
  (∀ (word : Word) (s : State) (wi base : Nat), s.canTrap wi base [] = true →
  let raises (code : Nat) : Prop := IssueTraps (.illWord word) s wi base .ill code word
  let ty := modeType (s.wave wi).mode
  (∀ e, decode word = .error e → raises (match e with
    | .opcode => 1 | .subop => 2 | .zero => 3 | .align => 4 | .modeimm => 5 | .portable => 9)) ∧
  ∀ i, decode word = .ok i →
    (∃ code ∈ [4, 6, 7, 8, 9], raises code) ∧ (i ∈ [Instr.nop, .exit, .iinv] → raises 9) ∧
    (i ∈ [Instr.tret, .retry, .skip] → raises 7) ∧ (∀ a idx, i = .sset a idx → raises (if idx = 2 ∨ idx = 5 then 9 else 8)) ∧
    (∀ d a e, i = .addi d a e → raises (if ty ∈ [0, 1] then 9 else 6)) ∧
    ∀ d a b, i = .add d a b →
      raises (if ty = 5 ∧ (∃ r ∈ [d, a, b], r.toNat % 2 = 1) then 4 else if ty = 7 then 6 else 9)) ∧
  (∀ (d a b : BitVec 7) (k : BitVec 4) (c : BitVec 3) (word : Word) (s : State)
    (wi base : Nat), s.canTrap wi base [] = true →
  IssueTraps (.portableOnlyWord word) s wi base .xlt 1 word ∧
  ∀ i ∈ [Instr.xperm d a b, .xbcast d a b, .xreduxAdd d a, .xreduxMin d a, .xreduxMax d a, .xscan d a, .xballot d k c,
    .xwidth d], IssueTraps i s wi base .xlt 1 ((encode i).getD 0))

/-- R66, R86, R90, R91, R106, R108, R127, R128, R130, R133: an instruction that is not defined for MODE.TYPE raises ILL TYPE, and one
with an odd register under the F64 pair type raises ILL ALIGN.
R86, R217, R219 to R221: `tret`, `retry`, `skip` and `trd` outside trap mode raise ILL PRIV, and `sset` of an index
other than FSTAT and PRI raises ILL STATE. -/
def Obligations.TypeAndPrivilegeTraps : Prop :=
  (∀ (d a b : BitVec 7) (k : BitVec 4) (e : BitVec 10) (n : BitVec 3) (sb : BitVec 2)
    (s : State) (wi base : Nat),
  let ty := modeType (s.wave wi).mode
  let run (x : BitVec 7) : List (BitVec 7) := (List.range 8).map fun r => x + BitVec.ofNat 7 r
  s.canTrap wi base (b :: (run d ++ run a)) = true →
  let traps (i : Instr) (code : Nat) : Prop := IssueTraps i s wi base .ill code ((encode i).getD 0)
  (ty ∉ [0, 1, 6] → traps (.mulhi d a b) 6) ∧ (ty ∉ [0, 1] → traps (.addi d a e) 6) ∧
  (ty ∉ [2, 3, 4, 5] → ∀ i ∈ [Instr.rcp d a, .rsq d a, .sqrt d a, .scl d a b sb, .cmpOrd k a b, .cmpEqU k a b, .cmpNeU k a b,
    .cmpLtU k a b, .cmpLeU k a b, .cmpGtU k a b, .cmpGeU k a b, .cmpUno k a b], traps i 6) ∧
  (ty ∉ [2, 3, 4] → ∀ i ∈ [Instr.ex2 d a, .lg2 d a, .sinpi d a, .cospi d a, .tanh d a], traps i 6) ∧
  (ty ∉ [0, 1, 2] → ∀ i ∈ [Instr.reduxAdd d a, .reduxMin d a, .reduxMax d a, .reduxAddn d a n, .scanAdd d a,
    .scanAddn d a n], traps i 6) ∧
  (ty ∉ [0, 1] → ∀ i ∈ [Instr.atomMin d a b 0, .atomMax d a b 0], traps i 6) ∧
  (ty = 5 → (d.toNat % 2 = 1 ∨ a.toNat % 2 = 1 ∨ b.toNat % 2 = 1) → ∀ i ∈ [Instr.add d a b, .sub d a b, .mul d a b,
    .fma d a b, .fms d a b, .fnma d a b, .min d a b, .max d a b], traps i 4) ∧
  (ty = 5 → (d.toNat % 2 = 1 ∨ a.toNat % 2 = 1) → ∀ i ∈ [Instr.abs d a, .neg d a, .rcp d a, .rsq d a, .sqrt d a,
    .scl d a b sb], traps i 4) ∧
  (ty = 5 → (a.toNat % 2 = 1 ∨ b.toNat % 2 = 1) → ∀ i ∈ [Instr.cmpEq k a b, .cmpLt k a b, .cmpUno k a b], traps i 4)) ∧
  (∀ (d : BitVec 7) (n : BitVec 6) (idx : BitVec 10) (s : State) (wi base : Nat),
  s.canTrap wi base [d] = true →
  (∀ i ∈ [Instr.tret, .retry, .skip, .trd d n], IssueTraps i s wi base .ill 7 ((encode i).getD 0)) ∧
  (idx.toNat ≠ 2 → idx.toNat ≠ 5 → IssueTraps (.sset d idx) s wi base .ill 8 ((encode (.sset d idx)).getD 0)))

/-- R41, R42, R160, R204: an instruction whose result needs a slot beyond the quota raises SHAPE QUOTA with the register,
the live V count and the quota: `sforce`, a full and a partial register write, loads, `fill`, atomics, and a matrix
instruction, which names the first register of its D block that has no slot; `sassert` raises ASSERT, `vrel` RELEASE and
`vclaim` CLAIMMAX. -/
def Obligations.ShapeTraps : Prop := ∀ (d a b : BitVec 7) (e : BitVec 10) (sp : BitVec 9) (sc n : BitVec 3) (x y z : BitVec 4)
    (p : BitVec 2) (k : BitVec 7) (s : State) (wi base : Nat),
  s.canTrap wi base ([d, a, b] ++ block8 x ++ block8 y ++ block8 z) = true →
  [ExecUnit.uniform, .vector, .sfu, .mask].all (s.unitFree wi) = true →
  let w := s.wave wi
  let traps (i : Instr) (code reg more : Nat) : Prop := ∃ t, exec i s = .next t ∧
    Trapped s t wi base .shape code 0 w.pc w.pc ((encode i).getD 0) ∧
    ((List.range 4).map fun j => (t.wave wi).sb.getD (10 + j) 0) =
      [BitVec.ofNat 32 reg, BitVec.ofNat 32 w.liveV, BitVec.ofNat 32 w.qw, BitVec.ofNat 32 more]
  (w.hasSlot d = false → w.qw < w.liveV + 1 → traps (.sforce d) 1 d.toNat 0) ∧
  (w.hasSlot d = false → w.qw < w.liveV + 1 → w.active = w.pm → (w.reg a).isV = true → traps (.mov d a) 1 d.toNat 0) ∧
  (w.hasSlot d = false → w.qw < w.liveV + 1 → w.active ≠ w.pm → w.active ≠ 0 →
    (w.reg d ≠ w.reg a ∨ (w.reg a).isU = false) → traps (.mov d a) 1 d.toNat 0) ∧
  (w.hasSlot d = false → w.qw < w.liveV + 1 → w.ql < 24 →
    ((w.reg a).isU = false ∨ w.active ≠ w.pm → w.accessLanes a (e.signExtend 32) ≠ [] →
      ∀ i ∈ [Instr.lds8 d a e, .lds16 d a e, .lds32 d a e, .ldx8 d a e, .ldx16 d a e, .ldx32 d a e], traps i 1 d.toNat 0) ∧
    traps (.fill d sp) 1 d.toNat 0 ∧
    (w.accessLanes a 0 ≠ [] → ∀ i ∈ [Instr.atomAdd d a b sc, .atomFadd d a b sc, .atomAnd d a b sc, .atomOr d a b sc,
      .atomXor d a b sc, .atomXchg d a b sc, .atomCas d a b sc, .atomInc d a b sc], traps i 1 d.toNat 0)) ∧
  (∀ r, (block8 x).find? (fun r => !w.hasSlot r) = some r → w.qt < 4 →
    w.qw < w.liveV + (block8 x).countP (fun r => !w.hasSlot r) →
    ∀ i ∈ [Instr.mmaF8 x y z p, .mmaI8 x y z p, .mmaBf16 x y z, .mmaF16 x y z], traps i 1 r.toNat 0) ∧
  (n.toNat < (w.reg a).shape → traps (.sassert a n) 2 a.toNat 0) ∧
  (w.qw < k.toNat + w.liveV → traps (.vrel k) 3 0 k.toNat) ∧
  (128 < w.qw + k.toNat → k ≠ 0 → traps (.vclaim k) 4 0 k.toNat)

/-- R52, R55 under XTRAP without saturation: a conversion of a NaN to an integer raises ARITH INVALID, names the lanes
concerned and the FSTAT bits of each (NV), and writes nothing.
R52, R115, R138, R210 under XTRAP: a float compare of a quiet NaN by an order relation raises INVALID and writes no mask; a
sum or product of finite values that is 2^128 or more raises OVERFLOW where no lane is invalid; `t3x` of a byte that holds
one of its trits and a reserved code raises T3CODE; and a tile with an invalid output raises INVALID when it is due, an
access trap, which leaves its D block as it was. -/
def Obligations.ArithTraps : Prop := (∀ (d a : BitVec 7) (s : State) (wi base : Nat),
  s.canTrap wi base [d, a] = true → s.laneReady wi [a] [d] = true → modeTrap (s.wave wi).mode = true →
  modeSat (s.wave wi).mode = false →
  let w := s.wave wi
  let nan (x : Word) : Prop := x &&& 0x7FFFFFFF > 0x7F800000
  (∃ l < 32, bit w.active l = true ∧ nan ((w.reg a).lane l)) →
    ∀ i ∈ [Instr.cvtI32F32 d a, .cvtU32F32 d a], ∃ t, exec i s = .next t ∧
      Trapped s t wi base .arith 1 0 w.pc w.pc ((encode i).getD 0) ∧
      ∀ l < 32, bit w.active l = true → nan ((w.reg a).lane l) →
        bit ((t.wave wi).sb.getD 3 0) l = true ∧ (t.wave wi).sb.getD (16 + l) 0 = 16) ∧
  (∀ (k : BitVec 4) (d a b : BitVec 7) (s : State) (wi base : Nat),
  s.canTrap wi base [d, a, b] = true → s.laneReady wi [a, b] [d] = true → modeTrap (s.wave wi).mode = true →
  let w := s.wave wi
  let A (l : Nat) : Word := (w.reg a).lane l
  let B (l : Nat) : Word := (w.reg b).lane l
  let traps (i : Instr) (code flag : Nat) (hit : Nat → Prop) : Prop := ∃ t, exec i s = .next t ∧
    Trapped s t wi base .arith code 0 w.pc w.pc ((encode i).getD 0) ∧
    ∀ l < 32, hit l → bit ((t.wave wi).sb.getD 3 0) l = true ∧ ((t.wave wi).sb.getD (16 + l) 0).getLsbD flag = true
  (modeType w.mode = 2 →
    (let hit (l : Nat) : Prop := bit w.pm l = true ∧ (f32Nan (A l) = true ∨ f32Nan (B l) = true);
      (∃ l < 32, hit l) → ∀ i ∈ [Instr.cmpLt k a b, .cmpLe k a b, .cmpGt k a b, .cmpGe k a b], traps i 1 4 hit) ∧
    ((∀ l < 32, bit w.active l = true → f32Fin (A l) = true ∧ f32Fin (B l) = true) →
      (let hit (l : Nat) : Prop := bit w.active l = true ∧ 2 ^ 277 ≤ (f32Int (A l) + f32Int (B l)).natAbs;
        (∃ l < 32, hit l) → traps (.add d a b) 2 2 hit) ∧
      (let hit (l : Nat) : Prop := bit w.active l = true ∧ 2 ^ 277 * 2 ^ 149 ≤ (f32Int (A l) * f32Int (B l)).natAbs;
        (∃ l < 32, hit l) → traps (.mul d a b) 2 2 hit))) ∧
  ∀ q : BitVec 3, let hit (l : Nat) : Prop := bit w.active l = true ∧
      ∃ j < 4, 243 ≤ ((A l).extractLsb' (8 * ((4 * q.toNat + j) / 5)) 8).toNat
    (∃ l < 32, hit l) → traps (.t3x d a q) 3 6 hit) ∧
  ∀ (s : State) (ti base : Nat), ti < s.tiles.length →
  let x := s.tile ti
  let o := s.op x.op
  let w := s.wave x.wave
  let nv (y : Nat × Nat) : Prop := y.2 / 16 % 2 = 1
  ∀ c, x.st = .due c → c ≤ s.partClk x.part → modeTrap o.mode = true → x.op < s.ops.length → o.wave = x.wave →
    x.wave < s.waves.length → o.cls = some .tile → o.counted = 1 → w.trapMode = false → w.trapHalt = false →
    w.trapDue = false → w.halted = false → w.exited = false → w.trace.on = false → s.gatedCore x.wave = false →
    s.handler x.wave = some base → (∃ y ∈ x.outs o.mode o.got, nv y) →
    ∃ t, exec (.tileComplete ti) s = .next t ∧ SameMem s t ∧ (t.tile ti).st = .trapped ∧
      (t.wave x.wave).trapMode = true ∧ (t.wave x.wave).pc = BitVec.ofNat 32 (base + 0x40 * TrapClass.arith.code) ∧
      (t.wave x.wave).sb.getD 0 0 = BitVec.ofNat 32 (2 ^ 31 + 2 * 2 ^ 28 + 1 * 2 ^ 8 + TrapClass.arith.code) ∧
      (t.wave x.wave).sb.getD 1 0 = o.pc ∧ (t.wave x.wave).sb.getD 2 0 = w.pc ∧
      (t.wave x.wave).regs = w.regs ∧ (t.wave x.wave).fstat = w.fstat ∧ (t.wave x.wave).qt = w.qt - 1 ∧
      ∀ j < 256, nv ((x.outs o.mode o.got).getD j (0, 0)) → ((t.wave x.wave).sb.getD (16 + j / 32) 0).getLsbD (j % 32) = true

/-- R24, R233: with no handler a trap halts the wave where it stands, with its entry written, and is posted.
R24, R217, R233: an instruction that traps in trap mode, `exit` among them, halts the wave; the entry keeps the first
trap. -/
def Obligations.TrapsHalt : Prop :=
  (∀ (word : Word) (s : State) (wi : Nat), s.ready wi [] = true →
  (s.wave wi).trapMode = false → (s.wave wi).halted = false → (s.wave wi).stop = .run → s.gatedCore wi = false →
  s.handler wi = none →
  ∃ t code, exec (.illWord word) s = .next t ∧
    t.wave wi = { s.wave wi with sb := (t.wave wi).sb, what := .none, halted := true, trapHalt := true, trapDue := false
                                 issued := false, suspended := (t.wave wi).suspended, unissued := true } ∧
    bitsOf ((t.wave wi).sb.getD 0 0).toNat 28 4 = 8 ∧ (t.wave wi).sb.getD 1 0 = (s.wave wi).pc ∧
    (t.wave wi).sb.getD 4 0 = word ∧ t.posts = s.posts ++ [.waveTrap wi 0 code] ∧ SameMem s t ∧
    ∀ j, j ≠ wi → t.wave j = s.wave j) ∧
  (∀ (word : Word) (s : State) (wi : Nat), s.ready wi [] = true →
  (s.wave wi).trapMode = true → (s.wave wi).stop = .run →
  ∀ i ∈ [Instr.illWord word, .portableOnlyWord word, .exit], ∃ t cls code, exec i s = .next t ∧
    t.wave wi = { s.wave wi with halted := true, trapHalt := true, issued := false, unissued := true } ∧
    t.posts = s.posts ++ [.waveTrap wi cls code] ∧ SameMem s t ∧ ∀ j, j ≠ wi → t.wave j = s.wave j)

/-- R217, R218: `trap n` retires and raises DEBUG USER, of the completed kind, with n in the first detail word.
R220: in trap mode `trd` writes a word of the side-buffer entry as a full write, whatever the guard. -/
def Obligations.UserTrapsAndReads : Prop :=
  (∀ (n : BitVec 8) (s : State) (wi base : Nat), s.canTrap wi base [] = true →
  ∃ t, exec (.trap n) s = .next t ∧
    Trapped s t wi base .debug 1 3 (s.wave wi).pc ((s.wave wi).pc + 4) ((encode (.trap n)).getD 0) ∧
    (t.wave wi).sb.getD 10 0 = n.zeroExtend 32) ∧
  (∀ (d : BitVec 7) (n : BitVec 6) (s : State) (wi : Nat), s.ready wi [d] = true →
  (s.wave wi).trapMode = true → (s.wave wi).regs.length = 128 →
  ∃ t, exec (.trd d n) s = .next t ∧ (t.wave wi).reg d = .u ((s.wave wi).sb.getD n.toNat 0) ∧
    t = { s with waves := s.waves.set wi (t.wave wi) } ∧
    t.wave wi = { (s.wave wi).retired with regs := (t.wave wi).regs, slots := (t.wave wi).slots
                                           badRegs := (t.wave wi).badRegs } ∧
    (∀ e, e ≠ d → (t.wave wi).reg e = (s.wave wi).reg e) ∧ SameMem s t)

/-- R218, R219, R231: `tret`, `retry` and `skip` leave trap mode at the PC that the kind of trap gives; VALID clears, the
holds of before bind again, and registers, masks, codes and memory are as they were.
R219, R163: after an access trap, `retry` lets the access enter the ordering machine anew after the younger ones, with what
an issue reads now of the race state, and `skip` drops every access of its instruction that has not taken effect; either way the wave goes on at RPC. `tret` raises ILL RESOLVE there, and so halts the wave. -/
def Obligations.TrapReturns : Prop :=
  (∀ (s : State) (wi : Nat), s.ready wi [] = true → (s.wave wi).trapMode = true →
  (s.wave wi).heldAcc = [] → (s.wave wi).badLog s = false → (s.wave wi).trace.on = false → (s.wave wi).sb.length = 64 →
  let w := s.wave wi
  let returns (i : Instr) (pc : Word) : Prop := ∃ t, exec i s = .next t ∧
    t = { s with waves := s.waves.set wi (t.wave wi) } ∧
    t.wave wi = { w with trapMode := false, trapHalt := false, pc := pc, sb := (t.wave wi).sb, what := .none, stop := .run
                         issued := false, holds := w.holdsOut ++ w.holds, holdsOut := []
                         suspended := (t.wave wi).suspended } ∧
    ((t.wave wi).sb.getD 0 0).getLsbD 31 = false ∧ (t.wave wi).sb.drop 1 = w.sb.drop 1 ∧ SameMem s t
  (w.trapKind = 0 → returns .tret w.rpc ∧ returns .retry w.rpc ∧ returns .skip (w.tpc + 4)) ∧
  (w.trapKind = 1 → returns .tret w.tpc ∧ returns .retry w.tpc ∧ (w.trapClass ≠ 8 → returns .skip (w.tpc + 4))) ∧
  (w.trapKind = 3 → returns .tret w.rpc ∧ returns .retry w.tpc ∧ returns .skip w.rpc)) ∧
  (∀ (s : State) (wi a : Nat), s.ready wi [] = true → (s.wave wi).trapMode = true →
  (s.wave wi).heldAcc = [] → (s.wave wi).badLog s = false → (s.wave wi).trapKind = 2 → (s.wave wi).what = .access a →
  a < s.accs.length → (s.acc a).kind = .store → (s.acc a).wave = wi → (s.op (s.acc a).op).voided = false →
  (∃ t, exec .retry s = .next t ∧ (t.wave wi).trapMode = false ∧ (t.wave wi).pc = (s.wave wi).rpc ∧
    t.accs.length = s.accs.length + 1 ∧ (t.acc a).st = .dropped ∧
    t.acc s.accs.length = { s.acc a with
      st := .queued, fail := none, late := false, clk := (s.wave wi).rc, gen := (s.waveBlock wi).gen
      split := !(s.wave wi).tokens.isEmpty }) ∧
  (∃ t, exec .skip s = .next t ∧ (t.wave wi).trapMode = false ∧ (t.wave wi).pc = (s.wave wi).rpc ∧
    t.accs.length = s.accs.length ∧ (t.acc a).st = .dropped ∧
    ∀ b < s.accs.length, (s.acc b).op = (s.acc a).op → (s.acc b).st = .queued → (s.acc b).kind = .store →
      (t.acc b).st = .dropped) ∧
  ∃ t, exec .tret s = .next t ∧ (t.wave wi).halted = true ∧ (t.wave wi).trapHalt = true ∧ (t.wave wi).sb = (s.wave wi).sb)


/-! ### Control and system instructions -/

/-- R70, R215: the control transfers act for the whole wave, leave the codes, and set the PC; `call` writes its link.
A `br` with a COND of 13 or more is no instruction and raises ILL. -/
def Obligations.ControlTransfers : Prop := (∀ (c : BitVec 5) (off : BitVec 19) (far : BitVec 17) (d a : BitVec 7) (s : State)
    (wi : Nat), s.ready wi [a, d] = true → (s.wave wi).regs.length = 128 →
  let w := s.wave wi
  let holds : Bool := [true, w.z, !w.z, w.n != w.v, w.n == w.v, w.z || w.n != w.v, !w.z && w.n == w.v, !w.c, w.c, w.mz, !w.mz,
    w.mf, !w.mf].getD c.toNat false
  let target : Word := (w.reg a).lane w.l0 &&& 0xFFFFFFFC
  (c.toNat ≤ 12 → TracedWave (.br c off) s wi
    { w.retired with pc := if holds then w.pc + 4 + 4 * off.signExtend 32 else w.pc + 4 }) ∧
  TracedWave (.jmp a) s wi { w.retired with pc := target } ∧
  TracedWave (.ret a) s wi { w.retired with pc := target } ∧
  WritesU (.call d far) s wi (w.pc + 4 + 4 * far.signExtend 32) [(d, w.pc + 4)]) ∧
  ∀ (word : Word) (s : State) (wi base : Nat), opOf word = 0x02 → 12 < (cond word).toNat →
    decode word = .error .subop ∧ (s.canTrap wi base [] = true → IssueTraps (.illWord word) s wi base .ill 2 word)

/-- R88, R67, R217, R221, R223, R225: `nop` only retires; `mode` writes MODE; `exit` ends the wave's issue; `sleep 0` and
`vclaim 0` retire at once; `sset` writes FSTAT, without bits [31:7], or PRI; `rcmode` sets the nearest permitted mode. -/
def Obligations.WaveOnly : Prop := ∀ (m : BitVec 16) (a : BitVec 7) (r : BitVec 2) (s : State) (wi : Nat),
  s.ready wi [a] = true →
  let w := s.wave wi
  let x := (w.reg a).lane w.l0
  let v := (s.vi (s.waveLaunch wi).vi).desc
  let mode : RaceMode := if r = 1 then .off else if r = 2 then .report else .fault
  let nearest := if raceCode mode < raceCode v.raceMin then v.raceMin
    else if raceCode v.raceMax < raceCode mode then v.raceMax else mode
  SetsWave .nop s wi w.retired ∧
  SetsWave (.mode m) s wi { w.retired with mode := m } ∧
  (w.trapMode = false → SetsWave .exit s wi { w.retired with exited := true }) ∧
  ((w.suspended = none ∨ w.trapMode = true) → SetsWave (.sleep 0) s wi w.retired) ∧
  SetsWave (.vclaim 0) s wi w.retired ∧
  SetsWave (.sset a 2) s wi { w.retired with fstat := x &&& 0x7F } ∧
  SetsWave (.sset a 5) s wi { w.retired with pri := (x &&& 15).toNat } ∧
  (r ≠ 0 → SetsWave (.rcmode r) s wi { w.retired with race := nearest })

/-- R120, R223: `sassert` at or below its bound has no effect, and `vrel` takes n from the quota, lowers the share to it,
and returns n free slots, none of them below a free slot that stays.
R217, R44, R223: `sleep` of n clocks and `vclaim` of n slots stop the wave at the instruction; the claim stands last in
the partition's queue. -/
def Obligations.QuotaAndSleep : Prop :=
  (∀ (a : BitVec 7) (n : BitVec 3) (k : BitVec 7) (s : State) (wi : Nat),
  s.laneReady wi [a] [] = true →
  let w := s.wave wi
  ((w.reg a).shape ≤ n.toNat → ∃ t, exec (.sassert a n) s = .next t ∧ LaneDone s t wi []) ∧
  (k.toNat + w.liveV ≤ w.qw → ∃ t, exec (.vrel k) s = .next t ∧ t = { s with waves := s.waves.set wi (t.wave wi) } ∧
    t.wave wi = { w.retired with qw := w.qw - k.toNat, share := Nat.min w.share (w.qw - k.toNat), slots := (t.wave wi).slots } ∧
    (∀ x ∈ w.slots, x.reg.isSome = true → x ∈ (t.wave wi).slots) ∧ (t.wave wi).slots.Sublist w.slots ∧
    ((w.slots.map Slot.phys).Nodup → k.toNat + w.liveV ≤ w.slots.length →
      (t.wave wi).slots.length = w.slots.length - k.toNat ∧
      ∀ x ∈ (t.wave wi).slots, x.reg = none → ∀ y ∈ w.slots, y ∉ (t.wave wi).slots → x.phys < y.phys) ∧ SameMem s t)) ∧
  (∀ (n : BitVec 24) (k : BitVec 7) (s : State) (wi : Nat), s.ready wi [] = true →
  let w := s.wave wi
  (n ≠ 0 → (w.suspended = none ∨ w.trapMode = true) →
    SetsWave (.sleep n) s wi { w with stop := .sleep (s.waveClk wi + n.toNat), issued := false }) ∧
  (k ≠ 0 → w.qw + k.toNat ≤ 128 → ∃ t, exec (.vclaim k) s = .next t ∧
    t = { s with waves := s.waves.set wi (t.wave wi), cores := t.cores } ∧
    t.wave wi = w.stopAt (.claim k.toNat) ∧
    (w.part.part < (s.core w.part.die w.part.core).parts.length → 96 * w.part.die + w.part.core < s.cores.length →
      t.part w.part = { s.part w.part with claims := (s.part w.part).claims ++ [(wi, k.toNat)] }) ∧
    (∀ i, i ≠ 96 * w.part.die + w.part.core → t.cores[i]? = s.cores[i]?) ∧ SameMem s t))

/-- R221, R222: `sreg` writes U of the register's value, and `rdclk` the time base, as full writes whatever the guard. -/
def Obligations.SystemReads : Prop := ∀ (d : BitVec 7) (idx : BitVec 10) (s : State) (wi : Nat),
  s.ready wi [d, d + 1] = true → (s.wave wi).regs.length = 128 →
  let w := s.wave wi
  let b := s.waveBlock wi
  let l := s.waveLaunch wi
  let gives (i : BitVec 10) (x : Word) : Prop := WritesU (.sreg d i) s wi (w.pc + 4) [(d, x)]
  let n (x : Nat) : Word := BitVec.ofNat 32 x
  (∃ x, gives idx x) ∧
  gives 0x000 (n (2 ^ 28 + 2 ^ 24 + w.part.core / 16 * 2 ^ 19 + w.part.core % 16 * 2 ^ 15 + s.moduleNo * 2 + w.part.die)) ∧
  gives 0x001 (w.mode.zeroExtend 32) ∧ gives 0x002 w.fstat ∧ gives 0x003 w.hm ∧ gives 0x004 w.pm ∧ gives 0x005 (n w.pri) ∧
  gives 0x006 (n w.qv) ∧ gives 0x007 (n w.qw) ∧ gives 0x008 (n w.liveV) ∧
  gives 0x009 (n (w.ql + w.qs * 2 ^ 8 + w.qx * 2 ^ 16 + w.qt * 2 ^ 24)) ∧
  (∃ x, gives 0x00A x ∧ x.getLsbD 0 = w.z ∧ x.getLsbD 1 = w.n ∧ x.getLsbD 2 = w.c ∧ x.getLsbD 3 = w.v ∧
    x.getLsbD 4 = w.mz ∧ x.getLsbD 5 = w.mf ∧ x >>> 6 = 0) ∧
  gives 0x010 (n (b.lin % l.gx)) ∧ gives 0x011 (n (b.lin / l.gx % l.gy)) ∧ gives 0x012 (n (b.lin / l.gx / l.gy)) ∧
  gives 0x013 (n l.gx) ∧ gives 0x014 (n l.gy) ∧ gives 0x015 (n l.gz) ∧ gives 0x016 (n w.idx) ∧ gives 0x017 (n w.slice) ∧
  gives 0x018 (n l.slices) ∧ gives 0x019 (n l.threads) ∧ gives 0x01A (n ((l.threads + 31) / 32)) ∧
  gives 0x01B (n l.number) ∧ gives 0x021 (n (passCount (s.cluster w.cluster).pass)) ∧ gives 0x024 (n (raceCode w.race)) ∧
  gives 0x020 ((s.core w.part.die w.part.core).tallow.signExtend 32) ∧
  gives 0x022 (n (s.cluster w.cluster).step) ∧ gives 0x023 w.gatecnt ∧ gives 0x025 (n (b.gen % 2 ^ 22)) ∧
  WritesU (.rdclk d) s wi (w.pc + 4) [(d, n (s.now / 10)), (d + 1, n (s.now / 10 / 2 ^ 32))]

/-- R226, R227: `iinv` empties the core's fetch buffers; `brk` retires and halts the wave with a post, unless a debugger is
attached and the tag's policy is to continue, when the tag is counted; `trc` of a wave without a trace region only
retires, and with one starts and stops the trace, or writes SYNC, whether it traces or not. -/
def Obligations.DebugInstructions : Prop := ∀ (tag : BitVec 16) (s : State) (wi : Nat), s.ready wi [] = true →
  let w := s.wave wi
  (∃ t, exec .iinv s = .next t ∧ t = { s with waves := s.waves.set wi w.retired, cores := t.cores } ∧ SameMem s t ∧
    (t.core w.part.die w.part.core) = { s.core w.part.die w.part.core with fetch := [] } ∧
    ∀ i, i ≠ 96 * w.part.die + w.part.core → t.cores[i]? = s.cores[i]?) ∧
  (s.attached = true → tag.toNat ∈ s.brkGo → ∃ t, exec (.brk tag) s = .next t ∧ SameMem s t ∧
    t = { s with waves := s.waves.set wi w.retired, brkCount := t.brkCount } ∧ ∀ n, lookupNat t.brkCount n =
      if n = tag.toNat then some ((lookupNat s.brkCount n).getD 0 + 1) else lookupNat s.brkCount n) ∧
  (s.attached = false ∨ tag.toNat ∉ s.brkGo → ∃ t, exec (.brk tag) s = .next t ∧ SameMem s t ∧
    t = { s with waves := s.waves.set wi { w.retired with halted := true }, posts := s.posts ++ [.brk wi tag.toNat] }) ∧
  (s.traceBuf wi = none → w.trace.on = false →
    SetsWave .trcStop s wi w.retired ∧ SetsWave .trcStart s wi w.retired ∧ SetsWave .trcSync s wi w.retired) ∧
  (s.traceBuf wi ≠ none → w.trace.on = false → ∃ t, exec .trcStart s = .next t ∧ (t.wave wi).trace.on = true ∧
    (t.wave wi).trace.needSync = false ∧ (t.wave wi).trace.clkSync = s.waveClk wi ∧ (t.wave wi).trace.tickLast = s.tick ∧
    t.wave wi = { w.retired with trace := (t.wave wi).trace }) ∧
  (w.trace.on = true →
    (∃ t, exec .trcStop s = .next t ∧ (t.wave wi).trace.on = false ∧ (t.wave wi).trace.held = [] ∧
      t.wave wi = { w.retired with trace := (t.wave wi).trace })) ∧
  (s.traceBuf wi ≠ none → ∃ t, exec .trcSync s = .next t ∧ (t.wave wi).trace.on = w.trace.on ∧ (t.wave wi).trace.held = [] ∧
    (t.wave wi).trace.needSync = false ∧ (t.wave wi).trace.clkSync = s.waveClk wi ∧ (t.wave wi).trace.tickLast = s.tick ∧
    t.wave wi = { w.retired with trace := (t.wave wi).trace })

/-- R224: `launch` reads the record at a[l0] as one load of its 384 bytes, and holds the wave with D pending until the
launch is queued or refused. -/
def Obligations.LaunchIssues : Prop := ∀ (d a : BitVec 7) (s : State) (wi : Nat), s.ready wi [d, a] = true →
  let w := s.wave wi
  let addr := (w.reg a).lane w.l0
  s.recordCheck wi addr.toNat = none → ∃ t o r, exec (.launch d a) s = .next t ∧ SameMem s t ∧
    t = { s with waves := s.waves.set wi (t.wave wi), ops := s.ops ++ [o], accs := s.accs ++ [r] } ∧
    r.kind = .record ∧ r.op = s.ops.length ∧ r.wave = wi ∧ r.st = .queued ∧
    (r.lanes.map fun l => l.addr) = (List.range 6).map (fun j => addr.toNat + 64 * j) ∧ r.width = 64 ∧
    t.wave wi = { w.retired with
      rc := (t.wave wi).rc, holds := [.launch d addr s.ops.length], pend := d :: w.pend }

/-! ### Memory instructions at issue -/

/-- R72, R157, R159, R160, R164, R165, R168: a load issues with its destinations pending and counted in QL, one access for
each space that its lanes in g and PM address; every destination that is to become V has its slot. -/
def Obligations.LoadsIssue : Prop := ∀ (d a : BitVec 7) (e : BitVec 10) (wc sc : BitVec 3) (s : State) (wi : Nat),
  let w := s.wave wi
  let does (i : Instr) (off : Word) (width n : Nat) : Prop :=
    let dst := (List.range n).map fun j => d + BitVec.ofNat 7 j
    let at_ := w.accessLanes a off
    s.ready wi (a :: dst) = true → w.ql < 24 → w.room dst = true → w.logRoom (w.countV [a]) = true →
    s.addrsOk wi width (at_.map Prod.snd) = true → s.spillSound wi (at_.map Prod.snd) = true →
    ∃ t, exec i s = .next t ∧ MemIssued s t wi .load width dst (at_.map fun x => { lane := x.1, addr := x.2 }) ∧
      (t.wave wi).ql = w.ql + 1 ∧ (t.wave wi).qs = w.qs ∧
      (w.slots.length = w.qw → at_ ≠ [] → ((w.reg a).isU = false ∨ w.active ≠ w.pm) → ∀ x ∈ dst, (t.wave wi).hasSlot x = true)
  let f := e.signExtend 32
  does (.lds8 d a e) f 1 1 ∧ does (.lds16 d a e) f 2 1 ∧ does (.lds32 d a e) f 4 1 ∧ does (.lds64 d a e) f 8 2 ∧
  does (.lds128 d a e) f 16 4 ∧ does (.ldx8 d a e) f 1 1 ∧ does (.ldx16 d a e) f 2 1 ∧ does (.ldx32 d a e) f 4 1 ∧
  does (.ldx64 d a e) f 8 2 ∧ does (.ldx128 d a e) f 16 4 ∧
  (wc.toNat ≤ 4 → does (.ldsAcq d a wc sc) 0 (2 ^ wc.toNat) (Nat.max 1 (2 ^ wc.toNat / 4)) ∧
    does (.ldxAcq d a wc sc) 0 (2 ^ wc.toNat) (Nat.max 1 (2 ^ wc.toNat / 4)))

/-- R72, R157, R159, R164 to R166, R168: a store issues with one access for each space that its lanes address, holding the
bytes of its data registers; it counts in QS until it has left, which a store to the spill area alone has done. -/
def Obligations.StoresIssue : Prop := ∀ (d a : BitVec 7) (e : BitVec 10) (wc sc : BitVec 3) (s : State) (wi : Nat),
  let w := s.wave wi
  let does (i : Instr) (off : Word) (width n : Nat) : Prop :=
    let src := (List.range n).map fun j => d + BitVec.ofNat 7 j
    let at_ := w.accessLanes a off
    let bytes (l : Nat) : Bytes := (src.flatMap fun r => wordLe ((w.reg r).lane l)).take width
    s.ready wi (a :: src) = true → w.qs < 16 → w.logRoom (w.countV (a :: src)) = true →
    s.addrsOk wi width (at_.map Prod.snd) = true →
    ∃ t, exec i s = .next t ∧
      MemIssued s t wi .store width [] (at_.map fun x => { lane := x.1, addr := x.2, data := bytes x.1 }) ∧
      (t.wave wi).ql = w.ql ∧ ((at_ = [] ∨ ∃ x ∈ at_, spaceOf x.2 ≠ .spill) → (t.wave wi).qs = w.qs + 1) ∧
      (at_ ≠ [] → (∀ x ∈ at_, spaceOf x.2 = .spill) → (∀ x ∈ s.accs, x.op ≠ s.ops.length) → (t.wave wi).qs = w.qs)
  let f := e.signExtend 32
  does (.sts8 d a e) f 1 1 ∧ does (.sts16 d a e) f 2 1 ∧ does (.sts32 d a e) f 4 1 ∧ does (.sts64 d a e) f 8 2 ∧
  does (.sts128 d a e) f 16 4 ∧ does (.stx8 d a e) f 1 1 ∧ does (.stx16 d a e) f 2 1 ∧ does (.stx32 d a e) f 4 1 ∧
  does (.stx64 d a e) f 8 2 ∧ does (.stx128 d a e) f 16 4 ∧
  (wc.toNat ≤ 4 → does (.stsRel wc a d sc) 0 (2 ^ wc.toNat) (Nat.max 1 (2 ^ wc.toNat / 4)) ∧
    does (.stxRel wc a d sc) 0 (2 ^ wc.toNat) (Nat.max 1 (2 ^ wc.toNat / 4)))

/-- R144, R157, R164, R169: `spill` stores all 32 lanes of D to its 128 bytes of the spill area at issue, and `fill` reads them
there, whatever the guard; neither takes a log entry. -/
def Obligations.SpillAndFill : Prop := ∀ (d : BitVec 7) (n : BitVec 9) (s : State) (wi : Nat), s.ready wi [d] = true →
  let w := s.wave wi
  let addr (l : Nat) : Nat := 0x18000000 + 128 * n.toNat + 4 * l
  128 * n.toNat + 128 ≤ (s.waveKernel wi).spill →
  (w.qs < 16 → ∃ t, exec (.spill d n) s = .next t ∧
    MemIssued s t wi .store 4 [] ((List.range 32).map fun l => { lane := l, addr := addr l, data := wordLe ((w.reg d).lane l) }) ∧
    (∀ l < 32, ∀ j < 4, t.homeRead (.spill wi) (addr l + j) = ((w.reg d).lane l).extractLsb' (8 * j) 8) ∧
    (t.wave wi).ql = w.ql ∧ ((∀ x ∈ w.log, x ≠ some s.ops.length) → (t.wave wi).log = w.log) ∧
    ((∀ x ∈ s.accs, x.op ≠ s.ops.length) → (t.wave wi).qs = w.qs)) ∧
  (w.ql < 24 → w.room [d] = true → s.spillSound wi ((List.range 32).map addr) = true → ∃ t o, exec (.fill d n) s = .next t ∧
    MemIssued s t wi .load 4 [d] ((List.range 32).map fun l => { lane := l, addr := addr l }) ∧
    t.ops = s.ops ++ [o] ∧ o.got = (List.range 32).map (fun l => (l, s.homeReadN (.spill wi) (addr l) 4)) ∧
    (t.wave wi).log = w.log ∧ (t.wave wi).ql = w.ql + 1 ∧ (t.wave wi).qs = w.qs)

/-- R72, R157, R159, R160, R172, R173: an atomic issues with D pending and counted in QL, and its access holds, for each lane in
g and PM, the address and the operands B and D.
R173: what an atomic writes for the word `m`; R61: `atom.fadd` adds in binary32 and rounds once, here under RNE. -/
def Obligations.AtomicsIssue : Prop :=
  (∀ (d a b : BitVec 7) (sc : BitVec 3) (s : State) (wi : Nat),
  let w := s.wave wi
  let at_ := w.accessLanes a 0
  s.ready wi [d, a, b] = true → w.ql < 24 → w.room [d] = true → s.addrsOk wi 4 (at_.map Prod.snd) = true →
  s.spillSound wi (at_.map Prod.snd) = true →
  let does (i : Instr) (fn : Nat) (held : List (BitVec 7)) : Prop := w.logRoom (w.countV held) = true →
    ∃ t o, exec i s = .next t ∧ t.ops = s.ops ++ [o] ∧ o.fn = fn ∧ o.atom = some sc.toNat ∧
      MemIssued s t wi .atomic 4 [d] (at_.map fun x =>
        { lane := x.1, addr := x.2, data := wordLe ((w.reg b).lane x.1) ++ wordLe ((w.reg d).lane x.1) }) ∧
      (t.wave wi).ql = w.ql + 1 ∧ (t.wave wi).qs = w.qs
  does (.atomAdd d a b sc) 0 [a, b] ∧ does (.atomFadd d a b sc) 1 [a, b] ∧
  (modeType w.mode ∈ [0, 1] → does (.atomMin d a b sc) 2 [a, b] ∧ does (.atomMax d a b sc) 3 [a, b]) ∧
  does (.atomAnd d a b sc) 4 [a, b] ∧ does (.atomOr d a b sc) 5 [a, b] ∧ does (.atomXor d a b sc) 6 [a, b] ∧
  does (.atomXchg d a b sc) 7 [a, b] ∧ does (.atomCas d a b sc) 8 [a, b, d] ∧ does (.atomInc d a b sc) 9 [a, b]) ∧
  (∀ (mode : BitVec 16) (m b d : Word),
  atomicNew 0 mode m b d = m + b ∧ atomicNew 4 mode m b d = m &&& b ∧ atomicNew 5 mode m b d = m ||| b ∧
  atomicNew 6 mode m b d = m ^^^ b ∧ atomicNew 7 mode m b d = b ∧ atomicNew 8 mode m b d = (if m = d then b else m) ∧
  atomicNew 9 mode m b d = (if m.toNat < b.toNat then m + 1 else m) ∧
  (modeType mode = 0 → (atomicNew 2 mode m b d).toInt = min m.toInt b.toInt ∧ (atomicNew 3 mode m b d).toInt = max m.toInt b.toInt) ∧
  (modeType mode = 1 → (atomicNew 2 mode m b d).toNat = min m.toNat b.toNat ∧ (atomicNew 3 mode m b d).toNat = max m.toNat b.toNat) ∧
  let fl := modeFlush mode
  let x := f32Read fl m
  let y := f32Read fl b
  let inf (v : Word) : Prop := v &&& 0x7FFFFFFF = 0x7F800000
  (f32Nan m = true ∨ f32Nan b = true ∨ (inf m ∧ b = m ^^^ 0x80000000) → atomicNew 1 mode m b d = 0x7FC00000) ∧
  (f32Fin m = true → inf b → atomicNew 1 mode m b d = b) ∧ (inf m → f32Fin b = true → atomicNew 1 mode m b d = m) ∧
  (f32Fin m = true → f32Fin b = true → modeRound mode = 0 → let n := f32Int x + f32Int y
    if n = 0 then atomicNew 1 mode m b d = (if x = 0x80000000 ∧ y = 0x80000000 then 0x80000000 else 0)
    else NearestF32 fl 0 n (atomicNew 1 mode m b d)))

/-- R161, R170, R171: a 32-bit store to argument words makes one access, counts in QS and takes no log entry; one to start
words makes one start for each distinct word and counts them in QX. Memory does not change. -/
def Obligations.ApertureStores : Prop := ∀ (d a : BitVec 7) (e : BitVec 10) (s : State) (wi : Nat),
  s.ready wi [a, d] = true → (s.waveBlock wi).migrate = none →
  let w := s.wave wi
  let at_ := w.accessLanes a (e.signExtend 32)
  let lanes : List LaneAcc := at_.map fun x => { lane := x.1, addr := x.2, data := wordLe ((w.reg d).lane x.1) }
  let word (x : Nat) : Nat := x % 0x1000 / 4
  (∀ x ∈ at_, 0x20000000 ≤ x.2 ∧ x.2 < 0x20008000 ∧ x.2 % 4 = 0) → at_ ≠ [] →
  ∀ i ∈ [Instr.sts32 d a e, .stx32 d a e],
    ((∀ x ∈ at_, word x.2 < 16) → w.qs < 16 → ∃ t r, exec i s = .next t ∧ SameMem s t ∧ t.accs = s.accs ++ [r] ∧ r.kind = .arg ∧
      r.st = .queued ∧ r.lanes = lanes ∧
      (t.wave wi).qs = w.qs + 1 ∧ (t.wave wi).log = w.log ∧ (t.wave wi).pc = w.pc + 4 ∧ (t.wave wi).regs = w.regs) ∧
    ((∀ x ∈ at_, word x.2 = 16) → w.qx + (at_.map Prod.snd).eraseDups.length ≤ 8 → w.logRoom (w.countV [a, d]) = true →
      ∃ t new, exec i s = .next t ∧ SameMem s t ∧ t.accs = s.accs ++ new ∧ (∀ r ∈ new, r.kind = .start ∧ r.st = .queued) ∧
      new.map Acc.lanes = (at_.map Prod.snd).eraseDups.map (fun x => lanes.filter fun l => l.addr == x) ∧
      (t.wave wi).qx = w.qx + new.length ∧ (t.wave wi).pc = w.pc + 4 ∧ (t.wave wi).regs = w.regs)

/-- R73, R75, R141, R158, R212, R224: the queue check comes first, and then the address check: an access to an address that
fails raises MEM with the lowest code, naming the failing lanes; neither makes an access. So for loads, stores and atomics
of every width, for stores to the aperture, `waitc`, `gmma` and `launch`. -/
def Obligations.MemoryTraps : Prop := ∀ (d a b : BitVec 7) (e : BitVec 10) (wc sc : BitVec 3) (x y z : BitVec 4) (p : BitVec 2)
    (s : State) (wi base : Nat),
  s.canTrap wi base ([d, d + 1, d + 2, d + 3, a, b, b + 1] ++ block8 x ++ block8 y ++ block8 z) = true →
  let w := s.wave wi
  let f : Word := e.signExtend 32
  let word (i : Instr) : Word := (encode i).getD 0
  let one : List (Nat × Nat) := [(w.l0, ((w.reg a).lane w.l0).toNat)]
  let traps (i : Instr) (c : Nat) (hit : Nat → Prop) : Prop := ∃ t, exec i s = .next t ∧
    Trapped s t wi base .mem c 0 w.pc w.pc (word i) ∧ ∀ l < 32, bit ((t.wave wi).sb.getD 3 0) l = true ↔ hit l
  let mem (i : Instr) (ls : List (Nat × Nat)) (width : Nat) (plain : Bool) : Prop :=
    ∀ c, (∃ q ∈ ls, s.memCode wi q.2 width plain = some c) → (∀ q ∈ ls, ∀ c', s.memCode wi q.2 width plain = some c' → c ≤ c') →
      traps i c fun l => ∃ q ∈ ls, q.1 = l ∧ (s.memCode wi q.2 width plain).isSome = true
  let start (q : Nat × Nat) : Prop := 0x20000000 ≤ q.2 ∧ q.2 < 0x20008000 ∧ q.2 % 4096 = 0x40
  (24 ≤ w.ql → ∀ i ∈ [Instr.lds8 d a e, .ldx8 d a e, .lds32 d a e, .fill d 0, .atomAdd d a b sc, .atomCas d a b sc],
    IssueTraps i s wi base .queue 1 (word i)) ∧
  (16 ≤ w.qs → ∀ i ∈ [Instr.sts8 d a e, .stx8 d a e, .spill d 0], IssueTraps i s wi base .queue 2 (word i)) ∧
  (let at_ := w.accessLanes a f;
    at_ ≠ [] → (∀ q ∈ at_, start q) → 8 < w.qx + (at_.map Prod.snd).eraseDups.length →
      ∀ i ∈ [Instr.sts32 d a e, .stx32 d a e], IssueTraps i s wi base .queue 3 (word i)) ∧
  (4 ≤ w.qt → ∀ i ∈ [Instr.mmaF8 x y z p, .mmaI8 x y z p, .mmaBf16 x y z, .mmaF16 x y z, .mmz x, .gmma x y a p],
    IssueTraps i s wi base .queue 4 (word i)) ∧
  (let loads (i : Instr) (off : Word) (width n : Nat) : Prop :=
      w.ql < 24 → w.room ((List.range n).map fun j => d + BitVec.ofNat 7 j) = true → mem i (w.accessLanes a off) width false;
    loads (.lds8 d a e) f 1 1 ∧ loads (.lds16 d a e) f 2 1 ∧ loads (.lds32 d a e) f 4 1 ∧ loads (.lds64 d a e) f 8 2 ∧
    loads (.lds128 d a e) f 16 4 ∧ loads (.ldx8 d a e) f 1 1 ∧ loads (.ldx16 d a e) f 2 1 ∧ loads (.ldx32 d a e) f 4 1 ∧
    loads (.ldx64 d a e) f 8 2 ∧ loads (.ldx128 d a e) f 16 4 ∧
    (wc.toNat ≤ 4 → loads (.ldsAcq d a wc sc) 0 (2 ^ wc.toNat) (Nat.max 1 (2 ^ wc.toNat / 4)) ∧
      loads (.ldxAcq d a wc sc) 0 (2 ^ wc.toNat) (Nat.max 1 (2 ^ wc.toNat / 4))) ∧
    loads (.atomAdd d a b sc) 0 4 1 ∧ loads (.atomFadd d a b sc) 0 4 1 ∧ loads (.atomOr d a b sc) 0 4 1 ∧
    loads (.atomXchg d a b sc) 0 4 1 ∧ loads (.atomCas d a b sc) 0 4 1) ∧
  (let stores (i : Instr) (off : Word) (width : Nat) (plain : Bool) : Prop :=
      w.qs < 16 → (plain = true → ∀ q ∈ w.accessLanes a off, ¬ start q) → mem i (w.accessLanes a off) width plain;
    stores (.sts8 d a e) f 1 false ∧ stores (.sts16 d a e) f 2 false ∧ stores (.sts32 d a e) f 4 true ∧
    stores (.sts64 d a e) f 8 false ∧ stores (.sts128 d a e) f 16 false ∧ stores (.stx8 d a e) f 1 false ∧
    stores (.stx16 d a e) f 2 false ∧ stores (.stx32 d a e) f 4 true ∧ stores (.stx64 d a e) f 8 false ∧
    stores (.stx128 d a e) f 16 false ∧
    (wc.toNat ≤ 4 → stores (.stsRel wc a d sc) 0 (2 ^ wc.toNat) false ∧ stores (.stxRel wc a d sc) 0 (2 ^ wc.toNat) false)) ∧
  (let at_ := w.accessLanes a f;
    (∃ q ∈ at_, start q) → (∃ q ∈ at_, ¬ start q) → (∀ q ∈ at_, s.memCode wi q.2 4 true = none) → w.qs < 16 → w.qx < 8 →
      (at_.filter fun q => q.2 % 4096 = 0x40 && inAperture q.2).eraseDups.length + w.qx ≤ 8 →
      ∀ i ∈ [Instr.sts32 d a e, .stx32 d a e], traps i 8 fun l => ∃ q ∈ at_, q.1 = l ∧ ¬ start q) ∧
  (w.suspended = none → mem (.waitc a b sc) one 8 false ∧
    (s.memCode wi ((w.reg a).lane w.l0).toNat 8 false = none → spaceOf ((w.reg a).lane w.l0).toNat = .spill →
      traps (.waitc a b sc) 9 (· = w.l0))) ∧
  (w.qt < 4 → w.room (block8 x) = true →
    let all := ((List.range 32).map fun l => (l, if bit w.pm l then ((w.reg a).lane l).toNat else 0xFFFFFFFF)).filter
      fun q => q.2 != 0xFFFFFFFF
    mem (.gmma x y a p) all 64 false ∧
    ((∀ q ∈ all, s.memCode wi q.2 64 false = none) → (∃ q ∈ all, spaceOf q.2 ≠ .shared) →
      traps (.gmma x y a p) 10 fun l => ∃ q ∈ all, q.1 = l ∧ spaceOf q.2 ≠ .shared)) ∧
  (let r := ((w.reg a).lane w.l0).toNat;
    ((∀ j < 384, r + j < 2 ^ 32 ∧ s.memCode wi (r + j) 1 false = none) →
      (r % 64 ≠ 0 → traps (.launch d a) 7 (· = w.l0)) ∧
      (r % 64 = 0 → spaceOf r = .spill → traps (.launch d a) 11 (· = w.l0)))) ∧
  -- R140, R141: the code of one address
  ∀ q, q < 2 ^ 32 → let code := s.memCode wi q 1 false
    (q < 0x800000 → code = if (s.waveLaunch wi).slices ≤ q / 0x80000 then some 2
      else if s.sharedAlloc wi ≤ q % 0x80000 then some 3 else none) ∧
    (0x800000 ≤ q → q < 0x10000000 → code = some 1) ∧
    (0x10000000 ≤ q → q < 0x16000000 →
      code = if s.scratchSize (s.waveLaunch wi).vi w.part.die ≤ q - 0x10000000 then some 4 else none) ∧
    (0x16000000 ≤ q → q < 0x18000000 → code = some 4) ∧
    (0x18000000 ≤ q → q < 0x20000000 → code = if (s.waveKernel wi).spill ≤ q - 0x18000000 then some 5 else none) ∧
    (0x20000000 ≤ q → q < 0x20008000 → code = some 6) ∧ (0x20008000 ≤ q → code = some 1) ∧
    ∀ width ∈ [2, 4, 8, 16, 64], s.memCode wi q width false = if code = none ∧ q % width ≠ 0 then some 7 else code

/-! ### Fences, waits, barriers and matrix instructions -/

/-- R23, R73, R146, R154, R175 to R177, R181: `fence` and `pfence` retire and hold what follows until their conditions hold;
`pfence` is not issued before the wave's stores have been appended; `wait` stops the wave unless every named counter is at
or below its limit; `waitc` stops it, with one counter load in l0, and in an SC region waits for what it issued before.
A fence at a scope binds until each earlier store of the wave has reached it, each earlier load and atomic has performed and
each earlier start store has been accepted; a `pfence`, until no persist buffer holds a write of its parties appended
before it: the wave, its block's waves and their copies, or the parties of its die. No instruction issues meanwhile. -/
def Obligations.FencesAndWaits : Prop := ∀ (sc : BitVec 3) (ql qs : BitVec 5) (qx : BitVec 4) (qt : BitVec 3) (a b : BitVec 7)
    (s : State) (wi : Nat),
  let w := s.wave wi
  let n := s.ops.length
  let before := s.issuedBefore wi n
  let addr := ((w.reg a).lane w.l0).toNat
  let inSc : Prop := spaceOf addr = .scratch ∧ s.inSc (s.waveLaunch wi).vi w.part.die addr = true
  let gone (x : Acc) : Prop := x.st = .done ∨ x.st = .dropped
  let due (x : Acc) : Prop := x.kind ∈ [AccKind.store, .arg, .scatter] ∧ ¬ gone x
  let low (x lim depth : Nat) : Prop := depth ≤ lim ∨ x ≤ lim
  let lows : Prop := low w.ql ql.toNat 24 ∧ low w.qs qs.toNat 16 ∧ low w.qx qx.toNat 8 ∧ low w.qt qt.toNat 4
  let reached (scope : Nat) (x : Acc) : Prop := gone x ∨ (x.kind = .start → False) ∧
    if x.kind ∈ [AccKind.store, .arg, .scatter] then x.space ≠ .aperture ∧
      (scope = 0 ∨ x.space = .spill ∨ (x.st = .block ∧ (scope = 1 ∨ x.space = .shared)) ∨ x.st = .module_)
    else x.st = .arrived
  let theirs (scope : Nat) (p : PWrite) : Prop :=
    if scope = 0 then p.wave = some wi else if scope = 1 then p.blk = some w.blk else p.party = some w.part.die
  (s.ready wi [a, b, b + 1] = true →
    SetsWave (.fence sc) s wi { w.retired with holds := if fenceReady sc.toNat before then [] else [.fence sc.toNat n] } ∧
    ((∀ x ∈ before, ¬ due x) → SetsWave (.pfence sc) s wi { w.retired with
      holds := if (s.covered wi sc.toNat s.appends).isEmpty then [] else [.pfence sc.toNat n s.appends] }) ∧
    ((∃ x ∈ before, due x) → SetsWave (.pfence sc) s wi { w with issued := true }) ∧
    (lows → SetsWave (.wait ql qs qx qt) s wi w.retired) ∧
    (¬ lows → SetsWave (.wait ql qs qx qt) s wi
      { w with stop := .wait ql.toNat qs.toNat qx.toNat qt.toNat, issued := false }) ∧
    (s.memCode wi addr 8 false = none → spaceOf addr ≠ .spill →
      (inSc → (∃ x ∈ before, due x ∨ x.kind ∈ [AccKind.load, .atomic, .gather, .record, .counter] ∧ x.performed = false) →
        SetsWave (.waitc a b sc) s wi { w with issued := true }) ∧
      (¬ inSc → ∃ t o r, exec (.waitc a b sc) s = .next t ∧ SameMem s t ∧
        t = { s with waves := s.waves.set wi (t.wave wi), ops := s.ops ++ [o], accs := s.accs ++ [r] } ∧
        o.acq = some sc.toNat ∧ o.cls = none ∧ r.kind = .counter ∧ r.st = .queued ∧ r.op = n ∧ r.wave = wi ∧
        r.space = spaceOf addr ∧ r.width = 8 ∧ r.lanes = [{ lane := w.l0, addr := addr }] ∧
        t.wave wi = { w with
          stop := .waitc s.accs.length ((((w.reg b).lane w.l0).toNat + 2 ^ 32 * ((w.reg (b + 1)).lane w.l0).toNat) % 2 ^ 63)
          issued := false }))) ∧
  -- when the conditions hold, and that nothing issues before
  (∀ m, (∀ x ∈ s.issuedBefore wi m, x.kind ≠ .engine) →
    (fenceReady sc.toNat (s.issuedBefore wi m) = true ↔ ∀ x ∈ s.issuedBefore wi m, reached sc.toNat x)) ∧
  (∀ m, w.trapMode = false → ∀ x, x ∈ s.issuedBefore wi m ↔ x ∈ s.accs ∧ x.wave = wi ∧ x.op < m ∧ x.kind ≠ .engine) ∧
  (∀ q, (s.covered wi sc.toNat q).isEmpty = true ↔ ∀ d ∈ s.dies, ∀ p ∈ d.persist, p.seq < q → ¬ theirs sc.toNat p) ∧
  ∀ m q, s.cur = some wi → wi < s.waves.length →
    (Hold.fence sc.toNat m ∈ w.holds ∧ (∃ x ∈ s.issuedBefore wi m, ¬ reached sc.toNat x) ∨
      Hold.pfence sc.toNat m q ∈ w.holds ∧ ∃ d ∈ s.dies, ∃ p ∈ d.persist, p.seq < q ∧ theirs sc.toNat p) →
    ∀ i ∈ [Instr.nop, .add a b a, .cmpEq 0 a b, .br 0 0, .lds32 a b 0, .ldx32 a b 0, .sts32 a b 0, .stx32 a b 0,
      .atomAdd a b a 0, .atomXchg a b a 0, .fence sc, .pfence sc, .wait ql qs qx qt, .waitc a b sc, .arrive 0, .meet 0, .await 0,
      .pckpt, .mmz 0, .gmma 0 0 a 0, .sreg a 0, .launch a b, .exit, .tret], SetsWave i s wi { w with issued := true }

/-- R154, R178 to R180, R182: `arrive` and `meet` record the phase in a token and leave an arrival to be counted; `await`
waits for the phase of its token, and goes on at once where that phase has completed; `pckpt` stops the wave with its
arrival to come; a second arrival raises BARTWICE, and `await` with no token BARWAIT. -/
def Obligations.BarrierInstructions : Prop := ∀ (nb : BitVec 5) (s : State) (wi : Nat), s.ready wi [] = true →
  let w := s.wave wi
  let b := s.waveBlock wi
  let n := s.ops.length
  let phase := b.phaseOf nb.toNat
  let come : Wave := { w with tokens := (nb.toNat, phase) :: w.tokens, arriving := w.arriving ++ [(nb.toNat, n)] }
  w.suspended = none →
  (w.token nb.toNat = none →
    SetsWave (.arrive nb) s wi { w.retired with tokens := come.tokens, arriving := come.arriving } ∧
    SetsWave (.meet nb) s wi (come.stopAt (.bar nb.toNat false))) ∧
  (∀ p, w.token nb.toNat = some p → p < phase → w.trace.on = false → ∃ t, exec (.await nb) s = .next t ∧ SameMem s t ∧
    t = { s with waves := s.waves.set wi (t.wave wi) } ∧
    t.wave wi = { w.retired with
      tokens := w.tokens.filter (fun x => x.1 != nb.toNat), pg := b.genOf nb.toNat p, know := (t.wave wi).know
      lossy := (t.wave wi).lossy, stop := .run, stopGuard := w.guard, stopMode := w.mode }) ∧
  (∀ p, w.token nb.toNat = some p → phase ≤ p → (∃ j ∈ s.living w.blk, j ≠ wi ∧ (s.wave j).state ≠ .bar) →
    SetsWave (.await nb) s wi (w.stopAt (.bar nb.toNat true))) ∧
  SetsWave .pckpt s wi { w.stopAt .pckpt with ckptDone := none, arriving := w.arriving ++ [(32, n)] } ∧
  ∀ base, s.canTrap wi base [] = true →
    (w.token nb.toNat ≠ none → ∀ i ∈ [Instr.arrive nb, .meet nb], IssueTraps i s wi base .sync 3 ((encode i).getD 0)) ∧
    (w.token nb.toNat = none → IssueTraps (.await nb) s wi base .sync 4 ((encode (.await nb)).getD 0))

/-- R204 to R207, R209, R211 to R213, R288: matrix instructions issue with QT below 4 and room for their D block, which
`mmz` does not need; a `gmma` makes one gather of the rows that lanes 0 to 15 of S name and one scatter to the addresses
in lanes 16 to 31, where there are any. -/
def Obligations.MatrixIssues : Prop := ∀ (d a b : BitVec 4) (xs : BitVec 7) (sel p : BitVec 2) (s : State) (wi : Nat),
  let w := s.wave wi
  let go (i : Instr) (fn : TileFn) (xs : List (BitVec 7)) : Prop :=
    s.ready wi (block8 d ++ block8 a ++ block8 b ++ xs) = true → w.room (block8 d) = true → w.qt < 4 → s.tileRoom wi →
    ∃ t, exec i s = .next t ∧ TileIssued s t wi fn d (some a) (some b) xs ∧ t.accs = s.accs ∧
      (t.wave wi).log = w.log ∧ (t.wave wi).full = w.full ∧
      (w.slots.length = w.qw → ∀ r ∈ block8 d, (t.wave wi).hasSlot r = true)
  go (.mmaF8 d a b p) (.f8 p.toNat) [] ∧ go (.mmaI8 d a b p) (.i8 p.toNat) [] ∧ go (.mmaBf16 d a b) .bf16 [] ∧
  go (.mmaF16 d a b) .f16 [] ∧ go (.mmaMxf8 d a b xs sel p) (.mxf8 p.toNat sel.toNat) [xs, xs + 1] ∧
  go (.mmaMxf4 d a b xs sel) (.mxf4 sel.toNat) [xs, xs + 1] ∧
  (s.ready wi (block8 d) = true → w.qt < 4 → ∃ t, exec (.mmz d) s = .next t ∧ TileIssued s t wi .zero d none none [] ∧
    t.accs = s.accs ∧ (t.wave wi).log = w.log ∧ (t.wave wi).full = w.full ∧ (t.wave wi).slots = w.slots ∧
    ∃ x, t.tiles[s.tiles.length]? = some x ∧ x.st = .due (s.waveClk wi + 1)) ∧
  let all := ((List.range 32).map fun l => (l, if bit w.pm l then ((w.reg xs).lane l).toNat else 0xFFFFFFFF)).filter
    fun x => x.2 != 0xFFFFFFFF
  let rows := all.filter fun x => x.1 < 16
  let outs := all.filter fun x => 16 ≤ x.1
  (s.ready wi (block8 d ++ block8 b ++ [xs]) = true → w.room (block8 d) = true → w.qt < 4 → s.tileRoom wi →
    w.logRoom (w.countV [xs]) = true → (∀ x ∈ all, s.memCode wi x.2 64 false = none ∧ spaceOf x.2 = .shared) →
    ∃ t new, exec (.gmma d b xs p) s = .next t ∧ TileIssued s t wi (.gmma p.toNat) d none (some b) [xs] ∧
      t.accs = s.accs ++ new ∧ (∀ x ∈ new, x.st = .queued ∧ x.op = s.ops.length ∧ x.wave = wi ∧ x.space = .shared ∧ x.width = 64) ∧
      (new.map fun x => (x.kind, x.lanes.map fun l => (l.lane, l.addr))) =
        (if rows.isEmpty then [] else [(.gather, rows)]) ++ (if outs.isEmpty then [] else [(.scatter, outs)]) ∧
      (w.slots.length = w.qw → ∀ r ∈ block8 d, (t.wave wi).hasSlot r = true))

/-! ### Encoding -/

/-- R63 to R66, R88 to R99: encoding a well-formed instruction word and decoding it gives the instruction, with every operand at
every value that its encoding admits. -/
def Obligations.EncodeDecodes : Prop := ∀ i : Instr, i.wellFormed = true → i.hasWord = true →
  ∃ w, encode i = some w ∧ decode w = .ok i

/-- R63, R65, R85: a word that decodes is the one encoding of a well-formed instruction: no bit of it goes unread. -/
def Obligations.DecodesOnce : Prop := ∀ (w : Word) (i : Instr), decode w = .ok i →
  i.wellFormed = true ∧ i.hasWord = true ∧ encode i = some w

/-- R66, R85, R86, R98: the words that the manual sets beside their source lines, and the words that it rejects. -/
def Obligations.SampleWords : Prop :=
  decode 0x10060410 = .ok (.add 3 1 2) ∧ decode 0x28040840 = .ok (.addi 2 2 0x040) ∧
  decode 0x28040BFC = .ok (.addi 2 2 0x3FC) ∧ decode 0x2C0B86A0 = .ok (.li 5 100000) ∧
  decode 0x0217FFFB = .ok (.br 2 0x7FFFB) ∧ decode 0x52312000 = .ok (.kand 3 1 2) ∧
  decode 0xC0245000 = .ok (.mmaF8 2 4 5 0) ∧ decode 0xB8040A00 = .ok (.wait 0 16 2 4) ∧ decode 0x01000000 = .ok .nop ∧
  decode 0xB7020852 = .ok (.ldxAcq 1 2 2 2) ∧ decode 0xA608182A = .ok (.atomAdd 4 6 5 2) ∧
  decode 0x32060415 = .ok (.sel 3 1 2 5) ∧ decode 0x85040403 = .ok (.t3x 2 1 3) ∧
  decode 0x10060411 = .error .subop ∧ decode 0x01000001 = .error .zero ∧ decode 0xB1020003 = .error .subop ∧
  decode 0x95060C00 = .error .align ∧ decode 0 = .error .opcode ∧ decode 0xFFFFFFFF = .error .opcode

/-! ### A step -/

/-- R23, R24, R30, R75, R150, R153: a turn of a partition with one resident wave that is ready issues the instruction that the
word at its PC decodes to: the step is that instruction's `exec`, and after it what follows an issue; one that cannot issue
leaves the wave ISSUED. After an issue the wave's wait count is zero and, while it runs, it is ISSUED; an instruction that
failed its checks has not issued. A word is fetched from main memory where its block is not held. A turn of an event is
the event's `exec`. -/
def Obligations.StepRunsDecoded : Prop := ∀ (s : State) (p : PartRef) (dt wi va : Nat) (rest : List Turn) (i : Instr) (word : Word),
  (s.agenda = ⟨dt, .issue p⟩ :: rest →
    let s1 := elapse { s with agenda := rest } dt
    let s2 := s1.modPart p fun x => { x with lastIssue := some (s1.partClk p) }
    let w := s2.wave wi
    let k := s2.waveKernel wi
    let l := s2.waveLaunch wi
    let f := fetchWord s2 l.vi w.part.die w.part.core l.asid (k.code.getD w.part.die 0 + w.pc.toNat)
    (s1.part p).lastIssue ≠ some (s1.partClk p) → installDue (tilesDue s2 p) p = s2 → s2.residents p = [wi] →
    refreshWave s2 wi = s2 → w.running = true → s2.issueStopped wi = false → w.pc.toNat < k.codelen → f.2 = some word →
    decode word = .ok i →
    let s3 := f.1.modWave wi fun w => { w with issued := false }
    let s4 := traceDue (s3.modWave wi fun w => { w with unissued := false }) wi
    let goes : Host.Outcome State Fault Refusal := match exec i { s4 with cur := some wi } with
      | .next t => .next (blockStops (afterIssue t wi (s4.wave wi) i))
      | o => o
    step s = match exec i { s3 with cur := some wi } with
      | .next t => if (t.wave wi).issued then .next (blockStops { t with cur := none }) else goes
      | _ => goes) ∧
  (∀ w : Wave, let t := { s with cur := none }
    ((s.wave wi).unissued = true → afterIssue s wi w i = t) ∧
    ((s.wave wi).unissued = false → (s.wave wi).stepping = false → afterIssue s wi w i = t.modWave wi fun x =>
      { x with w := 0, cmpSkip := x.cmpSkip.filter (fun y => y.1 != w.pc), issued := x.running })) ∧
  (∀ (vi die core asid pa : Nat) (u : State), va % 4 = 0 →
    (s.core die core).fetch.find? (fun b => b.asid == asid && b.va == va / 32 * 32) = none →
    translate s die asid (va / 32 * 32) .fetch = (u, .frame pa false) →
    (fetchWord s vi die core asid va).2 = some (leWord ((u.die die).hbm.readN (pa + va % 32) 4))) ∧
  (s.agenda = ⟨dt, .event i⟩ :: rest → i.isEvent = true → i.wellFormed = true → ∀ t,
    exec i (elapse { s with agenda := rest } dt) = .next t → step s = .next (blockStops t))

/-! ### Invariants -/

/-- R2, R142: every memory keeps its one form in every step. -/
def Obligations.MemKept : Prop := ∀ s t : State, s.memOk → step s = .next t → t.memOk

/-- R21, R34, R231, R299: in every step each wave keeps 128 registers, 16 masks, a side-buffer entry of 64 words and at most
16 runs on its pending-path stack. -/
def Obligations.WavesKept : Prop := ∀ s t : State, s.wavesOk → step s = .next t → t.wavesOk

/-- R281 to R283, R287: in every step each cluster keeps VCODE at most 32, no PASS or FLOOR code 3 and a clock of 1.4 to
2.0 GHz, also the one that it steps to. -/
def Obligations.PowerKept : Prop := ∀ s t : State, s.powerOk → step s = .next t → t.powerOk

/-- R6, R12, R292, R309: in every step the module keeps its two dies, 192 cores, 12 clusters, 8 stacks, 24 system cores and its
interfaces. R322, R323: no step takes back a leaf of the attestation key or lowers the rollback minimum. -/
def Obligations.ShapeKept : Prop :=
  (∀ s t : State, s.shapeOk → step s = .next t → t.shapeOk) ∧
  (∀ s t : State, step s = .next t → s.leaf.value ≤ t.leaf.value ∧ s.rollbackMin ≤ t.rollbackMin)

/-- R10, R281, R295, R306, R321: right after module reset the invariants hold, no boot step is done, MODULE is 0, and the
registers hold the reset values that the manual gives. -/
def Obligations.ResetHolds : Prop :=
  let s := State.reset
  s.memOk ∧ s.wavesOk ∧ s.powerOk ∧ s.shapeOk ∧ s.boot = 0 ∧ s.moduleNo = 0 ∧ s.now = 0 ∧ s.waves = [] ∧ s.launches = [] ∧
  (∀ c < 12, (s.cluster c).vcode = 20 ∧ (s.cluster c).step = 20 ∧ (s.cluster c).pass = 0 ∧ (s.cluster c).floor = 0) ∧
  ∀ d < 2, ∀ c < 96, (s.core d c).slowpass = 0 ∧ (s.core d c).cmps = List.replicate 8 {} ∧
    ∀ p < 16, (s.part ⟨d, c, p⟩).idleSince = none

/-! ### Steps of the ordering machine -/

/-- R152, R153, R159, R170, R171, R199, S2 and S3: `leave` writes the argument words of an argument store, hands a start store on,
puts a store to the scratchpad into the block's buffer, and appends one to shared memory; `propagate` appends the oldest
buffered write to its bytes, or a copy's write or counter update in transit. What is appended is stored at its home and enters the persist
buffer. -/
def Obligations.StoresLand : Prop := ∀ (s : State) (ai : Nat), s.memOk → ai < s.accs.length →
  let a := s.acc ai
  let h := s.homeOf a.wave a.space
  let lands (i : Instr) : Prop := s.homeOk h = true → (s.op a.op).race = .off → s.rangeCheck h a.lanes = none →
    ∃ t, exec i s = .next t ∧ BytesStored s t h a.lanes ∧ Pushed s t h a.wave a.lanes ∧ (t.acc ai).st = .done ∧
      t = { s with
        waves := t.waves, blocks := t.blocks, dies := t.dies, ops := t.ops, accs := t.accs, tiles := t.tiles
        appends := t.appends }
  (s.mayLeave ai = true → s.inTurn ai = true →
    (a.kind = .arg → a.wave < s.waves.length → ∃ t, exec (.leave ai) s = .next t ∧ SameMem s t ∧
      t.acc ai = { a with st := .done, left := true } ∧ t = { s with waves := t.waves, ops := t.ops, accs := t.accs } ∧
      ∀ k < (s.wave a.wave).args.length, (t.wave a.wave).args.getD k 0 =
        match a.lanes.reverse.find? (fun l => apertureWord l.addr == k) with
        | some l => leWord l.data
        | none => (s.wave a.wave).args.getD k 0) ∧
    (a.kind = .start → ∃ t, exec (.leave ai) s = .next t ∧ SameMem s t ∧
      t.acc ai = { a with st := .accepting, left := true } ∧ t = { s with waves := t.waves, ops := t.ops, accs := t.accs }) ∧
    (a.kind ≠ .arg → a.kind ≠ .start → a.space ≠ .shared → ∃ t, exec (.leave ai) s = .next t ∧ SameMem s t ∧
      t.acc ai = { a with sync := (t.acc ai).sync, st := .block, left := true, entered := s.steps } ∧
      t = { s with waves := t.waves, ops := t.ops, accs := t.accs }) ∧
    (a.kind ≠ .arg → a.kind ≠ .start → a.space = .shared → lands (.leave ai))) ∧
  (a.kind ≠ .engine → a.st = .block → (∀ b ∈ s.accs, b.st = .block → (s.wave b.wave).blk = (s.wave a.wave).blk →
    b.entered < a.entered → b.overlaps a = false) → lands (.propagate ai)) ∧
  (a.kind = .engine → a.st = .module_ → a.dest = .main → a.bump = none → a.die < s.dies.length →
    (∀ b ∈ s.accs.take ai, b.kind = .engine → b.st = .module_ → enginesMeet b a = false) →
    ∃ t, exec (.propagate ai) s = .next t ∧ t.acc ai = { a with st := .done } ∧
      t = { s with accs := t.accs, dies := t.dies } ∧ (∀ d, d ≠ a.die → t.die d = s.die d) ∧
      t.die a.die = { s.die a.die with hbm := (t.die a.die).hbm } ∧
      ∀ x, (t.die a.die).hbm.read x = (lastStore id a.lanes x).getD ((s.die a.die).hbm.read x)) ∧
  (∀ x inc note failed, a.kind = .engine → a.st = .module_ → a.dest = .main → a.bump = some (inc, note, failed) → a.lanes = [x] →
    a.die < s.dies.length → a.copy < s.copies.length →
    (∀ b ∈ s.accs.take ai, b.kind = .engine → b.st = .module_ → enginesMeet b a = false) →
    let old := leNat ((s.die a.die).hbm.readN x.addr 8)
    let oldNote := leNat ((s.die a.die).hbm.readN (x.addr + 8) 4)
    ∃ t, exec (.propagate ai) s = .next t ∧ (t.acc ai).st = .done ∧ (t.copy a.copy).st = .done ∧
      (∀ d, d ≠ a.die → t.die d = s.die d) ∧
      ∀ y, (t.die a.die).hbm.read y =
        (lastStore id ((if note = 0 then [] else [{ lane := 0, addr := x.addr + 8, data := natLe 4 ((oldNote + note) % 2 ^ 32) }]) ++
          [{ lane := 0, addr := x.addr
             data := natLe 8 ((old % 2 ^ 63 + inc) % 2 ^ 63 + if failed = true ∨ 2 ^ 63 ≤ old then 2 ^ 63 else 0) }]) y).getD
          ((s.die a.die).hbm.read y))

/-- R147, R152, R153, R159, R160, R163, R172, R173, R177, S4 and S5: a load whose lines are present reads its bytes, and writes its destinations
once no access of its operation is left; one of an absent line parks its wave; the counter load of `waitc` lets its wave
go on once the value has reached the target; an atomic reads each word, stores the new one, lane after lane, and gives
each lane the old word. -/
def Obligations.LoadsLand : Prop := ∀ (s : State) (ai : Nat), s.memOk → ai < s.accs.length →
  let a := s.acc ai
  let o := s.op a.op
  let h := s.homeOf a.wave a.space
  let w := s.wave a.wave
  let bytes (x : LaneAcc) : Bytes := (List.range a.width).map fun j => s.seen ai h (x.addr + j)
  let free : Prop := o.race = .off ∧ s.softCheck h a.lanes = none ∧ (w.trace.on = true → w.stop = .run)
  let sole : Prop := s.opAccs a.op = [a] ∧ o.cls = some .load ∧ o.wave = a.wave ∧ o.got = [] ∧ o.voided = false ∧
    o.uniform = false ∧ o.dst.Nodup ∧ a.op < s.ops.length ∧ a.wave < s.waves.length ∧ w.regs.length = 128 ∧
    (a.lanes.map LaneAcc.lane).Nodup
  let gets (t : State) (j : Nat) (x : LaneAcc) (v : Word) : Prop := x.lane < 32 → bit (o.guard &&& w.pm) x.lane = true →
    ∀ d, o.dst[j]? = some d → ((t.wave a.wave).reg d).lane x.lane = v
  let others (t : State) : Prop := ∀ e, e ∉ o.dst → (t.wave a.wave).reg e = w.reg e
  (s.mayLoad ai = true → s.allPresent ai = true → a.kind = .load → s.inTurn ai = true → free → ∃ t, exec (.load ai) s = .next t ∧ SameMem s t ∧
    t.acc ai = { a with st := .done } ∧ t = { s with waves := t.waves, ops := t.ops, accs := t.accs, blocks := t.blocks, dies := t.dies } ∧
    (sole → others t ∧ ∀ x ∈ a.lanes, ∀ j, gets t j x (leWord (((bytes x).drop (4 * j)).take 4)))) ∧
  (s.mayLoad ai = true → s.allPresent ai = false → ∃ t, exec (.load ai) s = .next t ∧ SameMem s t ∧
    t = { s with waves := t.waves } ∧
    (w.stop = .run → a.wave < s.waves.length → t.wave a.wave = { w with stop := .line ai, issued := false })) ∧
  (s.mayLoad ai = true → s.allPresent ai = true → a.kind = .counter → s.inTurn ai = true → free → a.wave < s.waves.length →
    ∀ x target, a.lanes = [x] → w.stop = .waitc ai target → target ≤ leNat (bytes x) → leNat (bytes x) < 2 ^ 63 →
    ∃ t, exec (.load ai) s = .next t ∧ SameMem s t ∧ (t.acc ai).st = .done ∧ (t.wave a.wave).stop = .run ∧
      (t.wave a.wave).pc = w.pc + 4 ∧ (t.wave a.wave).regs = w.regs) ∧
  (a.st = .arrived → a.kind = .load → s.powered a.wave = true → ∃ t, exec (.load ai) s = .next t ∧ SameMem s t ∧
    t.acc ai = { a with st := .done }) ∧
  (a.st = .arrived → a.kind = .atomic → s.powered a.wave = true → ∃ t, exec (.atomic ai) s = .next t ∧ SameMem s t ∧
    t.acc ai = { a with st := .done }) ∧
  (s.mayAtomic ai = true → s.allPresent ai = true → s.inTurn ai = true → free → o.atom = some 0 → s.rangeCheck h a.lanes = none →
    s.homeOk h = true →
    let old (x : LaneAcc) : Word := leWord (s.homeReadN h x.addr 4)
    let new (x : LaneAcc) (m : Word) : Word := atomicNew o.fn o.mode m (leWord (x.data.take 4)) (leWord ((x.data.drop 4).take 4))
    ((a.lanes.flatMap fun x => (List.range 4).map fun j => s.place h (x.addr + j)).Nodup →
      ∃ t, exec (.atomic ai) s = .next t ∧ (t.acc ai).st = .done ∧
        BytesStored s t h (a.lanes.map fun x => { x with data := wordLe (new x (old x)) }) ∧
        (sole → others t ∧ ∀ x ∈ a.lanes, gets t 0 x (old x))) ∧
    (∀ x y, a.lanes = [x, y] → x.addr = y.addr → ((List.range 4).map fun j => s.place h (x.addr + j)).Nodup →
      ∃ t, exec (.atomic ai) s = .next t ∧ (t.acc ai).st = .done ∧
        BytesStored s t h [{ x with data := wordLe (new y (new x (old x))) }] ∧
        (sole → others t ∧ gets t 0 x (old x) ∧ gets t 0 y (new x (old x)))))

/-- R153, R264 to R267, S9: `drain` takes the oldest pending write of a line out of the persist buffer and makes it the next
version of the line: in a slot that is not the only valid committed one; where both or neither hold a committed version,
in an invalid slot, A before B, and else in the one with the older SEQ. No other line changes. -/
def Obligations.DrainsInOrder : Prop := ∀ (s : State) (die k : Nat) (w : PWrite), die < s.dies.length →
  (s.die die).persist[k]? = some w → (∀ x ∈ (s.die die).persist.take k, x.key ≠ w.key) →
  let l := s.feltLine die w.key
  let ok (x : Option FeltSlot) : Bool := x.any fun y => y.valid
  let good (x : Option FeltSlot) : Bool := x.any fun y => y.valid && y.committed s
  ∃ t new, exec (.drain die k) s = .next t ∧ t = { s with dies := t.dies } ∧ SameMem s t ∧ (∀ d, d ≠ die → t.die d = s.die d) ∧
    t.die die = { s.die die with
      persist := (s.die die).persist.filter (fun x => x.seq != w.seq), felt := (t.die die).felt } ∧
    new.valid = true ∧ new.data = w.data ∧ new.kind = w.kind ∧ new.owner = w.owner ∧ new.gen = s.openGen w ∧
    new.seq = (match newestOf FeltSlot.valid l.a l.b with | some x => (x.seq + 1) % 2 ^ 32 | none => 1) ∧
    (∀ key, key ≠ w.key → t.feltLine die key = s.feltLine die key) ∧
    let toA : Prop := t.feltLine die w.key = { l with a := some new, snapA := none }
    let toB : Prop := t.feltLine die w.key = { l with b := some new, snapB := none }
    (toA ∨ toB) ∧ (good l.a = true → good l.b = false → toB) ∧ (good l.b = true → good l.a = false → toA) ∧
    (good l.a = good l.b → (ok l.a = false → toA) ∧ (ok l.a = true → ok l.b = false → toB) ∧
      ∀ x y, l.a = some x → l.b = some y → x.valid = true → y.valid = true → x.seq < 2 ^ 32 → y.seq < 2 ^ 32 →
        (0 < (y.seq + 2 ^ 32 - x.seq) % 2 ^ 32 → (y.seq + 2 ^ 32 - x.seq) % 2 ^ 32 < 2 ^ 31 → toA) ∧
        (0 < (x.seq + 2 ^ 32 - y.seq) % 2 ^ 32 → (x.seq + 2 ^ 32 - y.seq) % 2 ^ 32 < 2 ^ 31 → toB))

/-! ### Stops and tiles that end -/

/-- R24, R44, R46, R178, R179, R182, R217, R268: a sleeper wakes; the head claim of a partition is granted the lowest free slots;
a claim that no wave of its block can free raises CLAIM; an arrival is counted, and with the last one the phase
completes, the generation advances and a wave that waits there goes on; a checkpoint is committed and its waves go on.
That the free slots granted are the lowest is the model's choice, log 18 (R43, R44 name none). -/
def Obligations.StopsEnd : Prop := ∀ (s : State) (wi : Nat), wi < s.waves.length →
  let w := s.wave wi
  let b := s.block w.blk
  (∀ u, w.stop = .sleep u → w.resident = true → u ≤ s.waveClk wi → TracedWave (.sleepElapsed wi) s wi (s.woken wi)) ∧
  (∀ p n rest, (s.part p).claims = (wi, n) :: rest → n ≤ s.poolFree p → w.part = p → 96 * p.die + p.core < s.cores.length →
    p.part < (s.core p.die p.core).parts.length →
    let new := ((s.freeSlots p).take n).map fun x => (⟨x, none⟩ : Slot);
    ∃ t, exec (.claimGrant p) s = .next t ∧
    t = { s with waves := s.waves.set wi (t.wave wi), cores := t.cores, dies := t.dies } ∧ (w.trace.on = false → t.dies = s.dies ∧ SameMem s t) ∧
    t.wave wi = { s.woken wi with qw := w.qw + n, slots := (t.wave wi).slots, trace := (t.wave wi).trace } ∧
    (t.wave wi).slots.Perm (w.slots ++ new) ∧
    (w.slots.Pairwise (·.phys ≤ ·.phys) → (t.wave wi).slots.Pairwise (·.phys ≤ ·.phys)) ∧
    (∀ x, x ∈ s.freeSlots p ↔ x < 512 ∧ ∀ j ∈ s.residents p, ∀ y ∈ (s.wave j).slots, y.phys ≠ x) ∧ (s.freeSlots p).Pairwise (· < ·) ∧
    t.part p = { s.part p with claims := rest } ∧ ∀ i, i ≠ 96 * p.die + p.core → t.cores[i]? = s.cores[i]?) ∧
  (∀ p n base, (s.part p).claims.filter (fun c => (s.wave c.1).blk == w.blk) = [(wi, n)] → s.poolFree p < n →
    (∀ j ∈ s.residents p, (s.wave j).blk = w.blk → (s.wave j).blocked = true) → w.part = p →
    w.stop = .claim n → w.trapMode = false → w.halted = false → w.exited = false → s.handler wi = some base →
    s.gatedCore wi = false → ∃ t, exec (.claimDeadlock p w.blk) s = .next t ∧
      (w.stopGuard = w.guard → w.stopMode = w.mode →
        Trapped s t wi base .sync 1 1 w.pc w.pc ((encode (.vclaim (BitVec.ofNat 7 n))).getD 0)) ∧
      (t.wave wi).trapMode = true ∧ (t.wave wi).pc = BitVec.ofNat 32 (base + 0x40 * TrapClass.sync.code) ∧
      (t.wave wi).sb.getD 6 0 = w.stopGuard ∧ (t.wave wi).sb.getD 7 0 = w.stopMode.zeroExtend 32 ∧
      (t.wave wi).sb.getD 10 0 = BitVec.ofNat 32 n ∧ (t.wave wi).sb.getD 11 0 = BitVec.ofNat 32 (s.poolFree p)) ∧
  (∀ x, w.arriving.find? (s.mayArrive wi) = some x → w.ended = false → w.saved = false → w.blk < s.blocks.length →
    ((∃ j ∈ s.living w.blk, j ≠ wi ∧ (s.wave j).state ≠ .bar ∧ j ∉ b.ckpt ∧ ∀ m, j ∉ b.arrived.getD m []) →
      ∃ t, exec (.arrival wi) s = .next t ∧ SameMem s t ∧
      t = { s with waves := s.waves.set wi { w with rc := (w.rc + 1) % 2 ^ 22, arriving := w.arriving.erase x }
                   blocks := s.blocks.set w.blk (t.block w.blk) } ∧
      t.block w.blk = { b with
        know := (t.block w.blk).know, lossy := (t.block w.blk).lossy
        ckpt := if x.1 = 32 then b.ckpt ++ [wi] else b.ckpt
        arrived := if x.1 = 32 then b.arrived else b.arrived.set x.1 (b.arrived.getD x.1 [] ++ [wi]) }) ∧
    (x.1 < 32 → b.arrived.length = 32 → b.phase.length = 32 → b.phaseStep = false →
      (∀ j ∈ s.living w.blk, j = wi ∨ j ∈ b.arrived.getD x.1 []) → (∀ m, m ≠ x.1 → b.arrived.getD m [] = []) →
      (∀ c ∈ s.copies, c.halo = none) →
      ∃ t, exec (.arrival wi) s = .next t ∧ (t.block w.blk).phaseOf x.1 = b.phaseOf x.1 + 1 ∧
      (t.block w.blk).gen = (b.gen + 1) % 2 ^ 22 ∧ (t.block w.blk).arrived.getD x.1 [] = [] ∧
      (wi ∈ b.waves → w.stop = .bar x.1 false → w.halted = false → w.token x.1 = some (b.phaseOf x.1) →
        (t.wave wi).stop = .run ∧ (t.wave wi).pc = w.pc + 4 ∧ (t.wave wi).token x.1 = none ∧
        (t.wave wi).pg = (b.gen + 1) % 2 ^ 22 ∧ (t.wave wi).regs = w.regs ∧
        ((∀ j ∈ b.waves, (s.wave j).trace.on = false) → SameMem s t)))) ∧
  ∀ bi, s.mayCheckpoint bi = true → (s.block bi).die < s.dies.length → (s.block bi).phaseStep = false →
    let c := s.block bi
    ∃ t, exec (.checkpoint bi) s = .next t ∧ ((∀ j ∈ c.waves, (s.wave j).trace.on = false) → SameMem s t) ∧
      (t.block bi).committed = c.committed + 1 ∧
      (t.block bi).gen = (c.gen + 1) % 2 ^ 22 ∧ (t.block bi).ckpt = [] ∧ (t.block bi).ckptSeq = none ∧
      (∃ x, x.valid = true ∧ x.kind = 3 ∧ x.gen = c.committed + 1 ∧
        ((t.feltLine c.die (.ckpt bi)).a = some x ∨ (t.feltLine c.die (.ckpt bi)).b = some x)) ∧
      ∀ j ∈ s.living bi, j < s.waves.length → (s.wave j).halted = false → (s.wave j).stop = .pckpt →
        (t.wave j).stop = .run ∧ (t.wave j).pc = (s.wave j).pc + 4 ∧ (t.wave j).noFlush = true

/-- R103, R204, R205, R207 to R211: when its time has come a tile that raises no ARITH writes its D block, every lane, ORs its
flags into FSTAT, and clears pending bits and its QT count; `mmz` writes U(0); `mma.i8` adds 64 exact products to C; a
float form of finite elements gives their exact sum with C rounded once, ties to even, and a NaN in C gives 0x7FC00000.
When the occupancy of the tensor core ends, the result is due 16 clocks later; that of another unit frees the unit. -/
def Obligations.TilesComplete : Prop := ∀ (s : State) (ti : Nat), ti < s.tiles.length →
  let x := s.tile ti
  let o := s.op x.op
  let w := s.wave x.wave
  let outs := x.outs o.mode o.got
  (∀ c, x.st = .due c → c ≤ s.partClk x.part → x.voided = false → x.op < s.ops.length → o.wave = x.wave →
    x.wave < s.waves.length → o.cls = some .tile → o.counted = 1 → o.dst = block8 (BitVec.ofNat 4 x.d) → w.regs.length = 128 →
    (modeTrap o.mode = false ∨ x.fn = .zero) → (∀ a ∈ s.accs, a.op = x.op → a.kind = .scatter → a.isOver = true) →
    ∃ t, exec (.tileComplete ti) s = .next t ∧ SameMem s t ∧ (t.tile ti).st = .done ∧
      t = { s with waves := s.waves.set x.wave (t.wave x.wave), tiles := t.tiles, ops := t.ops } ∧
      (t.wave x.wave).qt = w.qt - 1 ∧ (t.wave x.wave).pend = w.pend.filter (fun d => !o.dst.contains d) ∧
      (t.wave x.wave).pc = w.pc ∧ (∀ e, e ∉ o.dst → (t.wave x.wave).reg e = w.reg e) ∧
      (t.wave x.wave).fstat = w.fstat ||| BitVec.ofNat 32 (outs.foldl (fun acc y => acc ||| y.2) 0) ∧
      ∀ j < 8, let r := (t.wave x.wave).reg (BitVec.ofNat 7 (8 * (x.d % 16) + j))
        (x.fn = .zero → r = .u 0) ∧
        ∀ l < 32, let m := 2 * j + l / 16
          let n := l % 16
          (x.fn ≠ .zero → r.lane l = BitVec.ofNat 32 (outs.getD (16 * m + n) (0, 0)).1) ∧
          (∀ g, x.fn = .i8 g → modeSat o.mode = false →
            let byte (signed : Bool) (blk : List Lanes) (row k : Nat) : Int :=
              let v := ((blk.getD (k / 8) []).getD (2 * row + k / 4 % 2) 0).extractLsb' (8 * (k % 4)) 8
              if signed then v.toInt else v.toNat
            r.lane l = BitVec.ofInt 32 (((x.c.getD j []).getD l 0).toInt +
              (List.range 64).foldl (fun acc k => acc + byte (g < 2) x.a m k * byte (g % 2 == 0) x.b n k) 0)) ∧
          let c := (x.c.getD j []).getD l 0
          ∀ fa fb sel, (x.fn, fa, fb, sel) ∈ floatForms → modeRound o.mode = 0 →
            (f32Nan c = true → r.lane l = 0x7FC00000) ∧
            let flush := modeFlush o.mode
            let elem (f : FltForm) (bytes : List Nat) (k : Nat) : Nat :=
              (List.range bytes.length).foldl (fun acc i => acc + bytes.getD i 0 * 256 ^ i) 0 / 2 ^ (f.bits * k) % 2 ^ f.bits
            let as := x.row o.got m
            let bs := (List.range 64).map fun k => ((x.b.getD (k / 8) []).getD (2 * n + k / 4 % 2) 0).toNat / 256 ^ (k % 4) % 256
            let scale (xs : Lanes) (i k : Nat) : Nat := match sel with
              | none => 127
              | some h => (xs.getD (i + 16 * ((h / 2 + k / 32 / 2) % 2)) 0).toNat / 256 ^ (2 * (h % 2) + k / 32 % 2) % 256
            let ks := List.range (512 / fa.bits)
            f32Fin c = true → (flush = true → 0x00800000 ≤ c &&& 0x7FFFFFFF ∨ c &&& 0x7FFFFFFF = 0) →
            (∀ k ∈ ks, fa.ok flush (elem fa as k) = true ∧ fb.ok flush (elem fb bs k) = true ∧ scale x.xa m k ≠ 255 ∧ scale x.xb n k ≠ 255) →
            let total : Int := f32Int c * 2 ^ 300 + (ks.map fun k =>
              fa.int (elem fa as k) * fb.int (elem fb bs k) * 2 ^ (195 + scale x.xa m k + scale x.xb n k - fa.unit - fb.unit)).sum
            (total = 0 → r.lane l &&& 0x7FFFFFFF = 0) ∧ (total ≠ 0 → NearestF32 flush 300 total (r.lane l))) ∧
  (∀ p c, s.runningTile p = some ti → x.st = .running c → c ≤ s.partClk p → ∃ t, exec (.occupancyEnd p .tensor) s = .next t ∧
    SameMem s t ∧ t = { s with tiles := t.tiles, cores := t.cores } ∧ t.tile ti = { x with st := .due (c + 16) } ∧
    ∀ i, i ≠ ti → ∃ st, t.tile i = { s.tile i with st := st }) ∧
  ∀ p u, u ≠ .tensor → s.busyUntil p u ≤ s.partClk p → p.part < (s.core p.die p.core).parts.length →
    96 * p.die + p.core < s.cores.length → ∃ t, exec (.occupancyEnd p u) s = .next t ∧ SameMem s t ∧
    t = { s with cores := t.cores } ∧ t.part p = { s.part p with busy := (s.part p).busy.filter fun y => y.1 != u }

/-! ### Copies -/

/-- R148, R153, R171, R184, R188, R190, R199 to R202, R279, R280, S6 to S8: a start that nothing refuses becomes a copy of its filled template, which
holds its locks and whose destination lines are absent; a refused one raises MEM and leaves the queue. A move of a COPY
line between local memories writes, at each byte, the last element that covers it, and makes the line present; a complete
copy releases its locks, adds INC to its counter and its note count to the note word, and leaves the queue. A serviced
fault maps its page, with the bytes it was evicted with, zeros where it was discarded, and lets its copies go on; one that
cannot be serviced fails them. -/
def Obligations.CopiesRun : Prop := ∀ (s : State) (ai ci k : Nat), s.memOk →
  let a := s.acc ai
  let w := s.wave a.wave
  let c := s.copy ci
  (∀ u, s.startTemplate ai = some u → ai < s.accs.length → a.wave < s.waves.length → a.kind = .start → a.late = false →
    s.mayAccept ai u.scope = true →
    let f := u.fill w.args
    let holes : Bool := u.holes.all fun h => h % 16 != 13 || decide ((w.args.getD (h / 16) 0).toNat < 65536)
    (s.startRefusal a.wave f holes = none → s.lockConflict (s.newCopy ai f) = none → (s.op a.op).race = .off → f.mode ≠ .halo →
      (s.block w.blk).late = [] →
      ∃ t d, exec (.accept ai) s = .next t ∧ SameMem s t ∧ t.copies = s.copies ++ [d] ∧ d.t = f ∧ d.st = .active ∧
        d.wave = a.wave ∧ d.op = a.op ∧ d.chan = a.startChannel ∧ d.rlocks = d.srcs ∧ d.wlocks = d.dsts ∧
        d.srcs = f.reads.map (fun r => r.span w.blk) ∧ d.dsts = f.writes.map (fun r => r.span w.blk) ∧
        (t.acc ai).st = .done ∧ (t.wave a.wave).qx = w.qx ∧
        (f.dspace = .shared → w.blk < s.blocks.length → ∀ l ∈ f.destLines.map Prod.snd, l ∈ (t.block w.blk).absent)) ∧
    (∀ code, s.startRefusal a.wave f holes = some code → s.gatedCore a.wave = false → w.ended = false → w.trapMode = false → w.trapHalt = false →
      w.trapDue = false → (s.op a.op).cls = some .copy → (s.op a.op).wave = a.wave → 1 ≤ (s.op a.op).counted →
      a.op < s.ops.length →
      ∃ t, exec (.accept ai) s = .next t ∧ t.copies = s.copies ∧ (t.acc ai).st = .trapped ∧ (t.wave a.wave).qx = w.qx - 1 ∧
        (w.halted = false → w.exited = false → ∀ base, s.handler a.wave = some base → (t.wave a.wave).trapMode = true ∧
          (t.wave a.wave).sb.getD 0 0 = BitVec.ofNat 32 (2 ^ 31 + 2 * 2 ^ 28 + code % 256 * 2 ^ 8 + 5)))) ∧
  (∀ x, ci < s.copies.length → c.st = .active → c.fail = none → s.firstOfChannel ci = true → c.halo = none → c.bumps = [] →
    c.todo[k]? = some x → c.t.mode = .copy → c.t.mask = 0 → x.2 < 2 ^ 58 → c.t.sspace ≠ .main → c.t.dspace ≠ .main →
    (∀ e ∈ c.t.elems, 0 ≤ e.1 ∧ e.1 < 2 ^ 32 ∧ 0 ≤ e.2 ∧ e.2 < 2 ^ 32) → (∀ l, s.mark (c.home c.t.sspace) l = none) →
    s.homeOk (c.home c.t.dspace) = true → ∃ t ws, exec (.move ci k) s = .next t ∧
      BytesStored s t (c.home c.t.dspace) ws ∧ t.copies = s.copies.set ci { c with todo := c.todo.erase x, peerWait := false, wrote := insertNat x.2 c.wrote } ∧
      t = { s with copies := t.copies, blocks := t.blocks, dies := t.dies, appends := t.appends } ∧
      (∀ y : Nat, lastStore id ws y = if y / 64 = x.2 then
        (c.t.elems.reverse.find? fun e => decide (e.2 ≤ (y : Int)) && decide ((y : Int) < e.2 + c.t.esize)).map
          (fun e => s.homeRead (c.home c.t.sspace) (e.1 + ((y : Int) - e.2)).toNat)
        else none) ∧
      (c.t.dspace = .shared → x.2 ∉ (t.block c.blk).absent)) ∧
  (ci < s.copies.length → s.mayComplete ci = true → c.t.cspace ≠ .main → c.t.cnt % 16 = 0 → c.race = .off →
    s.openTo c (c.home c.t.cspace) c.t.cnt = true → s.homeOk (c.home c.t.cspace) = true → (s.block c.blk).cancelled = false →
    let h := c.home c.t.cspace
    ((List.range 12).map fun j => s.place h (c.t.cnt + j)).Nodup →
    let old := leNat (s.homeReadN h c.t.cnt 8)
    let note := leNat (s.homeReadN h (c.t.cnt + 8) 4)
    ∃ t, exec (.complete ci) s = .next t ∧
      BytesStored s t h ((if c.note = 0 then [] else [{ lane := 0, addr := c.t.cnt + 8, data := natLe 4 ((note + c.note) % 2 ^ 32) }]) ++
        [{ lane := 0, addr := c.t.cnt
           data := natLe 8 ((old % 2 ^ 63 + c.t.inc) % 2 ^ 63 + if c.fail.isSome || 2 ^ 63 ≤ old then 2 ^ 63 else 0) }]) ∧
      (t.copy ci).st = .done ∧ (t.copy ci).rlocks = [] ∧ (t.copy ci).wlocks = [] ∧
      ((s.op c.op).cls = some .copy → 1 ≤ (s.op c.op).counted → (s.op c.op).wave < s.waves.length →
        (t.wave (s.op c.op).wave).qx = (s.wave (s.op c.op).wave).qx - 1)) ∧
  ∀ die f, die < s.dies.length → (s.die die).faults[k]? = some f →
    (∃ t, exec (.faultService die k none) s = .next t ∧ SameMem s t ∧ (t.die die).faults = (s.die die).faults.eraseIdx k ∧
      ∀ y ∈ f.copies, y.1 < s.copies.length → (s.copy y.1).st = .active → (s.copy y.1).fail = none →
        ∃ v, (t.copy y.1).fail = some (.unmapped, v) ∧ (y.1, v) ∈ f.copies) ∧
    ∀ entry bs leaf e, s.leafOf die f.asid f.va = some leaf → s.regionOf die f.asid f.va = some e →
      let frame := bitsOf entry.toNat 12 27 * 4096
      let reclaimed : Prop := bitsOf (leNat ((s.die die).hbm.readN leaf 8)) 2 1 = 1
      ∃ t, exec (.faultService die k (some (entry, bs))) s = .next t ∧
        t = { s with
          copies := t.copies, dies := t.dies, evicted := s.evicted.filter fun x => !(x.1 == f.asid && x.2.1 == f.va) } ∧
        (t.die die).faults = (s.die die).faults.eraseIdx k ∧ (∀ y ∈ f.copies, y.2 ∉ (t.copy y.1).heldOn) ∧
        ∀ q, (t.die die).hbm.read q =
          if leaf ≤ q ∧ q < leaf + 8 then (natLe 8 entry.toNat).getD (q - leaf) 0
          else if frame ≤ q ∧ q < frame + 2 ^ pageBits e then
            if reclaimed then 0 else match s.hostPage f.asid f.va with
              | some h => s.hostMem.read (h + (q - frame))
              | none => bs.getD (q - frame) 0
          else (s.die die).hbm.read q

/-! ### Blocks, waves and launches -/

/-- R18 to R21, R25 to R29, R32, R34, R191, R82, R243, R249, R250, R253, R268: the next block of a launch is placed, its waves with
the state that R21 gives them and its shared memory holding the image; a saved block is placed again with the state of its
waves; a block unplaced for more than 100 us reserves the cluster with the fewest waves, and one unplaced for 10 ms is
posted; an exited wave whose counters are zero ends; a block whose waves have ended is committed and ends; the tag of a
launch that is over is swept and freed. The handle of a placed block, which R250 leaves to the distributor, is the count of
handles assigned, modulo 2^22: the model's choice, log 40. -/
def Obligations.BlocksRun : Prop := ∀ (s : State) (li bi die cl : Nat) (cores : List Nat), s.memOk →
  let l := s.launch li
  let k := s.kernel l.kernel
  let b := s.block bi
  let lb := s.launch b.launch
  let phys := cores.map fun c => 16 * cl + c
  (∀ lin since, s.nextBlock li = some (none, lin, since) → li < s.launches.length → die < s.dies.length →
    s.eligible li = true → (s.served li = true ∨ s.reserving (6 * die + cl) li lin = true) → s.unreserved (6 * die + cl) li lin = true → phys.Nodup →
    s.slicesFit li none die (s.freshQuotas li) phys = true →
    ((l.tags.getD die none).isSome = true ∨ ∃ g < 32, (s.die die).tags.getD g none = none) → l.traced = false →
    ∃ t new, exec (.placeBlock li die cl cores) s = .next t ∧ t.waves = s.waves ++ new ∧
      (t.launch li).next = l.next + 1 ∧ (∀ i, i < s.blocks.length → t.block i = s.block i) ∧
      (∀ d, (t.die d).scratch = (s.die d).scratch ∧ (t.die d).hbm = (s.die d).hbm) ∧
      (let x := t.block s.blocks.length
       x.st = .placed ∧ x.launch = li ∧ x.lin = lin ∧ x.die = die ∧ x.cluster = 6 * die + cl ∧ x.cores = phys ∧ x.gen = 0 ∧
        x.absent = [] ∧ x.wm = [] ∧ x.committed = 0 ∧ x.handle = s.handles % 2 ^ 22 ∧ x.phase = List.replicate 32 0 ∧
        x.late = (if l.slices ≤ 1 then [] else List.range l.slices) ∧
        x.waves = (List.range new.length).map (fun i => s.waves.length + i) ∧
        ∀ j < l.slices, ∀ o < 524288, k.image.length ≤ 524288 → x.shared.read (0x80000 * j + o) = k.image.getD o 0) ∧
      new.map Wave.idx = (List.range l.slices).flatMap l.sliceWaves ∧
      ∀ w ∈ new, w.blk = s.blocks.length ∧ w.pc = 0 ∧ w.mode = 0 ∧ w.fstat = 0 ∧ w.hm = 0 ∧ w.pri = k.priority ∧
        w.qv = k.vregs ∧ w.qw = k.vregs ∧ w.ql = 0 ∧ w.qs = 0 ∧ w.qx = 0 ∧ w.qt = 0 ∧ w.trapMode = false ∧
        w.pm = maskOf (fun i => decide (32 * w.idx + i < l.threads)) ∧ w.k = w.pm :: List.replicate 15 0 ∧
        w.regs = (List.range 128).map (fun i => Reg.u (l.args.getD i 0)) ∧ w.spill = [] ∧ w.state = .ready) ∧
  (b.st = .saved → 5 ≤ s.boot → b.migrate = none → s.outranked b.launch = false → b.waves.Nodup → phys.Nodup →
    s.unreserved (6 * die + cl) b.launch b.lin = true → s.slicesFit b.launch (some bi) die (s.savedQuotas bi) phys = true →
    ((lb.tags.getD die none).isSome = true ∨ ∃ g < 32, (s.die die).tags.getD g none = none) → die < s.dies.length →
    (∀ wi ∈ b.waves, wi < s.waves.length ∧ (s.wave wi).blk = bi ∧ (s.wave wi).slice < lb.slices ∧
      ((s.wave wi).ended = true ∨ ((s.wave wi).saved = true ∧ (s.wave wi).resumeDue = none ∧ (s.wave wi).stop = .run))) →
    ∃ t, exec (.restore bi die cl cores) s = .next t ∧ SameMem s t ∧ (t.block bi).st = .placed ∧ (t.block bi).die = die ∧
      (t.block bi).cores = phys ∧ (∀ i, i ≠ bi → t.block i = { s.block i with recs := (t.block i).recs }) ∧
      ∀ wi ∈ b.waves, (s.wave wi).ended = false → let w := s.wave wi
        let x := t.wave wi
        x.saved = false ∧ x.part.die = die ∧ x.part.core = phys.getD w.slice 0 ∧ x.pc = w.pc ∧ x.regs = w.regs ∧ x.k = w.k ∧
        x.pm = w.pm ∧ x.mode = w.mode ∧ x.fstat = w.fstat ∧ x.qw = w.qw ∧ x.lossy = true ∧ x.clk0 = x.rc ∧
        x.slots.map Slot.reg = (w.slots.map Slot.reg).take x.slots.length) ∧
  (∀ mine lin since, s.nextBlock li = some (mine, lin, since) → s.eligible li = true →
    (since + 100000 < s.tick → s.reservedFor li lin = none → ∀ c,
      s.fewest ((List.range 12).filter fun c => (s.cluster c).reserve.isNone && s.emptyFit li c) = some c →
      ∃ t, exec (.reserveMode li) s = .next t ∧ SameMem s t ∧
        t = { s with clusters := s.clusters.modify c fun x => { x with reserve := some (li, lin) } }) ∧
    (since + 10000000 ≤ s.tick → l.starved ≠ some lin → ∀ c, s.reservedFor li lin = some c →
      ∃ t, exec (.gangStarved li) s = .next t ∧ SameMem s t ∧
        t = { s with launches := s.launches.modify li (fun x => { x with starved := some lin })
                     posts := s.posts ++ [.gangStarved li lin c] })) ∧
  (∀ wi, let w := s.wave wi
    w.resident = true → w.exited = true → w.halted = false → w.ql = 0 → w.qs = 0 → w.qx = 0 → w.qt = 0 → wi < s.waves.length →
    ∃ t, exec (.waveEnd wi) s = .next t ∧ (t.wave wi).ended = true ∧ (t.wave wi).slots = [] ∧ (t.wave wi).regs = w.regs ∧
      (w.slot < (s.core w.part.die w.part.core).slotClk.length →
        (t.core w.part.die w.part.core).slotClk.getD w.slot 0 = w.rc) ∧
      t.launches = s.launches ∧ t.accs = s.accs ∧ t.kernels = s.kernels) ∧
  (b.st = .placed → b.cancelled = false → b.waves ≠ [] → s.living bi = [] → s.blockBusy bi = false →
    (s.pendingWrites bi).all (fun w => w.kind != 0) = true → b.phaseStep = false → b.launch < s.launches.length →
    ∃ t, exec (.endCommit bi) s = .next t ∧ (t.block bi).st = .ended ∧ (t.block bi).committed = b.committed + 1 ∧
      (∀ i, i ≠ bi → t.block i = s.block i) ∧ t.waves = s.waves ∧
      (∀ d, (t.die d).scratch = (s.die d).scratch ∧ (t.die d).hbm = (s.die d).hbm) ∧
      (lb.st = .queued → lb.next = lb.total → (∀ i ∈ lb.blocks, i = bi ∨ (s.block i).st = .ended) →
        (t.launch b.launch).st = .complete ∧ (t.launch b.launch).tEnd = some s.tick)) ∧
  ∀ g, (s.die die).tags.getD g none = some li → l.st ≠ .queued → die < s.dies.length →
    let fresh := ((s.die die).tags.filterMap id).all fun x => x == li || bit (s.anc x die) g
    ∃ t, exec (.tagSweep die g) s = .next t ∧ SameMem s t ∧ (t.die die).tags.getD g none = none ∧
      (t.launch li).tags.getD die none = none ∧ t = { s with dies := t.dies, launches := t.launches } ∧
      ∀ y ∈ (s.die die).wm, y.2.st ≠ .fresh → y.2 ≠ { st := .lost } → y.2.wid / 2 ^ 15 = g →
        (y.1, if fresh then {} else { y.2 with st := .lost }) ∈ (t.die die).wm

/-! ### Preemption, migration and gating -/

/-- R203, R217, R239 to R246, R253, R269, R299: the mode in which a block is preempted; a DRAIN block is saved after 40 us; a stopped
block is saved with the state of its waves, or discarded and queued again; a hot block is marked, its mark goes when it
has cooled, and once it is saved it is placed on the cores reserved for it; a core stops issue, loses power with its
state kept when its queues are empty, and comes back with GATECNT one higher. -/
def Obligations.BlocksMove : Prop := ∀ (s : State) (bi : Nat),
  let b := s.block bi
  let l := s.launch b.launch
  let k := s.kernel l.kernel
  let e := s.tick - b.firstPlaced.getD s.tick
  let x := 1000 * k.expect
  let n := (b.waves.filter fun wi => (s.wave wi).ended).length
  let near : Prop := if x ≠ 0 then x - e ≤ 20000 else n ≠ 0 ∧ e * (b.waves.length - n) ≤ 20000 * n
  let little : Prop := if x ≠ 0 then 10 * Nat.min x e < x else 10 * n < b.waves.length
  let sets (i : Instr) (c : Block) : Prop := ∃ t, exec i s = .next t ∧ SameMem s t ∧ t = { s with blocks := s.blocks.set bi c }
  let quietTrace (wi : Nat) : Prop := (s.wave wi).trace.on = false
  let kept (w x : Wave) : Prop := x.pc = w.pc ∧ x.regs = w.regs ∧ x.k = w.k ∧ x.mode = w.mode ∧ x.fstat = w.fstat ∧ x.pm = w.pm ∧
    x.spill = w.spill
  (∀ gang, b.st = .placed → b.waves ≠ [] → b.migrate = none → b.preempt = none →
    let stay : Prop := gang = true ∨ (∃ wi ∈ s.living bi, (s.wave wi).halted = true) ∨ ∃ wi ∈ b.waves, (s.wave wi).noFlush = true
    (stay → sets (.preempt bi gang) { b with preempt := some .save }) ∧
    (¬ stay → near → sets (.preempt bi gang) { b with preempt := some (.drain s.tick) }) ∧
    (¬ stay → ¬ near → k.idem = true → little → sets (.preempt bi gang) { b with preempt := some .flush }) ∧
    (¬ stay → ¬ near → (k.idem = false ∨ ¬ little) → sets (.preempt bi gang) { b with preempt := some .save })) ∧
  (∀ since, b.st = .placed → b.preempt = some (.drain since) → since + 40000 ≤ s.tick →
    sets (.drainTimeout bi) { b with preempt := some .save }) ∧
  (b.preempt = some .save → s.maySave bi = true → b.waves.Nodup → (∀ wi ∈ b.waves, wi < s.waves.length) →
    (∀ wi ∈ b.waves, quietTrace wi) → ∃ t, exec (.save bi) s = .next t ∧ SameMem s t ∧ (t.block bi).st = .saved ∧
      (t.block bi).savedAt = s.tick ∧ (t.block bi).preempt = none ∧ (∀ i, i ≠ bi → t.block i = s.block i) ∧
      (∀ wi ∈ s.living bi, (t.wave wi).saved = true ∧ kept (s.wave wi) (t.wave wi) ∧ (t.wave wi).slots = (s.wave wi).slots) ∧
      ∀ wi, wi ∉ b.waves → kept (s.wave wi) (t.wave wi) ∧ (t.wave wi).saved = (s.wave wi).saved) ∧
  (b.st = .placed → b.preempt = some .flush → s.sharedCopiesOver bi = true → (∀ wi ∈ b.waves, wi < s.waves.length) →
    ∃ t, exec (.flushAndRestart bi) s = .next t ∧ (t.block bi).st = .unstarted ∧ (t.block bi).waves = [] ∧
      (t.block bi).shared = [] ∧ (t.block bi).requeued = some s.tick ∧ (∀ i, i ≠ bi → t.block i = s.block i) ∧
      ∀ wi ∈ b.waves, (t.wave wi).ended = true ∧ (t.wave wi).slots = []) ∧
  (∀ cl cores, let phys := cores.map fun c => 16 * (cl % 6) + c
    (b.migrate = none → s.mayMigrate bi cl phys = true →
      sets (.migration bi cl cores) { b with migrate := some (cl, phys) }) ∧
    (b.migrate ≠ none → b.st = .placed → s.tooHot b = false → b.cancelDue = false → b.preemptDue = none →
      sets (.migration bi cl cores) { b with migrate := none, preempt := none }) ∧
    (∀ c ps, b.migrate = some (c, ps) → b.st = .placed → s.tooHot b = true → s.noCopies bi = true → s.maySave bi = false →
      sets (.migration bi cl cores) { b with preempt := some .save }) ∧
    ∀ c ps, b.migrate = some (c, ps) → b.st = .saved → s.slicesFit b.launch (some bi) (c / 6) (s.savedQuotas bi) ps = true →
      ((l.tags.getD (c / 6) none).isSome = true ∨ ∃ g < 32, (s.die (c / 6)).tags.getD g none = none) →
      b.cancelDue = false → b.preemptDue = none → (∀ wi ∈ b.waves, (s.wave wi).resumeDue = none) →
      ∃ t, exec (.migration bi cl cores) s = .next t ∧ (t.block bi).st = .placed ∧ (t.block bi).cores = ps ∧
        (t.block bi).die = c / 6 ∧ (t.block bi).migrate = none ∧ ∀ i, i ≠ bi → t.block i = { s.block i with recs := (t.block i).recs }) ∧
  ∀ die core, 96 * die + core < s.cores.length →
    let g := (s.core die core).gate
    let mine (wi : Nat) : Prop := wi ∈ s.coreWaves die core
    (g = .on → ∃ t, exec (.managedPowerGating die core) s = .next t ∧ SameMem s t ∧ (t.core die core).gate = .gating ∧
      (∀ i, i ≠ 96 * die + core → t.cores[i]? = s.cores[i]?) ∧ t.blocks = s.blocks ∧ (∀ wi, kept (s.wave wi) (t.wave wi)) ∧
      ∀ ai, ai < s.accs.length → mine (s.acc ai).wave → s.parkedLoad ai = true → (t.acc ai).st = .withdrawn) ∧
    (g = .gating → (∀ ai, ai < s.accs.length → mine (s.acc ai).wave → s.parkedLoad ai = false) →
      (∀ wi, mine wi → (s.wave wi).ql = 0 ∧ (s.wave wi).qs = 0 ∧ (s.wave wi).qt = 0) →
      ∃ t, exec (.gatingCut die core) s = .next t ∧ SameMem s t ∧ (t.core die core).gate = .gated ∧
        (t.core die core).fetch = [] ∧ t.accs = s.accs ∧ (∀ wi, kept (s.wave wi) (t.wave wi)) ∧
        (∀ wi, mine wi → (t.wave wi).path = [] ∧ (t.wave wi).focus = none) ∧ ∀ i, i ≠ 96 * die + core → t.cores[i]? = s.cores[i]?) ∧
    (g = .gated → (∀ wi, mine wi → quietTrace wi) → ∃ t, exec (.gatingRestore die core) s = .next t ∧ SameMem s t ∧ (t.core die core).gate = .on ∧
      ∀ wi, mine wi → (t.wave wi).gatecnt = (s.wave wi).gatecnt + 1 ∧ (t.wave wi).regs = (s.wave wi).regs)

/-! ### Power and temperature -/

/-- R281 to R283, R286 to R293: at the end of a window Bellows takes one action: over budget it raises PASS, then lowers the
rail towards VMIN, then the clock, and otherwise holds the point and says so once; well under budget it raises the clock,
the rail first, then lowers PASS to FLOOR. A rail step moves VCODE by one, the guard step first; a clock step ends; the
guard step is released; a newer lease sets the budget, and its term ends; a sensor that is read again after 1 ms sets the refresh rate
with its hysteresis; an allowance is written. -/
def Obligations.PowerActs : Prop := ∀ (s : State) (cl : Nat), cl < s.clusters.length →
  let c := s.cluster cl
  let g := if c.guard = .none then 0 else 1
  let sets (i : Instr) (d : ClusterState) : Prop := ∃ t, exec i s = .next t ∧ SameMem s t ∧ t = { s with clusters := s.clusters.set cl d }
  let all := 1000 * (s.budget - Config.uncore)
  let isOver : Prop := all < 12 * s.power cl
  let under : Prop := 96 * s.power cl ≤ 7 * all
  let ready (d : ClusterState) : ClusterState := match d.clockWant with
    | some f => if vmin f + g ≤ d.vcode then { d with clockWant := none, clockTo := some f } else d
    | none => d
  let up (d : ClusterState) : ClusterState := { d with vcode := Nat.min 32 (d.vcode + 1) }
  (c.winClk + 64 ≤ s.clk cl →
    let does (d : ClusterState) (held : Bool) : Prop := ∃ t, exec (.bellowsWindow cl) s = .next t ∧ SameMem s t ∧
      t.cluster cl = { d with
        winClk := c.winClk + 64, isOver := held, weights := (t.cluster cl).weights, weightsNew := []
        passWas := c.pass, passAt := s.clk cl } ∧
      (∀ i v, lookupNat c.weightsNew i = some v → lookupNat (t.cluster cl).weights i = some v) ∧
      (∀ i, lookupNat c.weightsNew i = none → lookupNat (t.cluster cl).weights i = lookupNat c.weights i) ∧
      t = { s with clusters := s.clusters.set cl (t.cluster cl)
                   posts := if held && !c.isOver then s.posts ++ [.overPost cl] else s.posts }
    let busy : Prop := c.clockTo ≠ none ∨ c.clockWant ≠ none
    let goal := c.vcode + c.railUp + (if c.guard = .rising then 1 else 0) - c.railDown
    (isOver → c.pass < 2 → does { c with pass := Nat.max (c.pass + 1) c.floor } false) ∧
    (isOver → 2 ≤ c.pass → busy → does c false) ∧
    (isOver → 2 ≤ c.pass → ¬ busy → vmin c.step + g < goal → does { c with railDown := c.railDown + 1 } false) ∧
    (isOver → 2 ≤ c.pass → ¬ busy → goal ≤ vmin c.step + g → 14 < c.step → does { c with clockTo := some (c.step - 1) } false) ∧
    (isOver → 2 ≤ c.pass → ¬ busy → goal ≤ vmin c.step + g → c.step ≤ 14 → does c true) ∧
    (¬ isOver → under → c.step < 20 → ¬ busy → vmin (c.step + 1) + g ≤ goal →
      does (ready { c with clockWant := some (c.step + 1) }) false) ∧
    (¬ isOver → under → c.step < 20 → ¬ busy → c.guard ≠ .rising → goal < vmin (c.step + 1) + g → c.vcode < vmin (c.step + 1) + g →
      does { c with clockWant := some (c.step + 1), railUp := vmin (c.step + 1) + g - c.vcode, railDown := 0 } false) ∧
    (¬ isOver → under → (20 ≤ c.step ∨ busy) → c.floor < c.pass → does { c with pass := c.pass - 1 } false) ∧
    (¬ isOver → under → (20 ≤ c.step ∨ busy) → c.pass ≤ c.floor → does c false) ∧
    (¬ isOver → ¬ under → does c false)) ∧
  (c.guard = .rising → sets (.railStep cl) (ready { up c with guard := .held })) ∧
  (c.guard ≠ .rising → c.railUp ≠ 0 → sets (.railStep cl) (ready { up c with railUp := c.railUp - 1 })) ∧
  (c.guard ≠ .rising → c.railUp = 0 → c.railDown ≠ 0 →
    sets (.railStep cl) (ready { c with vcode := c.vcode - 1, railDown := c.railDown - 1 })) ∧
  (∀ f, c.clockTo = some f → sets (.clockStep cl) { c with step := f, clockTo := none }) ∧
  (c.guard = .held → s.clusterIdle cl = true → c.clockTo = none → c.clockWant = none → c.railUp = 0 → c.railDown = 0 →
    sets (.guardRelease cl) { c with guard := .none, railDown := if vmin c.step < c.vcode then 1 else 0 }) ∧
  (∀ lease, numAt lease 6 2 = 0 → (∀ old, s.lease = some old → newerSeq (numAt lease 0 4) old.seq = true) →
    ∃ t, exec (.budgetLease lease) s = .next t ∧ SameMem s t ∧ t = { s with
      lease := some { seq := numAt lease 0 4, watts := numAt lease 4 2, issued := numAt lease 8 8, expiry := s.tick + 500000000 } } ∧
      t.budget = Nat.min 3000 (numAt lease 4 2)) ∧
  (∀ lease, numAt lease 6 2 ≠ 0 → ∃ t, exec (.budgetLease lease) s = .next t ∧ SameMem s t ∧ t = { s with leaseBad := s.leaseBad + 1 }) ∧
  (∀ old, s.lease = some old → old.expiry ≤ s.tick → ∃ t, exec .leaseExpiry s = .next t ∧ SameMem s t ∧
    t = { s with lease := some { old with live := false } } ∧ t.budget = Config.safew) ∧
  (∀ k (centi : Int), k < s.hbmStacks.length →
    let x := s.hbmStacks.getD k {}
    let new : StackState := if s.tick < x.lastRead + 1000000 then x else
      { lastRead := s.tick, centi := centi, doubled := if 8500 < centi then true else if centi ≤ 8300 then false else x.doubled
        hotref := if x.doubled then x.hotref + 1 else x.hotref }
    ∃ t, exec (.hbmSensorRead k centi) s = .next t ∧ SameMem s t ∧ t = { s with hbmStacks := s.hbmStacks.set k new }) ∧
  ∀ die core allow, (∀ b ∈ s.blocks, b.migrate = none) → 96 * die + core < s.cores.length →
    ∃ t, exec (.tallowUpdate die core allow) s = .next t ∧ SameMem s t ∧
      t = { s with cores := s.cores.set (96 * die + core) { s.core die core with tallow := allow } }

/-! ### Halting, stepping and trace -/

/-- R24, R67, R233, R244, R295, R296, R298 to R301, R305: a wave halts and is resumed, by default as `tret` from a trap that halted it
at issue and with `skip` after it; a PC comparator in whose block its next instruction lies halts it once; single and
focus steps run a halted wave; the path stack is read and cleared; a barrier-phase step resumes the halted waves of a
block; the debugger writes a mask, MODE (a value whose TYPE is one; bits [15:12] stay zero: log 30) or a register of a
halted wave, a pending one only by force; a SYNC packet is written when it is due, and after lost packets. -/
def Obligations.DebugActs : Prop := ∀ (s : State) (wi ln : Nat) (skip : Bool), wi < s.waves.length →
  let w := s.wave wi
  let goes (i : Instr) (x : Wave) (ps : List Post) : Prop := ∃ t, exec i s = .next t ∧ SameMem s t ∧
    t = { s with waves := s.waves.set wi x, posts := s.posts ++ ps }
  let held : Prop := w.resident = true ∧ w.halted = true ∧ w.exited = false
  let plain : Prop := w.trapDue = false ∧ w.trapHalt = false ∧ w.stop = .run
  let runs : Wave := { w with halted := false, stepping := false }
  (w.resident = true → w.halted = false → goes (.halt wi) { w with halted := true, issued := false, haltDue := false } [.halted wi]) ∧
  (w.halted = true → w.ended = false → w.saved = true → goes (.resume wi skip) { w with resumeDue := some skip } []) ∧
  (held → plain → TracedWave (.resume wi skip) s wi runs) ∧
  (held → w.trapDue = false → w.trapHalt = true → w.trapKind = 0 → w.heldAcc = [] → w.trace.on = false →
    ∃ t, exec (.resume wi skip) s = .next t ∧ SameMem s t ∧ t = { s with waves := s.waves.set wi (t.wave wi) } ∧
      (t.wave wi).pc = (if skip then w.tpc + 4 else w.rpc) ∧ (t.wave wi).halted = false ∧ (t.wave wi).trapHalt = false ∧
      (t.wave wi).trapMode = false ∧ ((t.wave wi).sb.getD 0 0).getLsbD 31 = false ∧ (t.wave wi).regs = w.regs) ∧
  (∀ cs, w.running = true → cs ≠ [] →
    (let all := (s.core w.part.die w.part.core).cmps
     cs = (List.range all.length).filter fun i =>
      let c := all.getD i {}
      let size := 2 ^ Nat.max 2 (c.ctl.extractLsb' 4 3).toNat
      let base := c.addr.toNat / size * size
      !w.cmpSkip.contains (w.pc, i) && c.ctl.getLsbD 31 && c.ctl.extractLsb' 0 2 == 0 && (!c.ctl.getLsbD 30 || c.launch.toNat == (s.waveLaunch wi).number) &&
        decide (w.pc.toNat < base + size) && decide (base < w.pc.toNat + 4)) →
    goes (.pcComparatorMatch wi) { w with halted := true, issued := false, cmpSkip := cs.map (fun i => (w.pc, i)) ++ w.cmpSkip }
      [.stops wi cs]) ∧
  (held → plain → TracedWave (.singleStep wi) s wi
    { runs with focus := none, path := [], pathOpen := false, pathOvf := false, stepping := true }) ∧
  (held → plain → bit w.pm ln = true → let keep := w.focus == some ln
    TracedWave (.focusStep wi ln) s wi { runs with
      focus := some ln, path := if keep then w.path else [], pathOpen := keep && w.pathOpen
      pathOvf := keep && w.pathOvf, stepping := true }) ∧
  (held → bit w.pm ln = false → goes (.focusStep wi ln) w [.dbg false 4]) ∧
  (w.resident = true → w.focus ≠ none → goes (.pendingPathStack wi)
    { w with path := [], pathOpen := false, pathOvf := false } [.path wi w.path w.pathOvf]) ∧
  (∀ blk, (s.block blk).st = .placed → (∀ j ∈ (s.block blk).waves, j = wi ∨ (s.wave j).halted = false) →
    wi ∈ (s.block blk).waves → held → plain → (s.block blk).waves.Nodup → w.trace.on = false →
    ∃ t, exec (.barrierPhaseStep blk) s = .next t ∧ SameMem s t ∧
      t = { s with waves := s.waves.set wi runs
                   blocks := s.blocks.set blk { s.block blk with phaseStep := true } }) ∧
  (w.resident = true → w.halted = true → ∀ (k : BitVec 4) (v : Word) (m : BitVec 16) (r : BitVec 7) (x : Reg),
    (∀ f ∈ [Instr.plainWrite wi (.mask k v), .forcedWrite wi (.mask k v)], goes f { w with k := w.k.set k.toNat v } [.dbg true 0]) ∧
    (modeType m ≠ 7 → ∀ f ∈ [Instr.plainWrite wi (.mode m), .forcedWrite wi (.mode m)], goes f { w with mode := m &&& 0x0FFF } [.dbg true 0]) ∧
    (r ∈ w.pend → goes (.plainWrite wi (.reg r x)) w [.dbg false 2]) ∧
    ((x.isV = true ∧ w.hasSlot r = false ∧ w.qw < w.liveV + 1) → r ∉ w.pend → goes (.plainWrite wi (.reg r x)) w [.dbg false 3]) ∧
    ((x.isV = false ∨ w.hasSlot r = true ∨ w.liveV + 1 ≤ w.qw) → w.regs.length = 128 → w.pend.Nodup →
      let ok (f : Instr) : Prop := ∃ t, exec f s = .next t ∧ SameMem s t ∧ t.posts = s.posts ++ [.dbg true 0] ∧
        (∀ l < 32, ((t.wave wi).reg r).lane l = x.lane l) ∧ (∀ e, e ≠ r → (t.wave wi).reg e = w.reg e) ∧
        r ∉ (t.wave wi).pend ∧ (t.wave wi).pc = w.pc ∧ (t.wave wi).k = w.k ∧ ∀ j, j ≠ wi → t.wave j = s.wave j
      (r ∉ w.pend → ok (.plainWrite wi (.reg r x))) ∧ ok (.forcedWrite wi (.reg r x)))) ∧
  (w.resident = false ∨ w.halted = false → ∀ x, goes (.plainWrite wi x) w [.dbg false 1] ∧ goes (.forcedWrite wi x) w [.dbg false 1]) ∧
  (w.resident = true → w.trace.on = true →
    let synced (i : Instr) (held : List Bool) : Prop := ∃ t, exec i s = .next t ∧
      t = { s with waves := s.waves.set wi (t.wave wi), cores := t.cores, dies := t.dies } ∧
      t.wave wi = { w with trace := (t.wave wi).trace } ∧ (t.wave wi).trace.needSync = false ∧ (t.wave wi).trace.held = held ∧
      (t.wave wi).trace.packets = 0 ∧ (t.wave wi).trace.clkSync = s.waveClk wi ∧ (t.wave wi).trace.tickLast = s.tick
    (w.trace.needSync = false → s.lostPackets wi = 0 →
      (512 ≤ w.trace.packets → synced (.traceSyncInterval wi) w.trace.held) ∧
      (w.trace.packets < 512 → w.trace.clkSync + 8192 ≤ s.waveClk wi → synced (.traceSyncInterval wi) [])) ∧
    ∀ buf size, s.traceBuf wi = some (buf, size) → s.lostPackets wi ≠ 0 → 45 ≤ s.traceFree wi buf size →
      synced (.traceLoss wi) [])

/-! ### Calls and bundles -/

/-- R19, R20, R261, R271, R302, R307, R316, R318 to R320, R326: a thread of a system core makes a call, its number in a7 and its
arguments from a0 on; the call returns in a0 what R316 gives it, or the error code, and the thread goes on. `launch` queues
the record at the tail with the next number, or returns the reason of refusal; a cancelled launch loses its unplaced
blocks; the time record is that of R307; a loaded bundle has its kernels, its code on both dies, a region over it and its
templates, and an unloaded one has none of them. Where a refusal's reason and a call's address stand in registers is the
model's choice, log 66; so is where loaded code stands, log 17. -/
def Obligations.CallsReturn : Prop := ∀ (s : State) (core : Nat),
  let calls (num : Nat) (does : Call → Prop) : Prop := ∀ c, s.callOf core num = some c → does c
  let said (c : Call) (i : Instr) (a u : State) (x : Int) (more : List Nat) : Prop := ∃ t, exec i s = .next t ∧ SameMem a t ∧
    t = { u with threads := u.threads.modify c.thread fun y => y.returns x more, posts := u.posts ++ [.ret c.vi x more] }
  let sets (vi : Nat) (y : ViState) : State := { s with vis := s.vis.set vi y }
  (∀ num c, s.callOf core num = some c → let y := s.thread c.thread
    s.boot = 6 ∧ (∃ k, s.sysCores[core]? = some k ∧ k.thread = some c.thread ∧ k.held = false) ∧ y.waiting = false ∧
      c.thread < s.threads.length ∧ (y.get 17).toNat = num ∧ (∀ k, c.arg k = (y.get (10 + k)).toNat) ∧ c.proc = y.proc ∧
      (s.proc c.proc).alive = true ∧ c.vi = (s.proc c.proc).vi ∧ c.asid = (s.proc c.proc).asid) ∧
  (∀ (y : SysThread) x more, y.x.length = 32 → let z := y.returns x more
    z.get 10 = BitVec.ofInt 64 x ∧ z.pc = y.pc + 4 ∧ z.waiting = false ∧ z.proc = y.proc ∧
      (∀ m ms, more = m :: ms → z.get 11 = BitVec.ofNat 64 m) ∧ ∀ r, r ≠ 10 → (r = 11 → more = []) → z.get r = y.get r) ∧
  calls 0x100 (fun c => let i := Instr.launchSystemCall core
    (c.arg 0 % 64 ≠ 0 → said c i s s (-1) []) ∧
    (c.arg 0 % 64 = 0 → (∀ u, procRead s c.proc (c.arg 0) 384 = (u, none) → exec i s = .next u) ∧
      ∀ u record, procRead s c.proc (c.arg 0) 384 = (u, some record) →
        let r : Record := ⟨record⟩
        let v := u.vi c.vi
        (r.version ≠ 1 → said c i u u (-7) [1]) ∧ (∀ reason, u.refusal c.vi r = some reason → said c i u u (-7) [reason]) ∧
        (u.refusal c.vi r = none → c.vi < u.vis.length → ∃ l : Launch, said c i u
          { u with vis := u.vis.set c.vi { v with nextLaunch := if v.nextLaunch = 2147483647 then 1 else v.nextLaunch + 1 }
                   launches := u.launches ++ [l] } v.nextLaunch [] ∧
          l.vi = c.vi ∧ l.number = v.nextLaunch ∧ l.queue = r.queue ∧ l.proc = c.proc ∧ l.asid = c.asid ∧ l.gx = r.gx ∧
          l.gy = r.gy ∧ l.gz = r.gz ∧ l.threads = r.threads ∧ l.slices = r.slices ∧ l.args = r.args.take r.nargs ∧
          l.ranges = r.ranges ∧ l.st = .queued ∧ l.blocks = [] ∧ l.next = 0 ∧ l.tQueued = s.tick ∧ l.tEntry = s.tick ∧
          l.parent = none))) ∧
  calls 0x101 (fun c => let i := Instr.launchWait core
    (s.findLaunch c.vi (c.arg 0) = none → said c i s s (-3) []) ∧
    ∀ li, s.findLaunch c.vi (c.arg 0) = some li → ((s.launch li).st = .complete → said c i s s 0 []) ∧
      ((s.launch li).st = .cancelled → said c i s s 1 []) ∧
      ((s.launch li).st = .queued → ∃ t, exec i s = .next t ∧ SameMem s t ∧ t = { s with
        threads := s.threads.modify c.thread fun y => { y with waiting := true }
        waiters := s.waiters ++ [⟨c.thread, li, if c.arg 1 = 0 then none else some (s.tick + c.arg 1)⟩] })) ∧
  (∀ th w, s.waiters.find? (fun x => x.thread == th && x.until_.any fun t => t ≤ s.tick) = some w →
    ∃ t, exec (.launchWaitTimeout th) s = .next t ∧ SameMem s t ∧ t = { s with
      waiters := s.waiters.erase w, threads := s.threads.modify th fun y => y.returns (-6) []
      posts := s.posts ++ [.ret (s.proc (s.thread th).proc).vi (-6) []] }) ∧
  calls 0x102 (fun c => let i := Instr.launchCancel core
    (s.findLaunch c.vi (c.arg 0) = none → said c i s s (-3) []) ∧
    ∀ li, s.findLaunch c.vi (c.arg 0) = some li → let l := s.launch li
      (l.st ≠ .queued → said c i s s 0 []) ∧
      (l.st = .queued → (∀ b ∈ l.blocks, b < s.blocks.length ∧ (s.block b).waves = [] ∧ (s.block b).st ≠ .placed ∧
          (s.block b).st ≠ .saved ∧ (s.block b).migrate = none) →
        ∃ t, exec i s = .next t ∧ t.posts.getLast? = some (.ret c.vi 0 []) ∧ t.dies = s.dies ∧ t.waves = s.waves ∧
          t.launch li = { l with cut := true, st := .cancelled, tEnd := some s.tick } ∧
          (∀ b ∈ l.blocks, (t.block b).st = .ended ∨ (t.block b).st = .discarded) ∧
          (∀ b, b ∉ l.blocks → t.block b = s.block b) ∧ ∀ j, j ≠ li → t.launch j = s.launch j) ∧
      ∀ b, l.st = .queued → l.blocks = [b] → b < s.blocks.length → (s.block b).st = .placed →
        ((s.block b).migrate ≠ none → said c i s { s with blocks := s.blocks.set b { s.block b with cancelDue := true } } 0 []) ∧
        ((s.block b).migrate = none → s.sharedCopiesOver b = false → said c i s
          { s with launches := s.launches.set li { l with cut := true }
                   blocks := s.blocks.set b { s.block b with cancelled := true } } 0 [])) ∧
  calls 0x103 (fun c => let i := Instr.launchTime core
    (s.findLaunch c.vi (c.arg 0) = none → said c i s s (-3) []) ∧
    ∀ li, s.findLaunch c.vi (c.arg 0) = some li → let l := s.launch li
      (l.st = .queued → said c i s s (-4) []) ∧
      ∀ p e, l.st ≠ .queued → l.tPlaced = some p → l.tEnd = some e →
        let record := natLe 4 l.number ++ natLe 4 0 ++ natLe 8 (l.tQueued - l.tEntry) ++
          natLe 8 (p - l.tQueued) ++ natLe 8 l.tFault ++ natLe 8 l.tWait ++ natLe 8 (e - p - l.tFault - l.tWait)
        (∀ u, procWrite s c.proc (c.arg 1) record = (u, none) → exec i s = .next u) ∧
        (∀ u, procWrite s c.proc (c.arg 1) record = (u, some ()) → said c i u u 0 []) ∧
        ((∀ j < 48, (s.proc c.proc).pages.lookup ((c.arg 1 + j) / 4096) = none ∧ c.arg 1 + j < 2 ^ 57) →
          ∃ u, procWrite s c.proc (c.arg 1) record = (u, some ()) ∧ u = { s with procs := u.procs } ∧
            ∀ j < 48, (u.proc c.proc).mem.read (c.arg 1 + j) = record.getD j 0)) ∧
  calls 0x104 (fun c => let i := Instr.queueOpen core
    let v := s.vi c.vi
    (7 < c.arg 0 → said c i s s (-1) []) ∧
    (c.arg 0 ≤ 7 → v.queues.length = 64 → (∀ q ∈ v.queues, q.open_ = true) → said c i s s (-2) []) ∧
    ∀ q, c.arg 0 ≤ 7 → c.vi < s.vis.length → v.queues.length = 64 → q < 64 → (v.queues.getD q ⟨0, true⟩).open_ = false →
      (∀ x ∈ v.queues.take q, x.open_ = true) →
      said c i s (sets c.vi { v with queues := v.queues.set q ⟨c.arg 0, true⟩ }) q []) ∧
  calls 0x105 (fun c => let i := Instr.queueClose core
    let v := s.vi c.vi
    let q := c.arg 0
    ((v.queues.getD q ⟨0, false⟩).open_ = false → said c i s s (-3) []) ∧
    ∀ x, v.queues[q]? = some x → x.open_ = true → c.vi < s.vis.length → (s.inQueue c.vi q ≠ [] → said c i s s (-4) []) ∧
      (s.inQueue c.vi q = [] → said c i s (sets c.vi { v with queues := v.queues.set q { x with open_ := false } }) 0 [])) ∧
  calls 0x130 (fun c => let i := Instr.raceConfig core
    let ok : Prop := c.arg 0 % 64 = 0 ∧ s.bufferFits c.vi (c.arg 0) (64 * c.arg 1) = true
    (¬ ok → said c i s s (-1) []) ∧
    (ok → c.vi < s.vis.length → said c i s (sets c.vi { s.vi c.vi with
      raceBase := some (BitVec.ofNat 32 (c.arg 0)), rblen := c.arg 1, raceW := 0, raceR := 0 }) 0 [])) ∧
  calls 0x131 (fun c => let i := Instr.traceConfig core
    let base := c.arg 0
    let n := c.arg 1
    let ok : Prop := base % 4096 = 0 ∧ n % 64 = 0 ∧ 256 ≤ n ∧ n ≤ 65536 ∧
      ∀ d ∈ s.diesOf c.vi, s.imageFits c.vi d base (128 * (s.owned c.vi d).length * n) = true
    let buf (d k slot : Nat) : Nat := base + n * (128 * (s.owned c.vi d).idxOf k + slot)
    (¬ ok → said c i s s (-1) []) ∧
    (ok → c.vi < s.vis.length → ∃ t, exec i s = .next t ∧
      t = { s with vis := s.vis.set c.vi { s.vi c.vi with traceBase := some (BitVec.ofNat 32 base), tbsize := n }
                   dies := t.dies, cores := t.cores, threads := s.threads.modify c.thread fun y => y.returns 0 []
                   posts := s.posts ++ [.ret c.vi 0 []] } ∧
      (∀ d < 2, d < s.dies.length → ∀ k ∈ s.owned c.vi d, 96 * d + k < s.cores.length →
        (t.core d k).traceLost = List.replicate 128 0 ∧ (t.core d k).traceBytes = List.replicate 128 0 ∧
          ∀ slot < 128, ∀ j < 16, t.homeRead (.scratch c.vi d) (buf d k slot + j) = 0) ∧
      ∀ d x, (∀ k ∈ s.owned c.vi d, ∀ slot < 128, ∀ j < 16, x ≠ s.scratchPhys c.vi d (buf d k slot) + j) →
        (t.die d).scratch.read x = (s.die d).scratch.read x)) ∧
  calls 0x140 (fun c => let i := Instr.requeue core
    (s.findLaunch c.vi (c.arg 0) = none → said c i s s (-3) []) ∧
    ∀ li, s.findLaunch c.vi (c.arg 0) = some li → let l := s.launch li
      ((∀ b ∈ l.blocks, (s.block b).lin = c.arg 1 → (s.block b).st ≠ .reported) → said c i s s (-3) []) ∧
      ∀ b ∈ l.blocks, b < s.blocks.length → (s.block b).st = .reported → (s.block b).lin = c.arg 1 →
        (∀ x ∈ l.blocks, (s.block x).lin = (s.block b).lin → x = b) → said c i s
          { s with blocks := s.blocks.set b { s.block b with st := .unstarted, requeued := some s.tick } } 0 []) ∧
  calls 0x112 (fun c => let i := Instr.kernelFind core
    (∀ u, procName s c.proc s.longestName (c.arg 1) = (u, none) → exec i s = .next u) ∧
    ∀ u name, procName s c.proc s.longestName (c.arg 1) = (u, some name) →
      ((∀ k ∈ u.kernels, k.live = true → k.vi = c.vi → k.bundle = c.arg 0 → k.name ≠ name) → said c i u u (-3) []) ∧
      ∀ k, u.kernels.find? (fun k => k.live && k.vi == c.vi && k.bundle == c.arg 0 && k.name == name) = some k →
        said c i u u k.index []) ∧
  calls 0x110 (fun c => let i := Instr.bundleLoad core
    (∀ u, procRead s c.proc (c.arg 0) (c.arg 1) = (u, none) → exec i s = .next u) ∧
    ∀ u bs, procRead s c.proc (c.arg 0) (c.arg 1) = (u, some bs) →
      ((∀ b, parseBundle bs = some b → b.eMachine ≠ 243 ∨ b.eType ≠ 3 ∨ u.prepare c.vi b = none ∨ u.freeWindow c.asid = none) →
        said c i u u (-1) []) ∧
      ∀ b l w, parseBundle bs = some b → u.prepare c.vi b = some l → u.freeWindow c.asid = some w → ∃ t bn, exec i s = .next t ∧
        t.posts = u.posts ++ [.ret c.vi u.bundles.length []] ∧ t.bundles = u.bundles ++ [bn] ∧ bn.vi = c.vi ∧ bn.asid = c.asid ∧
        bn.live = true ∧ bn.window = w ∧ bn.code = l.codes ∧ bn.digest = Config.sha256 bs ∧
        t.kernels.take u.kernels.length = u.kernels ∧ t.kernels.length = u.kernels.length + l.kdescs.length ∧
        (∀ j k, l.kdescs[j]? = some k → let x := t.kernel (u.kernels.length + j)
          x.vi = c.vi ∧ x.bundle = u.bundles.length ∧ x.index = j ∧ x.name = k.name ∧ x.live = true ∧ x.asid = c.asid ∧
          x.code = [u.windowBase 0 w + k.entry, u.windowBase 1 w + k.entry] ∧ x.codelen = k.codelen ∧ x.hbase = k.hbase ∧
          x.shared = k.shared ∧ x.spill = k.spill ∧ x.vregs = k.vregs ∧ x.args = k.args ∧ x.flags = k.flags) ∧
        (u.dies.length = 2 → l.images = [] → ∀ d < 2,
          let frame := Config.codeFrame d u.bundles.length % 512 * 2 ^ 30
          let code := l.codes.getD d []
          (t.die d).scratch = (u.die d).scratch ∧ (t.die d).raf.head? = some (c.asid, w, codeRegion frame) ∧
          (code.length ≤ 2 ^ 30 - 8192 → ∀ x, x < frame ∨ frame + 2 ^ 30 ≤ x ∨ x < frame + code.length →
            (t.die d).hbm.read x = if frame ≤ x ∧ x < frame + code.length then code.getD (x - frame) 0 else (u.die d).hbm.read x) ∧
          ((l.idx.getD d []).Nodup → (l.idx.getD d []).length = (l.templates.getD d []).length →
            ∀ j < (l.templates.getD d []).length,
              (t.die d).templates[(l.idx.getD d []).getD j 0]? = (l.templates.getD d [])[j]?))) ∧
  calls 0x111 (fun c => let i := Instr.bundleUnload core
    let h := c.arg 0
    (s.liveBundle c.vi h = none → said c i s s (-3) []) ∧
    ∀ b, s.liveBundle c.vi h = some b →
      let uses (l : Launch) : Prop := l.st = .queued ∧ (s.kernel l.kernel).vi = c.vi ∧ (s.kernel l.kernel).bundle = h
      ((∃ l ∈ s.launches, uses l) → said c i s s (-4) []) ∧
      ((∀ l ∈ s.launches, ¬ uses l) → s.dies.length = 2 → ∃ t, exec i s = .next t ∧ SameMem s t ∧
        t = { s with bundles := s.bundles.set h { b with live := false }, kernels := t.kernels, dies := t.dies
                     threads := s.threads.modify c.thread fun y => y.returns 0 []
                     posts := s.posts ++ [.ret c.vi 0 []] } ∧
        t.kernels = s.kernels.map (fun k => if k.vi = c.vi ∧ k.bundle = h then { k with live := false } else k) ∧
        ∀ d < 2, (∀ e, e ∈ (t.die d).raf ↔ e ∈ (s.die d).raf ∧ ¬ (e.1 = b.asid ∧ e.2.1 = b.window)) ∧
          ∀ l ∈ (t.die d).tlb, ∀ e ∈ l, ¬ (e.asid = b.asid ∧ e.win = b.window)))

/-! ### Mappings -/

/-- R3, R272, R273, R275, R276, R278 to R280, R311, R316: a map or unmap call for an ASID that the interface holds live
invalidates the translations of its window and writes or clears its entry, whose reserved bits stay zero; a discard call
sets DSC on the leaf of a whole page and drops its translation; an invalidation drops one; each waits for moves whose
writes are due. An eviction takes the pages of one declared range out of the HBM, their V bits cleared, to host memory, a
discarded page as zeros. Where the calls' arguments stand is the model's choice, log 68; where host memory keeps a page,
log 69. -/
def Obligations.MappingActs : Prop := ∀ (s : State) (core die : Nat), s.memOk → die < s.dies.length →
  let d := s.die die
  let calls (num : Nat) (does : Call → Prop) : Prop := ∀ c, s.callOf core num = some c → does c
  let back (c : Call) (x : Int) : State := { s with
    threads := s.threads.modify c.thread fun y => y.returns x [], posts := s.posts ++ [.ret c.vi x []] }
  let said (c : Call) (i : Instr) (x : Int) : Prop := ∃ t, exec i s = .next t ∧ SameMem s t ∧ t = back c x
  let setRegion (c : Call) (i : Instr) (win asid : Nat) (new : List (Nat × Nat × BitVec 128)) : Prop :=
    ∃ t, exec i s = .next t ∧ SameMem s t ∧ t = { back c 0 with dies := s.dies.set die (t.die die) } ∧
      t.die die = { d with raf := (t.die die).raf, tlb := d.tlb.map fun l => l.filter fun x => !(x.asid == asid && x.win == win) } ∧
      ∀ x, x ∈ (t.die die).raf ↔ x ∈ new ∨ (x ∈ d.raf ∧ ¬ (x.1 = asid ∧ x.2.1 = win))
  let window (c : Call) (i : Instr) (asid : Nat) (new : List (Nat × Nat × BitVec 128)) : Prop :=
    (2 ≤ c.arg 0 / 64 → said c i (-1)) ∧
    (c.arg 0 / 64 < 2 → asid ∉ s.liveAsids c.vi → said c i (-5)) ∧
    (c.arg 0 / 64 = die → die < 2 → asid ∈ s.liveAsids c.vi → (s.writesDue die = true → exec i s = .next s) ∧
      (s.writesDue die = false → setRegion c i (c.arg 0 % 64) asid new))
  let leafNow (t : State) (k a : Nat) (v x : Nat) : Prop := (t.die k).hbm.read x =
    if a ≤ x ∧ x < a + 8 then (natLe 8 v).getD (x - a) 0 else (s.die k).hbm.read x
  (∀ vi a, a ∈ s.liveAsids vi ↔ ∃ p ∈ s.procs, p.alive = true ∧ p.vi = vi ∧ p.asid = a) ∧
  calls 0x120 (fun c => window c (.map core) (c.arg 3) [(c.arg 3, c.arg 0 % 64,
    BitVec.ofNat 128 (c.arg 1 + c.arg 2 * 2 ^ 64) &&& 0xFFFFFFFFFFFFFFFFFFFFC000000003FD)]) ∧
  calls 0x121 (fun c => window c (.unmap core) (c.arg 1) []) ∧
  calls 0x122 (fun c => let i := Instr.discard core
    let va := c.arg 0
    let len := c.arg 1
    let o := (owner va).2
    ((owner va).1 ≠ s.moduleNo ∨ s.mayName c.vi (owner va) = false ∨ 2 ^ 57 ≤ va ∨ s.regionOf o c.asid va = none ∨ len = 0 →
      said c i (-1)) ∧
    ∀ r, (owner va).1 = s.moduleNo → s.mayName c.vi (owner va) = true → va < 2 ^ 57 → s.regionOf o c.asid va = some r →
      let size := 2 ^ pageBits r
      let page := (va + size - 1) / size * size
      let fits : Prop := r.getLsbD 6 = true ∧ 0 < len ∧ (offsetOf va + len - 1) / 4096 ≤ rafLimit r
      (¬ fits → said c i (-1)) ∧ (fits → s.writesDue o = true → exec i s = .next s) ∧
      (fits → s.writesDue o = false → (va + len < page + size → said c i 0) ∧
        ∀ a, page + size ≤ va + len → va + len < page + 2 * size → s.leafOf o c.asid page = some a → o < s.dies.length →
          let x := leNat ((s.die o).hbm.readN a 8)
          entryOk x = true → ∃ t, exec i s = .next t ∧ t = { back c 0 with
            dies := s.dies.set o (t.die o)
            evicted := s.evicted.filter fun y => !(y.1 == c.asid && y.2.1 == page) } ∧
          (∀ y, leafNow t o a (if x / 4 % 2 = 1 then x else x + 4) y) ∧
          t.die o = { s.die o with
            hbm := (t.die o).hbm, tlb := (s.die o).tlb.map fun l => l.filter fun y => !(y.asid == c.asid && y.leaf == a) })) ∧
  (∀ site k l y, d.tlb[site]? = some l → l[k]? = some y →
    ((∀ a ∈ s.accs, a.kind = .engine → a.st = .module_ → a.dest = .main → a.die = die →
        ∀ x ∈ a.lanes, x.addr < y.frame ∨ y.frame + 2 ^ y.size ≤ x.addr) →
      ∃ t, exec (.tlbInvalidate die site k) s = .next t ∧ SameMem s t ∧ t = { s with
        dies := s.dies.set die { d with tlb := d.tlb.set site (l.eraseIdx k) } }) ∧
    ∀ a ∈ s.accs, a.kind = .engine → a.st = .module_ → a.dest = .main → a.die = die →
      ∀ x ∈ a.lanes, y.frame ≤ x.addr → x.addr < y.frame + 2 ^ y.size → exec (.tlbInvalidate die site k) s = .next s) ∧
  (s.writesDue 0 = true ∨ s.writesDue 1 = true → exec (.eviction die) s = .next s) ∧
  ∀ r k page size leaf, s.writesDue 0 = false → s.writesDue 1 = false → s.victim die = some r → s.dies.length = 2 → k < 2 →
    s.residentPages k r = [(page, size, leaf)] → s.residentPages (1 - k) r = [] →
    let x := leNat ((s.die k).hbm.readN leaf 8)
    let host := r.asid * 2 ^ 57 + page
    ∃ t, exec (.eviction die) s = .next t ∧
      t = { s with dies := s.dies.set k (t.die k), hostMem := t.hostMem, evicted := t.evicted } ∧
      (∀ y, leafNow t k leaf (x - 1) y) ∧
      (∀ y, t.hostMem.read y = if host ≤ y ∧ y < host + size then
          if x / 4 % 2 = 1 then 0 else (s.die k).hbm.read (x / 4096 % 2 ^ 27 * 4096 + (y - host))
        else s.hostMem.read y) ∧
      (∀ y ∈ (t.die k).tlb, ∀ z ∈ y, ¬ (z.asid = r.asid ∧ z.leaf = leaf)) ∧
      t.hostPage r.asid page = some host

/-! ### What reaches the module from outside -/

/-- R3, R8, R9, R10, R145, R149, R196, R197, R199, R227, R238, R261, R263, R279, R283, R286, R295, R302, R309, R310, R313,
R314, R315: a peer's request for memory here is translated at its owner, carried out and answered, or answered with why
not; a system core reads and writes the memory of the process that it runs, HBM by main-memory addresses that the owner
die's sites translate; the host reads and writes its memory; a link that is down leaves the ports; an error marks what it
struck; a register write keeps the bits that are not reserved, and one of a read-only register has no effect. Model's
choices: which die holds a trace buffer (log 37), which position a wave slot has in it (log 18), whose DZREAD counts what a
peer reads of a discarded page (log 70), and how a system core comes to name HBM (log 86). -/
def Obligations.OutsideActs : Prop := ∀ (s : State), s.memOk →
  (∀ asid va inc note failed bs n, let o := (owner va).2
    (owner va).1 = s.moduleNo → o < s.dies.length →
    let answers (i : Instr) (want : Want) (does : State → Nat → Bool → State → Prop) : Prop :=
      ∀ u x, translate s o asid va want = (u, x) → ∃ t, exec i s = .next t ∧ match x with
        | .frame pa dsc => does u pa dsc t
        | .unmapped => t = { u with posts := u.posts ++ [.answer .unmapped []] }
        | .perm => t = { u with posts := u.posts ++ [.answer .perm []] }
        | .miss => t.posts.getLast? = some (.answer .wait []) ∧ t.faultPosted o asid va = true ∧ SameMem s t
    let stored (u t : State) (ws : List LaneAcc) : Prop :=
      t = { u with dies := u.dies.set o { u.die o with hbm := (t.die o).hbm, marked := (t.die o).marked }
                   posts := u.posts ++ [.answer .ok []] } ∧
      (∀ y, y ∈ (t.die o).marked ↔ y ∈ (s.die o).marked ∧
        ¬ ∃ l, y.1 = .main o l ∧ ∃ w ∈ ws, w.addr ≤ 64 * l ∧ 64 * l + 64 ≤ w.addr + w.data.length) ∧
      ∀ x, (t.die o).hbm.read x = (lastStore id ws x).getD ((s.die o).hbm.read x)
    (bs ≠ [] → va % 64 + bs.length ≤ 64 → answers (.fabricRequest (.write asid va bs)) .write fun u pa dsc t =>
      dsc = false → stored u t [{ lane := 0, addr := pa, data := bs }]) ∧
    (0 < n → va % 64 + n ≤ 64 → answers (.fabricRequest (.read asid va n)) .read fun u pa dsc t => let holder : Option Process := s.procs.find? fun p => p.alive && p.asid == asid;
      (dsc = false → t = { u with posts := u.posts ++ [.answer .ok ((s.die o).hbm.readN pa n)] }) ∧
      (dsc = true → holder = none → t = { u with posts := u.posts ++ [.answer .ok (List.replicate n 0)] }) ∧
      ∀ p, dsc = true → holder = some p → t = { u with
        vis := u.vis.modify p.vi fun v => { v with dzread := (v.dzread + 1) % 2 ^ 64 }
        posts := u.posts ++ [.answer .ok (List.replicate n 0)] }) ∧
    (va % 8 = 0 → answers (.fabricRequest (.counter asid va inc note failed)) .write fun u pa dsc t =>
      dsc = false → stored u t (
        let old := leNat ((s.die o).hbm.readN pa 8)
        (if note = 0 then [] else
          [{ lane := 0, addr := pa + 8, data := natLe 4 ((leNat ((s.die o).hbm.readN (pa + 8) 4) + note) % 2 ^ 32) }]) ++
        [{ lane := 0, addr := pa
           data := natLe 8 ((old % 2 ^ 63 + inc) % 2 ^ 63 + if failed || 2 ^ 63 ≤ old then 2 ^ 63 else 0) }]))) ∧
  (∀ asid va bs, (owner va).1 ≠ s.moduleNo → exec (.fabricRequest (.write asid va bs)) s = .next s) ∧
  (∀ peer tmpl n, ∃ t, exec (.fabricRequest (.accepted peer tmpl n)) s = .next t ∧ SameMem s t ∧ t = { s with peers := t.peers } ∧
    (∀ m, (peer, tmpl, m) ∈ t.peers ↔ m = Nat.max n (((s.peers.find? fun x => x.1 == peer && x.2.1 == tmpl).map (·.2.2)).getD 0)) ∧
    ∀ x, (x.1, x.2.1) ≠ (peer, tmpl) → (x ∈ t.peers ↔ x ∈ s.peers)) ∧
  (∀ ci die vi (a : Word) bs, let c := s.copy ci
    ci < s.copies.length → c.t.mode = .agather → c.st = .active → c.die = die → c.vi = vi → bs ≠ [] → a.toNat % 64 + bs.length ≤ 64 →
    c.t.dst ≤ a.toNat → a.toNat + bs.length ≤ c.t.dst + 4 * c.t.elements * c.ring.length → die < s.dies.length →
    (∀ x ∈ s.copies.take ci, x.t.mode ≠ .agather) → ∃ t, exec (.fabricRequest (.deliver die vi a bs)) s = .next t ∧
      BytesStored s t (.scratch vi die) [{ lane := 0, addr := a.toNat, data := bs }] ∧
      ∀ q, q = (a.toNat - c.t.dst) / (4 * Nat.max 1 c.t.elements) →
        t.copies = s.copies.set ci { c with
          placed := setNat c.placed q ((lookupNat c.placed q).getD 0 + bs.length), wrote := insertNat (a.toNat / 64) c.wrote }) ∧
  (∀ peer tmpl n ws, ∃ t, exec (.fabricRequest (.contribute peer tmpl n ws)) s = .next t ∧ SameMem s t ∧
    t = { s with copies := t.copies } ∧ t.copies.length = s.copies.length ∧ ∀ i, let c := s.copy i
      i < s.copies.length → t.copy i =
        if c.t.mode = .rscatter ∧ c.st = .active ∧ c.tix = tmpl ∧ c.nth = n ∧ peer ∈ c.ring then
          { c with supplied := setNat c.supplied (c.ring.idxOf peer) ws }
        else c) ∧
  (∀ core th rd va bs, s.running core = some th → bs ≠ [] → va % 64 + bs.length ≤ 64 →
    let pi := (s.thread th).proc
    let p := s.proc pi
    let n := bs.length
    let load := exec (.systemCoreAccess core (.load rd va n)) s
    let store := exec (.systemCoreAccess core (.store va bs)) s
    let loads (u : State) (x : Bytes) : Prop := ∃ t, load = .next t ∧ SameMem s t ∧ t = { u with
      threads := if n ≤ 8 then u.threads.modify th fun y => y.put rd (BitVec.ofNat 64 (leNat x)) else u.threads
      posts := u.posts ++ [.data x] }
    let after (a : Nat) (old : Memory) (x : Nat) : Byte := if a ≤ x ∧ x < a + n then bs.getD (x - a) 0 else old.read x
    let off := va % 4096
    (p.pages.lookup (va / 4096) = none →
      (2 ^ 57 ≤ va → load = .next s ∧ store = .next s) ∧
      (va < 2 ^ 57 → loads s (p.mem.readN va n) ∧ ∃ t, store = .next t ∧
        t = { s with procs := s.procs.set pi { p with mem := (t.proc pi).mem } } ∧ ∀ x, (t.proc pi).mem.read x = after va p.mem x)) ∧
    (∀ a, p.pages.lookup (va / 4096) = some (.host a) → loads s (s.hostMem.readN (a + off) n) ∧ ∃ t, store = .next t ∧
      t = { s with hostMem := t.hostMem } ∧ ∀ x, t.hostMem.read x = after (a + off) s.hostMem x) ∧
    ∀ m, p.pages.lookup (va / 4096) = some (.main m) → let o := owner (m + off)
      (o.1 ≠ s.moduleNo ∨ s.mayName p.vi o = false → load = .next s ∧ store = .next s) ∧
      (o.1 = s.moduleNo → s.mayName p.vi o = true → o.2 < s.dies.length →
        (∀ u pa, translate s o.2 p.asid (m + off) .read = (u, .frame pa false) → loads u ((s.die o.2).hbm.readN pa n)) ∧
        (∀ u pa, translate s o.2 p.asid (m + off) .write = (u, .frame pa false) → ∃ t, store = .next t ∧
          t = { u with dies := u.dies.set o.2 { u.die o.2 with hbm := (t.die o.2).hbm, marked := (t.die o.2).marked } } ∧
          ∀ x, (t.die o.2).hbm.read x = after pa (s.die o.2).hbm x) ∧
        ∀ i want, (i, want) ∈ [(Instr.systemCoreAccess core (.load rd va n), Want.read), (.systemCoreAccess core (.store va bs), .write)] →
          ∀ u, (translate s o.2 p.asid (m + off) want = (u, .miss) →
              ∃ t, exec i s = .next t ∧ t.faultPosted o.2 p.asid (m + off) = true ∧ SameMem s t ∧ t.threads = s.threads) ∧
            (translate s o.2 p.asid (m + off) want = (u, .unmapped) ∨ translate s o.2 p.asid (m + off) want = (u, .perm) →
              exec i s = .next u))) ∧
  (∀ core th, s.running core = some th → ∀ rd v pc va place value, let pi := (s.thread th).proc
    let does (a : SysAct) (t : State) : Prop := exec (.systemCoreAccess core a) s = .next t
    let goes (f : SysThread → SysThread) : State := { s with threads := s.threads.modify th f }
    does (.locn rd) (goes fun y => y.put rd (BitVec.ofNat 64 (0x11000000 + 2 * s.moduleNo))) ∧ does (.reg rd v) (goes fun y => y.put rd v) ∧
    does (.jump pc) (goes fun y => { y with pc := pc }) ∧
    (∃ t, does (.page va place) t ∧ SameMem s t ∧
      t = { s with procs := s.procs.set pi { s.proc pi with pages := (t.proc pi).pages } } ∧
      ∀ k, (t.proc pi).pages.lookup k = if k = va / 4096 then place else (s.proc pi).pages.lookup k) ∧
    ∃ t, does (.exit value) t ∧ SameMem s t ∧
      t = { s with procs := s.procs.set pi { s.proc pi with alive := false, exit := value }
                   waiters := t.waiters, sysCores := t.sysCores } ∧
      (∀ w, w ∈ t.waiters ↔ w ∈ s.waiters ∧ (s.thread w.thread).proc ≠ pi) ∧
      t.sysCores = s.sysCores.map fun (c : SysCore) => match c.thread with
        | some x => if (s.thread x).proc = pi then { c with thread := none } else c
        | none => c) ∧
  (∀ core c th pi pc, s.sysCores[core]? = some c → s.boot = 6 →
    (c.held = false → (∀ x ∈ s.sysCores, x.thread ≠ some th) → exec (.systemCoreAccess core (.run (some th))) s =
      .next { s with sysCores := s.sysCores.set core { c with thread := some th } }) ∧
    (c.held = false → exec (.systemCoreAccess core (.run none)) s =
      .next { s with sysCores := s.sysCores.set core { c with thread := none } }) ∧
    ((s.proc pi).alive = true → exec (.systemCoreAccess core (.spawn pi pc)) s = .next { s with
      threads := s.threads ++ [{ proc := pi, x := List.replicate 32 0, pc := pc, waiting := false }] })) ∧
  (∀ vi off bs n m, vi < s.vis.length → let size := (s.vi vi).desc.hdm * 2 ^ 30
    (off + bs.length ≤ size → ∃ t, exec (.cxlMemRequest vi off (some bs) m) s = .next t ∧
      t = { s with vis := s.vis.set vi { s.vi vi with hdm := (t.vi vi).hdm } } ∧
      ∀ x, (t.vi vi).hdm.read x = (lastStore id [{ lane := 0, addr := off, data := bs }] x).getD ((s.vi vi).hdm.read x)) ∧
    (size < off + bs.length → exec (.cxlMemRequest vi off (some bs) m) s = .next s) ∧
    (off + n ≤ size → exec (.cxlMemRequest vi off none n) s =
      .next { s with posts := s.posts ++ [.data ((s.vi vi).hdm.readN off n)] })) ∧
  (∀ port, ∃ t, exec (.linkDown port) s = .next t ∧ SameMem s t ∧ t = { s with ports := t.ports } ∧
    ∀ p, p ∈ t.ports ↔ p ∈ s.ports ∧ p ≠ port) ∧
  (∀ i, let hit (t : ErrTarget) (u : State) : Prop := exec (.uncorrectableError t) s = .next u ∧ SameMem s u
    (∀ w d, w < s.waves.length → ((s.wave w).reg d).isV = true → hit (.regSlot w d)
      { s with waves := s.waves.set w { s.wave w with badRegs := (d, 1) :: (s.wave w).badRegs } }) ∧
    (∀ key code die, (key, code, die) ∈ [(LineKey.shared i 0, 2, (s.block i).die), (.scratch 0 i, 3, 0),
        (.spill i 0, 3, (s.wave i).part.die), (.main 0 i, 0, 0)] → die < s.dies.length → ∃ t, hit (.line key) t ∧
      t = { s with dies := s.dies.set die { s.die die with marked := (t.die die).marked }, posts := s.posts ++ [.marked key] } ∧
      (key, code) ∈ (t.die die).marked ∧ ∀ x, x.1 ≠ key → (x ∈ (t.die die).marked ↔ x ∈ (s.die die).marked)) ∧
    ((s.acc i).wave < s.waves.length → hit (.log i) { s with
      waves := s.waves.set (s.acc i).wave
        { s.wave (s.acc i).wave with badOps := (s.acc i).op :: (s.wave (s.acc i).wave).badOps } }) ∧
    (∀ b, s.dies.length = 2 → ∀ x, (s.feltLine 0 (.scratch 0 b)).a = some x → x.valid = true → (s.feltLine 0 (.scratch 0 b)).b = none →
      ∃ t y, hit (.felt (.scratch 0 b)) t ∧ (t.feltLine 0 (.scratch 0 b)).a = some y ∧ y.valid = false ∧
        (LineKey.scratch 0 b, 5) ∈ (t.die 0).marked) ∧
    ∀ l, s.dies.length = 2 → ∃ t, hit (.watermark (.scratch 0 l)) t ∧ (t.watermark ⟨none, 0, l, 0⟩).st = .lost) ∧
  ∀ (cl die core i vi v : Nat),
    let cluster (r : HubReg) (x : ClusterState) : Prop := cl < s.clusters.length →
      exec (.registerWrite r v) s = .next { s with clusters := s.clusters.set cl x }
    let cmp (r : HubReg) (x : Comparator) : Prop := 96 * die + core < s.cores.length → i < (s.core die core).cmps.length →
      exec (.registerWrite r v) s = .next { s with
        cores := s.cores.set (96 * die + core) { s.core die core with cmps := (s.core die core).cmps.set i x } }
    let side (r : HubReg) (x : ViState) : Prop := vi < s.vis.length → exec (.registerWrite r v) s = .next { s with vis := s.vis.set vi x }
    let c := (s.core die core).cmps.getD i {}
    cluster (.stopFloor cl) { s.cluster cl with floor := Nat.min 2 (v / 4 % 4) } ∧
    (i < 64 → cluster (.weight cl i) { s.cluster cl with weightsNew := setNat (s.cluster cl).weightsNew i (v % 4096) }) ∧
    cmp (.cmpAddr die core i) { c with addr := BitVec.ofNat 32 v } ∧
    cmp (.cmpLaunch die core i) { c with launch := BitVec.ofNat 32 v } ∧
    cmp (.cmpCtl die core i) { c with
      ctl := BitVec.ofNat 32 v &&& if v / 16 % 8 = 7 then 0xC0000063 else 0xC0000073 } ∧
    (∀ l, (s.vi vi).regions[die]? = some l → side (.region vi die i) { s.vi vi with
      regions := (s.vi vi).regions.set die (l.set i (BitVec.ofNat 32 v &&& 0x80FFFFFF)) }) ∧
    side (.raceRead vi) { s.vi vi with raceR := v } ∧
    (v = 0 → (s.vi vi).msgState = 2 → side (.msgState vi) { s.vi vi with msgState := 0 }) ∧
    (v = 1 → (s.vi vi).msgState ≠ 0 → side (.msgState vi) { s.vi vi with msgIgnored := (s.vi vi).msgIgnored + 1 }) ∧
    (i < 1024 → side (.route vi i) { s.vi vi with
      routes := setNat (s.vi vi).routes i
        ((List.range 4).filterMap fun k => if v / 2 ^ (8 * k + 7) % 2 = 1 then some (v / 2 ^ (8 * k) % 128) else none) }) ∧
    exec (.registerWrite .attached v) s = .next { s with attached := decide (v ≠ 0) } ∧
    (∃ t, exec (.registerWrite (.brkPolicy i) v) s = .next t ∧ t = { s with brkGo := t.brkGo } ∧ SameMem s t ∧
      (i ∈ t.brkGo ↔ v ≠ 0) ∧ ∀ j, j ≠ i → (j ∈ t.brkGo ↔ j ∈ s.brkGo)) ∧
    exec (.registerWrite .readOnly v) s = .next s ∧
    ∀ base, vi < 64 → (∀ j, j < 64 → ⟨die, core⟩ ∈ (s.vi j).desc.cores → j = vi) → ⟨die, core⟩ ∈ (s.vi vi).desc.cores →
      (s.vi vi).traceBase = some base → i < 128 → die < s.dies.length →
      let at_ := base.toNat + (s.vi vi).tbsize * (128 * (s.owned vi die).idxOf core + i) + 4
      ((List.range 4).map fun j => s.scratchPhys vi die (at_ + j)).Nodup →
      ∃ t, exec (.registerWrite (.traceRead die core i) v) s = .next t ∧
        BytesStored s t (.scratch vi die) [{ lane := 0, addr := at_, data := natLe 4 v }]

/-! ### Messages, boot and loss of power -/

/-- R156, R266, R271, R273, R310, R311, R315, R316, R321 to R324: a message posted in an idle window is held with its type,
length and fields; it is served at once after boot, and before it waits, but for the physical function's STATUS and ATTEST;
one posted in a busy window is counted. START makes a process of the bundle in host memory, with its memory and a thread at
its entry. A report uses up its leaf before it is signed. A descriptor changes while no process of its interface exists.
Power-up takes the steps of R321, from the selected image slot that verifies; an abrupt loss leaves what the Felt layers,
the flash and the host hold. The order of a message's fields is the model's choice (log 71), and so are which ASID a process
gets (log 87) and where its own memory lies (log 86). -/
def Obligations.MessagesAndBoot : Prop := ∀ (s : State) (vi addr len asid proc sig target : Nat) (nonce : Bytes), vi < s.vis.length →
  let v := s.vi vi
  let word (x : Int) : Bytes := natLe 4 (x % 2 ^ 32).toNat
  let ask (typ : Nat) (fields : Bytes) : Bytes := natLe 4 typ ++ natLe 4 fields.length ++ fields
  let start := (Instr.start vi addr len asid, ask 1 (natLe 8 addr ++ natLe 8 len))
  let signal := (Instr.signal vi proc sig, ask 2 (natLe 4 proc ++ natLe 4 sig))
  let status := (Instr.status vi proc, ask 3 (natLe 4 proc))
  let attest := (Instr.attest vi target nonce, ask 4 (nonce ++ natLe 4 target))
  let recovered := (Instr.recovered vi, ask 5 [])
  let answered (m : Bytes) (u : State) (x : Int) (more : Bytes) : State := { u with
    vis := s.vis.set vi { v with msgState := 2, msgWait := none, request := m, reply := word x ++ more }, posts := s.posts ++ [.msix vi] }
  let replies (m : Instr × Bytes) (u : State) (x : Int) (more : Bytes) : Prop :=
    ∃ t, exec m.1 s = .next t ∧ SameMem u t ∧ t = answered m.2 u x more
  let all := [start, signal, status, attest, recovered]
  let mine (p : Process) : Prop := p.vi = vi ∨ vi = 64
  (v.msgState ≠ 0 → ∀ m ∈ all, ∃ t, exec m.1 s = .next t ∧ SameMem s t ∧
    t = { s with vis := s.vis.set vi { v with msgIgnored := v.msgIgnored + 1 } }) ∧
  (v.msgState = 0 → s.boot ≠ 6 → (∀ m ∈ all, vi ≠ 64 ∨ s.boot < 2 ∨ m = start ∨ m = signal ∨ m = recovered →
    ∃ t, exec m.1 s = .next t ∧ SameMem s t ∧
      t = { s with vis := s.vis.set vi { v with msgState := 1, msgWait := some m.1, request := m.2 } })) ∧
  (v.msgState = 0 → s.boot = 6 →
    (let bs := s.hostMem.readN addr len
    let good (b : BundleImage) : Prop := parseBundle bs = some b ∧ b.eMachine = 243 ∧ b.eType = 3;
    let free : Prop := (∃ p ∈ s.procs, p.alive = true ∧ p.vi = vi ∧ p.asid = asid) ∨
      ((∀ p ∈ s.procs, p.alive = true → p.asid ≠ asid) ∧ (s.liveAsids vi).length < v.desc.asids);
    (v.desc.cores = [] ∨ (∀ b, ¬ good b) → replies start s (-1) []) ∧
    ∀ b, good b → v.desc.cores ≠ [] → (¬ free → replies start s (-2) []) ∧
      (free → ∃ t, exec start.1 s = .next t ∧
        t = answered start.2 { s with
          procs := s.procs ++ [{ vi := vi, asid := asid, alive := true, exit := 0, signals := [], bundle := bs
                                 mem := (t.proc s.procs.length).mem, pages := [] }]
          threads := s.threads ++ [{ proc := s.procs.length, x := List.replicate 32 0, pc := BitVec.ofNat 64 b.entry
                                     waiting := false }] } 0 (natLe 4 s.procs.length) ∧
        ∀ x, (t.proc s.procs.length).mem.read x = (lastStore id (b.segments.map fun g =>
          { lane := 0, addr := g.va, data := g.bytes.take g.size }) x).getD 0)) ∧
    (s.procOf vi proc = none → replies signal s (-3) []) ∧
    (∀ p, s.procs[proc]? = some p → mine p →
      replies signal { s with procs := s.procs.set proc { p with signals := p.signals ++ [sig] } } 0 []) ∧
    ∃ bs, replies recovered s 0 bs ∧ ∀ b, s.blocks = [b] →
      bs = if b.st = .reported ∧ ((s.launch b.launch).vi = vi ∨ vi = 64) then natLe 4 (s.launch b.launch).number ++ natLe 4 b.lin
        else []) ∧
  (v.msgState = 0 → (s.boot = 6 ∨ (vi = 64 ∧ 2 ≤ s.boot)) →
    (s.procOf vi proc = none → replies status s (-3) []) ∧
    (∀ p, s.procs[proc]? = some p → mine p →
      replies status s 0 (natLe 4 (if p.alive then 1 else 0) ++ natLe 4 p.exit)) ∧
    ((target ≠ vi ∧ vi ≠ 64) ∨ Config.hssLeaves ≤ s.leaf.value → replies attest s (-5) []) ∧
    (target = vi ∨ vi = 64 → s.leaf.value < Config.hssLeaves → ∃ k r, k.value = s.leaf.value + 1 ∧
      replies attest { s with leaf := k } 0 (r ++ Config.hssSign s.leaf.value r) ∧ r.take nonce.length = nonce)) ∧
  (∀ d, 4 ≤ s.boot → s.descOk vi d = true → ((∀ p ∈ s.procs, p.vi = vi → p.alive = false) →
      exec (.resourceDescriptorRequest vi d) s = .next { s with vis := s.vis.set vi { v with desc := d } }) ∧
    ∀ p ∈ s.procs, p.vi = vi → p.alive = true → exec (.resourceDescriptorRequest vi d) s = .next s) ∧
  (∀ n, (∃ t, exec (.selectSlot n) s = .next t ∧ t = { s with slotSel := t.slotSel } ∧ t.slotSel.value = n) ∧
    exec (.raiseRollbackMinimum n) s = .next { s with rollbackMin := Nat.max s.rollbackMin n }) ∧
  (∀ i, s.slotOk i = true ↔ ∃ x, s.flash[i]? = some x ∧ Config.bootVerify x = true ∧ x.digests = x.content.map Config.sha256 ∧
    s.rollbackMin ≤ x.rollback) ∧
  (s.boot = 0 →
    let sel := s.slotSel.value
    let core0 (h : Bool) : State := { s with sysCores := s.sysCores.modify 0 fun c => { c with held := h } }
    (s.slotOk sel = true → exec .powerUp s = .next { core0 false with boot := 1, bootSlot := some sel }) ∧
    (s.slotOk sel = false → s.slotOk (1 - sel) = true →
      exec .powerUp s = .next { core0 false with boot := 1, bootSlot := some (1 - sel) }) ∧
    (s.slotOk sel = false → s.slotOk (1 - sel) = false → exec .powerUp s = .next { core0 true with posts := s.posts ++ [.bootFail] })) ∧
  (s.boot = 1 → let w := (s.vi 64).msgWait
    ((∀ p, w ≠ some (.status 64 p)) → (∀ x y, w ≠ some (.attest 64 x y)) → (∀ x p, w = some (.status x p) → x = 64) →
      (∀ x y z, w = some (.attest x y z) → x = 64) → exec .powerUp s = .next { s with boot := 2 }) ∧
    ∀ p, vi = 64 → w = some (.status 64 proc) → s.procs[proc]? = some p →
      exec .powerUp s = .next (answered v.request { s with boot := 2 } 0 (natLe 4 (if p.alive then 1 else 0) ++ natLe 4 p.exit))) ∧
  (s.boot = 3 → exec .powerUp s = .next { s with boot := 4, moduleNo := Config.moduleNo % 1024 }) ∧
  (s.powerLost = false → (s.boot = 2 → exec .powerUp s = .next { s with boot := 3 }) ∧
    (s.boot = 4 → exec .powerUp s = .next { s with boot := 5 })) ∧
  (s.boot = 5 → (∀ x ∈ s.vis, x.msgWait = none) → exec .powerUp s = .next { s with boot := 6 }) ∧
  (s.powerLost = true → s.boot = 2 → ∃ t, exec .powerUp s = .next t ∧ t.boot = 3 ∧ t.powerLost = true ∧
    t.dies.length = s.dies.length ∧ ∀ d < 2, d < s.dies.length → (t.die d).wm = [] ∧ (t.die d).wmLost = true ∧ (t.die d).hbm = (s.die d).hbm ∧
      (t.die d).felt = (s.die d).felt ∧ (t.die d).unwritten = true ∧ ((s.die d).felt = [] → (t.die d).sound = [])) ∧
  (s.powerLost = true → s.boot = 4 → ∃ t, exec .powerUp s = .next t ∧ t.boot = 5 ∧ t.powerLost = false ∧
    ∀ b, s.blocks = [b] → b.st = .saved → b.cancelled = false → b.waves = [] →
      let idem : Prop := (s.kernel (s.launch b.launch).kernel).flags % 2 = 1
      (b.committed = 0 → idem → (t.block 0).st = .unstarted ∧ t.posts = s.posts) ∧
      (b.committed = 0 → ¬ idem → (t.block 0).st = .reported ∧ t.posts = s.posts ++ [.reported 0]) ∧
      ∀ r, b.committed ≠ 0 → s.ckptRecord b.die 0 = some r → t.posts = s.posts ∧ t.block 0 = { r with
        st := .saved, shared := b.shared, wmLost := true, wm := [], recs := [], absent := [], ckpt := [], ckptSeq := none
        committed := b.committed, firstPlaced := some 0, savedAt := 0, die := b.die }) ∧
  (∃ t, exec (.abruptLoss none) s = .next t ∧ t.boot = 0 ∧ t.powerLost = true ∧ t.flash = s.flash ∧ t.slotSel = s.slotSel ∧
    t.rollbackMin = s.rollbackMin ∧ t.leaf = s.leaf ∧ t.hostMem = s.hostMem ∧ t.bundles = s.bundles ∧ t.kernels = s.kernels ∧
    t.posts = s.posts ∧ t.lease = none ∧ t.procs = s.procs ∧ t.evicted = s.evicted ∧
    t.threads = s.threads.map (fun y => { y with waiting := false }) ∧ t.waiters = [] ∧
    (∀ c ∈ t.sysCores, c.thread = none) ∧ (∀ c ∈ t.copies, c.st = .done ∧ c.rlocks = [] ∧ c.wlocks = []) ∧
    (∀ d < s.dies.length, (t.die d).felt = (s.die d).felt ∧ (t.die d).templates = (s.die d).templates ∧ (t.die d).persist = [] ∧
      (t.die d).absent = [] ∧ (t.die d).tlb = [[], [], [], []] ∧ (t.die d).raf = [] ∧ ∀ a, (t.die d).hbm.read a = 0 ∧ (t.die d).scratch.read a = 0) ∧
    (∀ b < s.blocks.length, (s.block b).st = .placed → (t.block b).st = .saved ∧ (t.block b).shared = [] ∧
      (t.block b).committed = (s.block b).committed) ∧
    ∀ w < s.waves.length, (s.wave w).ended = false → (t.wave w).spill = [] ∧ (t.wave w).saved = true) ∧
  ∀ torn, ∃ t, exec (.abruptLoss (some torn)) s = .next t ∧ t.boot = 0 ∧ t.powerLost = true ∧
    t.leaf.value = s.leaf.value ∧ t.slotSel.value = s.slotSel.value ∧
    ∀ d < s.dies.length, (t.die d).persist = [] ∧ ∀ a, (t.die d).hbm.read a = 0

/-! ### Races -/

/-- R255 to R258, R260 to R262: the check of an access against a recorded one goes through the steps of R256. A load, a
store, an atomic or a copy at its acceptance is checked at each granule it touches, here one: under mode off a write leaves
its watermark LOST, a read leaves it as it was, and nothing is counted; under report and fault the watermark then holds the
access as R257 says and the outcome is counted; a RACE under report writes one 64 B record, or is dropped and counted, and
under fault it traps with its code and changes no watermark. A load that takes its bytes from a store in a buffer is checked
against that store. -/
def Obligations.RacesAct : Prop := ∀ (s : State) (ai : Nat), s.memOk → ai < s.accs.length →
  let le (x y : Nat) : Prop := (y + 2 ^ 22 - x % 2 ^ 22) % 2 ^ 22 < 2 ^ 21
  let a := s.acc ai
  let o := s.op a.op
  let w := s.wave a.wave
  let h := s.homeOf a.wave a.space
  let one (i : Instr) (mode : RaceMode) (vi die : Nat) (p : Party) (writes sync split : Bool) (gen : Nat) (g : Granule)
      (wst : WmState) (wy : Recorded) (head : Nat) (pc lanes : Word) (num lin idx now : Nat) : Prop :=
    let m := s.watermark g
    let v := s.vi vi
    let outW := s.check die g.own p sync false wst wy
    let outR := s.check die g.own p sync (m.rdr == 0xFFFFF) m.st m.read
    let race : Prop := outW = .race ∨ (writes = true ∧ outR = .race)
    let unknown : Prop := ¬ race ∧ (outW = .unknown ∨ (writes = true ∧ outR = .unknown))
    ∀ code y, (writes = false → code = 1 ∧ y = wy) → (writes = true → outW = .race → code = 3 ∧ y = wy) →
      (writes = true → outW ≠ .race → code = 2 ∧ y = m.read) → ∃ t, exec i s = .next t ∧
    let marks (x : Watermark) : Prop := ∀ k, t.watermark k =
      if k.own = g.own ∧ k.g = g.g ∧ (k.own = none → k.die = g.die) then x else s.watermark k
    let counts (x : ViState) : Prop := t.vis = s.vis.set vi x
    (mode = .off → marks (if writes then { m with st := .lost } else m) ∧ t.vis = s.vis) ∧
    (mode ≠ .off → ¬ (mode = .fault ∧ race) →
      (∃ x, marks x ∧
        (writes = true → x = { m with wid := p.rid, wclk := p.clk, wgen := gen % 2 ^ 19, wspl := split
                                      st := if sync then .sync else .plain, rdr := 0xFFFFF }) ∧
        (writes = false → m.st = .lost → x = m) ∧
        (writes = false → m.st ≠ .lost → m.rdr = 0xFFFFF ∨ m.rdr = p.rid ∨ outR = .ordered →
          x = { m with rdr := p.rid, rclk := p.clk, rgen := gen % 2 ^ 19, rspl := split, rsyn := sync }) ∧
        (writes = false → m.st ≠ .lost → m.rdr ≠ 0xFFFFF → m.rdr ≠ p.rid → outR ≠ .ordered →
          x = { m with rdr := 0xFFFFE, rclk := x.rclk, rgen := gen % 2 ^ 19, rspl := m.rspl || split, rsyn := m.rsyn && sync } ∧
          (p.copy = true → x.rclk = 0x3FFFFF) ∧ (x.rclk = p.handle ∨ x.rclk = 0x3FFFFF) ∧
          (p.copy = false → g.own = some p.blk → p.handle = (s.block p.blk).handle →
            (m.rdr % 2 ^ 15 < 12288 → x.rclk = p.handle) ∧ (m.rdr = 0xFFFFE → m.rclk ≠ p.handle → x.rclk = 0x3FFFFF)))) ∧
      (¬ race → ¬ unknown → t.vis = s.vis) ∧ (unknown → counts { v with unkcnt := (v.unkcnt + 1) % 2 ^ 64 }) ∧
      (race → let raced := { v with racecnt := (v.racecnt + 1) % 2 ^ 64 }
        (v.raceBase = none ∨ v.rblen = 0 ∨ v.raceR + v.rblen ≤ v.raceW → counts { raced with dropcnt := (v.dropcnt + 1) % 2 ^ 64 }) ∧
        ∀ base, v.raceBase = some base → 0 < v.rblen → v.raceW < v.raceR + v.rblen → vi < s.vis.length →
          counts { raced with raceW := v.raceW + 1 } ∧
          let at_ := base.toNat + 64 * (v.raceW % v.rblen)
          (die < s.dies.length → w.trace.on = false → g.own ≠ none → ((List.range 64).map fun j => s.scratchPhys vi die (at_ + j)).Nodup →
            ∀ j < 64, t.homeRead (.scratch vi die) (at_ + j) = (natLe 4 (code + head) ++ natLe 4 g.addr ++ wordLe pc ++
              wordLe lanes ++ natLe 4 p.rid ++ natLe 4 p.clk ++ natLe 4 y.id ++ natLe 4 y.clk ++ natLe 8 s.tick ++ natLe 4 num ++
              natLe 4 lin ++ natLe 4 idx ++ natLe 4 now).getD j 0))) ∧
    (mode = .fault → race → marks m ∧ counts { v with racecnt := (v.racecnt + 1) % 2 ^ 64 } ∧
      (w.ended = false → w.trapMode = false → w.trapHalt = false → w.trapDue = false → s.gatedCore a.wave = false →
        (t.acc ai).st = .trapped ∧
        (w.halted = false → w.exited = false → a.wave < s.waves.length → ∀ base, s.handler a.wave = some base →
          let sb := (t.wave a.wave).sb;
          (t.wave a.wave).trapMode = true ∧ (t.wave a.wave).pc = BitVec.ofNat 32 (base + 0x40 * TrapClass.race.code) ∧
          (sb.getD 0 0).toNat % 2 ^ 16 = code * 256 + TrapClass.race.code ∧ sb.getD 1 0 = pc ∧ sb.getD 3 0 = lanes ∧
          sb.getD 10 0 = BitVec.ofNat 32 y.id ∧ sb.getD 11 0 = BitVec.ofNat 32 y.clk ∧ sb.getD 12 0 = BitVec.ofNat 32 p.clk ∧
          sb.getD 13 0 = BitVec.ofNat 32 g.addr)))
  let lanes : Word := maskOf fun i => a.lanes.any fun x => x.lane == i
  let wave (i : Instr) (writes sync : Bool) (g : Granule) (st : WmState) (y : Recorded) : Prop :=
    one i o.race (s.waveLaunch a.wave).vi w.part.die (s.waveParty a.wave a.clk) writes sync a.split a.gen g st y
      (if g.own = none then 512 else 0) o.pc lanes (s.waveLaunch a.wave).number (s.waveBlock a.wave).lin w.idx (s.waveBlock a.wave).gen
  (∀ die own p sync absent st y, let out := s.check die own p sync absent st y
    let bar := s.barrierOrder die own p y
    let known : Prop := y.id ≠ 0xFFFFE ∧ ∃ k, knowClock p.knows.know y.id = some k ∧ le y.clk k
    let prior : Prop := y.id ≠ 0xFFFFE ∧ y.id / 2 ^ 15 ≠ p.rid / 2 ^ 15 ∧ bit p.anc (y.id / 2 ^ 15) = true
    let before : Prop := (sync = true ∧ y.sync = true) ∨ (y.id = p.rid ∧ le p.clk0 y.clk) ∨ prior ∨ bar = some true ∨ known
    let open_ : Prop := p.knows.lossy = true ∨ bar = none ∨ y.id = 0xFFFFE ∨ ¬ le y.clk (s.shownClock die y.id)
    (absent = true ∨ st = .fresh → out = .ordered) ∧ (absent = false → st = .lost → out = .unknown) ∧
    (absent = false → st ≠ .fresh → st ≠ .lost → (before → out = .ordered) ∧ (¬ before → open_ → out = .unknown) ∧
      (¬ before → ¬ open_ → out = .race)) ∧
    (y.split = true → bar = some false) ∧ (p.copy = true → p.halo = none → bar = some false) ∧
    ∀ b, own = some b → y.split = false → p.copy = false → p.halo = none →
      let since (x : Nat) : Nat := (x + 2 ^ 19 - y.gen % 2 ^ 19) % 2 ^ 19
      let gp := if b = p.blk then some p.knows.pg else knowGen p.knows.know (s.block b).handle
      (2 ^ 18 ≤ since (s.block b).gen → bar = none) ∧ (since (s.block b).gen < 2 ^ 18 → (gp = none → bar = some false) ∧
        ∀ x, gp = some x → bar = some (decide (1 ≤ since x ∧ since x < 2 ^ 18)))) ∧
  (∀ g, s.granules a.wave a.space a.lanes = [g] → s.homeOk h = true → s.rangeCheck h a.lanes = none → s.softCheck h a.lanes = none →
    s.inTurn ai = true → let m := s.watermark g
    (a.kind = .store → s.mayLeave ai = true → a.space = .shared → wave (.leave ai) true o.rel.isSome g m.st m.write) ∧
    (a.kind = .store → a.st = .block → (∀ b ∈ s.accs, b.st = .block → (s.wave b.wave).blk = w.blk →
      b.entered < a.entered → b.overlaps a = false) → wave (.propagate ai) true o.rel.isSome g m.st m.write) ∧
    (a.kind = .load → s.mayLoad ai = true → s.allPresent ai = true → (s.seenBuf ai (a.lanes.filter fun l => 64 * (l.addr / 64) == g.addr) = none →
        wave (.load ai) false o.acq.isSome g m.st m.write) ∧
      ∀ x, s.seenBuf ai (a.lanes.filter fun l => 64 * (l.addr / 64) == g.addr) = some x →
        wave (.load ai) false o.acq.isSome g .plain ⟨(s.wave x.wave).rid, x.clk, x.gen, x.split, (s.op x.op).rel.isSome⟩) ∧
    (s.mayAtomic ai = true → s.allPresent ai = true → wave (.atomic ai) true true g m.st m.write)) ∧
  ∀ u g writes, s.startTemplate ai = some u → a.wave < s.waves.length → a.kind = .start → a.late = false → s.mayAccept ai u.scope = true →
    let f := u.fill w.args
    let c := s.newCopy ai f
    s.startRefusal a.wave f (u.holesOk w.args) = none → s.lockConflict c = none → f.mode ≠ .halo →
    (s.block w.blk).die < s.dies.length → w.part.die < s.dies.length → w.blk < s.blocks.length →
    (s.spanGranules c c.srcs, s.spanGranules c c.dsts) = (if writes = true then ([], [g]) else ([g], [])) →
    one (.accept ai) o.race c.vi c.die (s.partyOf c) writes false true (s.block w.blk).gen g (s.watermark g).st (s.watermark g).write
      (256 + if g.own = none then 512 else 0) o.pc lanes (s.launch c.launch).number (s.block w.blk).lin w.idx (s.block w.blk).gen

end
end

