-- ==== Sys2Proof/Laws/Memory.lean ====
section
/-!
SUPPORT. Memory: what is read after a write, and that every operation keeps the canonical form.
-/

namespace Sys2Proof.Machine

/-! ### The canonical form -/

theorem Memory.wfFrom_mono : ∀ (m : Memory) (lo lo' : Nat), lo' ≤ lo → Memory.wfFrom lo m = true → Memory.wfFrom lo' m = true
  | [], _, _, _, _ => rfl
  | (k, b) :: m, lo, lo', h, hw => by
    simp only [Memory.wfFrom, Bool.and_eq_true, decide_eq_true_eq] at hw ⊢
    exact ⟨⟨by omega, hw.1.2⟩, hw.2⟩

theorem Memory.wfFrom_write : ∀ (m : Memory) (lo a : Nat) (v : Byte), lo ≤ a → Memory.wfFrom lo m = true →
    Memory.wfFrom lo (m.write a v) = true
  | [], lo, a, v, h, _ => by
    unfold Memory.write
    split <;> simp_all [Memory.wfFrom]
  | (k, c) :: m, lo, a, v, h, hw => by
    have hw' := hw
    simp only [Memory.wfFrom, Bool.and_eq_true, decide_eq_true_eq] at hw
    unfold Memory.write
    split
    · split
      · exact hw'
      · simp_all [Memory.wfFrom] <;> omega
    · split
      · split
        · exact Memory.wfFrom_mono m (k + 1) lo (by omega) hw.2
        · simp_all [Memory.wfFrom]
      · have := Memory.wfFrom_write m (k + 1) a v (by omega) hw.2
        simp_all [Memory.wfFrom]

/-- A write keeps the canonical form. -/
theorem Memory.wf_write (m : Memory) (a : Nat) (v : Byte) (h : m.wf = true) : (m.write a v).wf = true :=
  Memory.wfFrom_write m 0 a v (Nat.zero_le _) h

/-- A run of writes keeps it. -/
theorem Memory.wf_writeN : ∀ (bs : Bytes) (m : Memory) (a : Nat), m.wf = true → (m.writeN a bs).wf = true
  | [], _, _, h => h
  | b :: bs, m, a, h => Memory.wf_writeN bs (m.write a b) (a + 1) (Memory.wf_write m a b h)

theorem Memory.wfFrom_filter (p : Host.Cell → Bool) : ∀ (m : Memory) (lo : Nat), Memory.wfFrom lo m = true →
    Memory.wfFrom lo (m.filter p) = true
  | [], _, _ => rfl
  | (k, b) :: m, lo, h => by
    simp only [Memory.wfFrom, Bool.and_eq_true, decide_eq_true_eq] at h
    have ih := Memory.wfFrom_filter p m (k + 1) h.2
    by_cases hp : p (k, b) = true
    · rw [List.filter_cons_of_pos hp]; simp_all [Memory.wfFrom]
    · rw [List.filter_cons_of_neg hp]; exact Memory.wfFrom_mono _ (k + 1) lo (by omega) ih

/-- Clearing a range keeps it. -/
theorem Memory.wf_clear (m : Memory) (lo hi : Nat) (h : m.wf = true) : (m.clear lo hi).wf = true :=
  Memory.wfFrom_filter _ m 0 h

theorem Memory.wf_nil : Memory.wf [] = true := rfl

/-! ### Reading after a write -/

theorem Memory.read_below : ∀ (m : Memory) (lo a : Nat), Memory.wfFrom lo m = true → a < lo → m.read a = 0
  | [], _, _, _, _ => rfl
  | (k, b) :: m, lo, a, h, ha => by
    simp only [Memory.wfFrom, Bool.and_eq_true, decide_eq_true_eq] at h
    rw [Memory.read, if_neg (by omega)]
    exact Memory.read_below m (k + 1) a h.2 (by omega)

theorem Memory.read_write_from : ∀ (m : Memory) (lo a b : Nat) (v : Byte), Memory.wfFrom lo m = true →
    (m.write a v).read b = if b = a then v else m.read b
  | [], lo, a, b, v, _ => by
    unfold Memory.write
    by_cases hv : v = 0
    · rw [if_pos hv, Memory.read]
      split
      · exact hv.symm
      · rfl
    · rw [if_neg hv, Memory.read, Memory.read]
      by_cases hb : b = a
      · rw [if_pos hb, if_pos hb.symm]
      · rw [if_neg hb, if_neg (fun e => hb e.symm)]; rfl
  | (k, c) :: m, lo, a, b, v, h => by
    simp only [Memory.wfFrom, Bool.and_eq_true, decide_eq_true_eq] at h
    unfold Memory.write
    by_cases h1 : a < k
    · by_cases hv : v = 0
      · simp only [h1, hv, if_true]
        by_cases hb : b = a
        · subst hb
          rw [if_pos rfl, Memory.read, if_neg (by omega)]
          exact Memory.read_below m (k + 1) b h.2 (by omega)
        · rw [if_neg hb]
      · simp only [h1, hv, if_true, if_false]
        rw [Memory.read]
        by_cases hb : b = a
        · subst hb; simp
        · rw [if_neg (fun e => hb e.symm), if_neg hb]
    · by_cases h2 : a = k
      · subst h2
        by_cases hv : v = 0
        · simp only [hv, if_true, Nat.lt_irrefl, if_false]
          by_cases hb : b = a
          · subst hb
            rw [if_pos rfl]
            exact Memory.read_below m (b + 1) b h.2 (by omega)
          · rw [if_neg hb, Memory.read, if_neg (by omega)]
        · simp only [hv, if_true, Nat.lt_irrefl, if_false]
          rw [Memory.read]
          by_cases hb : b = a
          · subst hb; simp
          · rw [if_neg (by omega), if_neg hb, Memory.read, if_neg (by omega)]
      · simp only [h1, h2, if_false]
        rw [Memory.read, Memory.read, Memory.read_write_from m (k + 1) a b v h.2]
        by_cases hb : b = a
        · subst hb; rw [if_neg (by omega)]; simp
        · simp [hb]

/-- Reading after a write: the byte written, and every other byte as it was. -/
theorem Memory.read_write (m : Memory) (a b : Nat) (v : Byte) (h : m.wf = true) :
    (m.write a v).read b = if b = a then v else m.read b :=
  Memory.read_write_from m 0 a b v h

/-- Reading after a run of writes. -/
theorem Memory.read_writeN : ∀ (bs : Bytes) (m : Memory) (a b : Nat), m.wf = true →
    (m.writeN a bs).read b = if a ≤ b ∧ b < a + bs.length then bs.getD (b - a) 0 else m.read b
  | [], m, a, b, _ => by
    rw [if_neg (by simp)]; rfl
  | x :: bs, m, a, b, h => by
    rw [Memory.writeN, Memory.read_writeN bs _ (a + 1) b (Memory.wf_write m a x h), Memory.read_write m a b x h]
    by_cases hb : b = a
    · subst hb
      rw [if_neg (by omega), if_pos rfl, if_pos (by simp)]
      simp
    · by_cases hr : a + 1 ≤ b ∧ b < a + 1 + bs.length
      · rw [if_pos hr, if_pos (by simp; omega)]
        obtain ⟨n, rfl⟩ : ∃ n, b = a + 1 + n := ⟨b - (a + 1), by omega⟩
        have e1 : a + 1 + n - (a + 1) = n := by omega
        have e2 : a + 1 + n - a = n + 1 := by omega
        rw [e1, e2]; rfl
      · rw [if_neg hr, if_neg hb, if_neg (by simp; omega)]

/-- Bytes outside a run of writes are as they were. -/
theorem Memory.read_writeN_outside (m : Memory) (a b : Nat) (bs : Bytes) (h : m.wf = true) (hb : b < a ∨ a + bs.length ≤ b) :
    (m.writeN a bs).read b = m.read b := by
  rw [Memory.read_writeN bs m a b h, if_neg (by omega)]

end Sys2Proof.Machine
end

