-- ==== Sys2Proof/Laws/Calm.lean ====
section
/-!
SUPPORT. What every operation of the machine keeps: the form of memories and waves, the ranges of the power settings,
the parts of the module, and what only grows; and what that relation says of each way to update the state.
-/

namespace Sys2Proof.Machine

/-- From one state to another, what was in order stays so, no leaf comes back, and the rollback minimum never falls. -/
structure Calm (s t : State) : Prop where
  mem : s.memOk → t.memOk
  waves : s.wavesOk → t.wavesOk
  power : s.powerOk → t.powerOk
  shape : s.shapeOk → t.shapeOk
  leaf : s.leaf.value ≤ t.leaf.value
  roll : s.rollbackMin ≤ t.rollbackMin

theorem Calm.refl (s : State) : Calm s s := ⟨id, id, id, id, Nat.le_refl _, Nat.le_refl _⟩

theorem Calm.trans {s t u : State} (h : Calm s t) (k : Calm t u) : Calm s u :=
  ⟨k.mem ∘ h.mem, k.waves ∘ h.waves, k.power ∘ h.power, k.shape ∘ h.shape, Nat.le_trans h.leaf k.leaf,
    Nat.le_trans h.roll k.roll⟩

/-- Only these fields count. -/
theorem Calm.congr {s t u : State} (hw : t.waves = u.waves) (hb : t.blocks = u.blocks) (hv : t.vis = u.vis)
    (hd : t.dies = u.dies) (hh : t.hostMem = u.hostMem) (hc : t.clusters = u.clusters)
    (hn : t.cores.length = u.cores.length) (hk : t.hbmStacks.length = u.hbmStacks.length) (hl : t.leaf = u.leaf)
    (hr : t.rollbackMin = u.rollbackMin) (hp : t.procs = u.procs) (hs : t.sysCores.length = u.sysCores.length)
    (h : Calm s u) : Calm s t := by
  refine h.trans ⟨fun m => ⟨?_, ?_, ?_, ?_, ?_, ?_⟩, fun m => ⟨?_, ?_⟩, ?_, ?_, ?_, ?_⟩
  · rw [hd]; exact m.dies
  · rw [hb]; exact m.blocks
  · rw [hw]; exact m.waves
  · rw [hv]; exact m.vis
  · rw [hh]; exact m.host
  · rw [hp]; exact m.procs
  · rw [hw]; exact m.waves
  · rw [hd]; exact m.dies
  · intro m; unfold State.powerOk; rw [hc]; exact m
  · intro m; unfold State.shapeOk; rw [hd, hn, hc, hv, hk, hs]; exact m
  · exact Nat.le_of_eq (congrArg Kept.value hl.symm)
  · exact Nat.le_of_eq hr.symm

theorem forall_mem_modify {α : Type} {P : α → Prop} {f : α → α} (hf : ∀ x, P x → P (f x)) (l : List α) (i : Nat)
    (h : ∀ x ∈ l, P x) : ∀ x ∈ l.modify i f, P x := by
  induction l generalizing i with
  | nil => simp
  | cons a l ih =>
    cases i with
    | zero =>
      simp only [List.modify_zero_cons, List.mem_cons, forall_eq_or_imp]
      exact ⟨hf _ (h a (by simp)), fun x hx => h x (by simp [hx])⟩
    | succ i =>
      simp only [List.modify_succ_cons, List.mem_cons, forall_eq_or_imp]
      exact ⟨h a (by simp), ih i fun x hx => h x (by simp [hx])⟩

theorem forall_mem_map {α : Type} {P : α → Prop} {f : α → α} (hf : ∀ x, P x → P (f x)) (l : List α)
    (h : ∀ x ∈ l, P x) : ∀ x ∈ l.map f, P x := by
  intro x hx
  obtain ⟨y, hy, rfl⟩ := List.mem_map.1 hx
  exact hf y (h y hy)

/-! ### What a machine in order holds at an index -/

theorem getD_of_forall {α : Type} {P : α → Prop} {l : List α} (h : ∀ x ∈ l, P x) {z : α} (hz : P z) (i : Nat) : P (l.getD i z) := by
  by_cases hi : i < l.length
  · simp only [List.getD_eq_getElem?_getD, List.getElem?_eq_getElem hi, Option.getD_some]
    exact h _ (List.getElem_mem hi)
  · simpa [List.getD_eq_getElem?_getD, List.getElem?_eq_none (Nat.le_of_not_lt hi)] using hz

theorem State.memOk.die {s : State} (h : s.memOk) (i : Nat) : (s.die i).memOk :=
  getD_of_forall h.dies ⟨rfl, rfl, by simp⟩ i

theorem State.memOk.block {s : State} (h : s.memOk) (i : Nat) : (s.block i).shared.wf = true :=
  getD_of_forall (P := fun b : Block => b.shared.wf = true) h.blocks rfl i

theorem State.memOk.wave {s : State} (h : s.memOk) (i : Nat) : (s.wave i).spill.wf = true :=
  getD_of_forall (P := fun w : Wave => w.spill.wf = true) h.waves rfl i

/-- A wave that has not ended is one of the machine's. -/
theorem State.wavesOk.wave {s : State} (h : s.wavesOk) {i : Nat} (hi : (s.wave i).ended = false) : (s.wave i).ok := by
  have := getD_of_forall (P := fun w : Wave => w.ended = false → w.ok) (fun w hw _ => h.waves w hw) (z := Wave.blank)
    (by simp [Wave.blank]) i
  exact this hi

theorem State.wavesOk.die {s : State} (h : s.wavesOk) (i : Nat) : ∀ l ∈ (s.die i).felt, l.waveOk :=
  getD_of_forall (P := fun d : DieState => ∀ l ∈ d.felt, l.waveOk) h.dies (by simp) i

theorem State.powerOk.cluster {s : State} (h : s.powerOk) (i : Nat) : (s.cluster i).ok :=
  getD_of_forall h ⟨by decide, by decide, by decide, ⟨by decide, by decide⟩, by simp, by simp⟩ i

/-! ### The updates of a record -/

section
variable {s t : State}

theorem modWave_calm {i : Nat} {f : Wave → Wave} (h : Calm s t) (hm : ∀ w, w.spill.wf = true → (f w).spill.wf = true)
    (hw : ∀ w, w.ok → (f w).ok) : Calm s (t.modWave i f) :=
  h.trans ⟨fun m => { m with waves := forall_mem_modify hm _ _ m.waves },
    fun m => { m with waves := forall_mem_modify hw _ _ m.waves }, id, id, Nat.le_refl _, Nat.le_refl _⟩

theorem modBlock_calm {i : Nat} {f : Block → Block} (h : Calm s t)
    (hm : ∀ b, b.shared.wf = true → (f b).shared.wf = true) : Calm s (t.modBlock i f) :=
  h.trans ⟨fun m => { m with blocks := forall_mem_modify hm _ _ m.blocks }, fun m => { m with }, id, id, Nat.le_refl _,
    Nat.le_refl _⟩

theorem modVi_calm {i : Nat} {f : ViState → ViState} (h : Calm s t) (hm : ∀ v, v.hdm.wf = true → (f v).hdm.wf = true) :
    Calm s (t.modVi i f) :=
  h.trans ⟨fun m => { m with vis := forall_mem_modify hm _ _ m.vis }, fun m => { m with }, id,
    fun h => by simpa [State.shapeOk, State.modVi] using h, Nat.le_refl _, Nat.le_refl _⟩

theorem modDie_calm {i : Nat} {f : DieState → DieState} (h : Calm s t) (hm : ∀ d, d.memOk → (f d).memOk)
    (hw : ∀ d, (∀ l ∈ d.felt, l.waveOk) → ∀ l ∈ (f d).felt, l.waveOk) : Calm s (t.modDie i f) :=
  h.trans ⟨fun m => { m with dies := forall_mem_modify hm _ _ m.dies },
    fun m => { m with dies := forall_mem_modify (P := fun d : DieState => ∀ l ∈ d.felt, l.waveOk) hw _ _ m.dies }, id,
    fun h => by simpa [State.shapeOk, State.modDie] using h, Nat.le_refl _, Nat.le_refl _⟩

theorem modCluster_calm {i : Nat} {f : ClusterState → ClusterState} (h : Calm s t) (hc : ∀ c, c.ok → (f c).ok) :
    Calm s (t.modCluster i f) :=
  h.trans ⟨fun m => { m with }, fun m => { m with }, fun m => forall_mem_modify hc _ _ m,
    fun h => by simpa [State.shapeOk, State.modCluster] using h, Nat.le_refl _, Nat.le_refl _⟩

/-! The same, where what is written is taken from the state. -/

theorem modWave_calm_of {i : Nat} {f : Wave → Wave} (h : Calm s t)
    (hm : t.memOk → ∀ w, w.spill.wf = true → (f w).spill.wf = true) (hw : t.wavesOk → ∀ w, w.ok → (f w).ok) :
    Calm s (t.modWave i f) :=
  h.trans ⟨fun m => { m with waves := forall_mem_modify (hm m) _ _ m.waves },
    fun m => { m with waves := forall_mem_modify (hw m) _ _ m.waves }, id, id, Nat.le_refl _, Nat.le_refl _⟩

theorem modBlock_calm_of {i : Nat} {f : Block → Block} (h : Calm s t)
    (hm : t.memOk → ∀ b, b.shared.wf = true → (f b).shared.wf = true) : Calm s (t.modBlock i f) :=
  h.trans ⟨fun m => { m with blocks := forall_mem_modify (hm m) _ _ m.blocks }, fun m => { m with }, id, id, Nat.le_refl _,
    Nat.le_refl _⟩

theorem modDie_calm_of {i : Nat} {f : DieState → DieState} (h : Calm s t) (hm : t.memOk → ∀ d, d.memOk → (f d).memOk)
    (hw : t.wavesOk → ∀ d, (∀ l ∈ d.felt, l.waveOk) → ∀ l ∈ (f d).felt, l.waveOk) : Calm s (t.modDie i f) :=
  h.trans ⟨fun m => { m with dies := forall_mem_modify (hm m) _ _ m.dies },
    fun m => { m with dies := forall_mem_modify (P := fun d : DieState => ∀ l ∈ d.felt, l.waveOk) (hw m) _ _ m.dies }, id,
    fun h => by simpa [State.shapeOk, State.modDie] using h, Nat.le_refl _, Nat.le_refl _⟩

theorem modCluster_calm_of {i : Nat} {f : ClusterState → ClusterState} (h : Calm s t)
    (hc : t.powerOk → ∀ c, c.ok → (f c).ok) : Calm s (t.modCluster i f) :=
  h.trans ⟨fun m => { m with }, fun m => { m with }, fun m => forall_mem_modify (hc m) _ _ m,
    fun h => by simpa [State.shapeOk, State.modCluster] using h, Nat.le_refl _, Nat.le_refl _⟩

theorem modLaunch_calm {i : Nat} {f : Launch → Launch} (h : Calm s t) : Calm s (t.modLaunch i f) :=
  Calm.congr (u := t) rfl rfl rfl rfl rfl rfl rfl rfl rfl rfl rfl rfl h

theorem modOp_calm {i : Nat} {f : MemOp → MemOp} (h : Calm s t) : Calm s (t.modOp i f) :=
  Calm.congr (u := t) rfl rfl rfl rfl rfl rfl rfl rfl rfl rfl rfl rfl h

theorem modAcc_calm {i : Nat} {f : Acc → Acc} (h : Calm s t) : Calm s (t.modAcc i f) :=
  Calm.congr (u := t) rfl rfl rfl rfl rfl rfl rfl rfl rfl rfl rfl rfl h

theorem modTile_calm {i : Nat} {f : Tile → Tile} (h : Calm s t) : Calm s (t.modTile i f) :=
  Calm.congr (u := t) rfl rfl rfl rfl rfl rfl rfl rfl rfl rfl rfl rfl h

theorem modCopy_calm {i : Nat} {f : Copy → Copy} (h : Calm s t) : Calm s (t.modCopy i f) :=
  Calm.congr (u := t) rfl rfl rfl rfl rfl rfl rfl rfl rfl rfl rfl rfl h

theorem post_calm {p : Post} (h : Calm s t) : Calm s (t.post p) :=
  Calm.congr (u := t) rfl rfl rfl rfl rfl rfl rfl rfl rfl rfl rfl rfl h

theorem modCore_calm {d c : Nat} {f : CoreState → CoreState} (h : Calm s t) : Calm s (t.modCore d c f) :=
  Calm.congr (u := t) rfl rfl rfl rfl rfl rfl (by simp [State.modCore]) rfl rfl rfl rfl rfl h

theorem modPart_calm {p : PartRef} {f : PartState → PartState} (h : Calm s t) : Calm s (t.modPart p f) := modCore_calm h

theorem foldl_calm {α : Type} {f : State → α → State} {l : List α} (h : Calm s t) (hf : ∀ u, ∀ x ∈ l, Calm u (f u x)) :
    Calm s (l.foldl f t) := by
  induction l generalizing t with
  | nil => exact h
  | cons a l ih => exact ih (h.trans (hf t a (by simp))) fun u x hx => hf u x (by simp [hx])

theorem foldl_calm_fst {α β : Type} {f : State × β → α → State × β} {l : List α} {u : State × β} (h : Calm s u.1)
    (hf : ∀ u, ∀ x ∈ l, Calm u.1 (f u x).1) : Calm s (l.foldl f u).1 := by
  induction l generalizing u with
  | nil => exact h
  | cons a l ih => exact ih (h.trans (hf u a (by simp))) fun u x hx => hf u x (by simp [hx])

theorem ite_calm {c : Prop} [Decidable c] {u : State} (ht : Calm s t) (hu : Calm s u) : Calm s (if c then t else u) := by
  split <;> assumption

end

/-- An update of the other fields. -/
theorem set_calm {r s : State}
    {launches ops accs tiles copies kernels bundles threads now moduleNo powerLost boot bootSlot slotSel flash
    lease leaseBad waiters posts ports evicted attached brkGo brkCount appends handles peers agenda cur steps}
    (h : Calm r s) : Calm r { s with
      launches := launches, ops := ops, accs := accs, tiles := tiles, copies := copies, kernels := kernels,
      bundles := bundles, threads := threads, now := now, moduleNo := moduleNo, powerLost := powerLost, boot :=
      boot, bootSlot := bootSlot, slotSel := slotSel, flash := flash, lease := lease, leaseBad := leaseBad,
      waiters := waiters, posts := posts, ports := ports, evicted := evicted, attached := attached, brkGo :=
      brkGo, brkCount := brkCount, appends := appends, handles := handles, peers := peers, agenda := agenda, cur
      := cur, steps := steps } :=
  Calm.congr (u := s) rfl rfl rfl rfl rfl rfl rfl rfl rfl rfl rfl rfl h

/-- A process after another; what one holds. -/
theorem pushProc_calm {r s : State} {p : Process} (h : Calm r s) (hm : p.mem.wf = true) :
    Calm r { s with procs := s.procs ++ [p] } :=
  h.trans ⟨fun m => { m with procs := by simpa [or_imp, forall_and] using ⟨m.procs, hm⟩ }, fun m => { m with }, id, id,
    Nat.le_refl _, Nat.le_refl _⟩

theorem modProc_calm {r s : State} {i : Nat} {f : Process → Process} (h : Calm r s)
    (hm : ∀ p, p.mem.wf = true → (f p).mem.wf = true) : Calm r (s.modProc i f) :=
  h.trans ⟨fun m => { m with procs := forall_mem_modify hm _ _ m.procs }, fun m => { m with }, id, id, Nat.le_refl _,
    Nat.le_refl _⟩

theorem modThread_calm {r s : State} {i : Nat} {f : SysThread → SysThread} (h : Calm r s) : Calm r (s.modThread i f) :=
  set_calm h

theorem modSysCore_calm {r s : State} {i : Nat} {f : SysCore → SysCore} (h : Calm r s) : Calm r (s.modSysCore i f) :=
  Calm.congr (u := s) rfl rfl rfl rfl rfl rfl rfl rfl rfl rfl rfl (by simp [State.modSysCore]) h

theorem setSysCores_calm {r s : State} {l : List SysCore} {w} (h : Calm r s) (hl : l.length = s.sysCores.length) :
    Calm r { s with sysCores := l, waiters := w } :=
  Calm.congr (u := s) rfl rfl rfl rfl rfl rfl rfl rfl rfl rfl rfl hl h

/-- Where the other copy is written with the next sequence number, the value in force is the new one if its CRC matches, and
else as before. -/
theorem Kept.put_value (k : Kept) (v crc : Nat) :
    let seq := (if k.takesA then k.a.2.1 else k.b.2.1) + 1
    Kept.value (if k.takesA then { k with b := (v, seq, crc) } else { k with a := (v, seq, crc) }) =
      if keptValid (v, seq, crc) then v else k.value := by
  intro seq
  by_cases h : k.takesA = true
  · have ha : keptValid k.a = true := by simp only [Kept.takesA, Bool.and_eq_true] at h; exact h.1
    have hs : seq = k.a.2.1 + 1 := by simp only [seq, if_pos h]
    have e : Kept.takesA { k with b := (v, seq, crc) } = !keptValid (v, seq, crc) := by
      simp [Kept.takesA, ha, hs]
    rw [if_pos h, Kept.value, e, Kept.value, if_pos h]
    cases keptValid (v, seq, crc) <;> rfl
  · have hs : seq = k.b.2.1 + 1 := by simp only [seq, if_neg h]
    have e : Kept.takesA { k with a := (v, seq, crc) } = keptValid (v, seq, crc) := by
      simp [Kept.takesA, hs]
    rw [if_neg h, Kept.value, e, Kept.value, if_neg h]

/-- A new value of the state area is in force (R322). -/
theorem Kept.write_value (k : Kept) (v : Nat) : (k.write v).value = v := by
  have := Kept.put_value k v (keptCrc v ((if k.takesA then k.a.2.1 else k.b.2.1) + 1))
  simp only [keptValid, beq_self_eq_true, if_true] at this
  exact this

/-- A write that is cut off leaves the value in force (R322). -/
theorem Kept.cutOff_value (k : Kept) (v : Nat) : (k.cutOff v).value = k.value := by
  have := Kept.put_value k v (keptCrc v ((if k.takesA then k.a.2.1 else k.b.2.1) + 1) + 1)
  simp only [keptValid, beq_iff_eq, Nat.succ_ne_self, if_false] at this
  exact this

/-- Leaves go up. -/
theorem setLeaf_calm {r s : State} {k : Kept} (h : Calm r s) (hn : s.leaf.value ≤ k.value) : Calm r { s with leaf := k } :=
  h.trans ⟨fun m => { m with }, fun m => { m with }, id, id, hn, Nat.le_refl _⟩

/-- So does the rollback minimum. -/
theorem setRoll_calm {r s : State} {n : Nat} (h : Calm r s) (hn : s.rollbackMin ≤ n) : Calm r { s with rollbackMin := n } :=
  h.trans ⟨fun m => { m with }, fun m => { m with }, id, id, Nat.le_refl _, hn⟩

theorem setHost_calm {r s : State} {m : Memory} {e} (h : Calm r s) (hm : s.memOk → m.wf = true) :
    Calm r { s with hostMem := m, evicted := e } :=
  h.trans ⟨fun k => { k with host := hm k }, fun m => { m with }, id, id, Nat.le_refl _, Nat.le_refl _⟩

theorem setStacks_calm {r s : State} {i : Nat} {f : StackState → StackState} (h : Calm r s) :
    Calm r { s with hbmStacks := s.hbmStacks.modify i f } :=
  h.trans ⟨fun k => { k with }, fun m => { m with }, id, fun m => by simpa [State.shapeOk] using m, Nat.le_refl _, Nat.le_refl _⟩

theorem pushWave_calm {r s : State} {w : Wave} (h : Calm r s) (hm : w.spill.wf = true) (hw : w.ok) :
    Calm r { s with waves := s.waves ++ [w] } :=
  h.trans ⟨fun m => { m with waves := by simpa [or_imp, forall_and] using ⟨m.waves, hm⟩ },
    fun m => { m with waves := by simpa [or_imp, forall_and] using ⟨m.waves, hw⟩ }, id, id, Nat.le_refl _, Nat.le_refl _⟩

theorem pushBlock_calm {r s : State} {b : Block} (h : Calm r s) (hm : b.shared.wf = true) :
    Calm r { s with blocks := s.blocks ++ [b] } :=
  h.trans ⟨fun m => { m with blocks := by simpa [or_imp, forall_and] using ⟨m.blocks, hm⟩ }, fun m => { m with }, id, id,
    Nat.le_refl _, Nat.le_refl _⟩

theorem mapClusters_calm {r s : State} {f : ClusterState → ClusterState} (h : Calm r s) (hc : ∀ c, c.ok → (f c).ok) :
    Calm r { s with clusters := s.clusters.map f } :=
  h.trans ⟨fun m => { m with }, fun m => { m with }, fun m => forall_mem_map hc _ m,
    fun m => by simpa [State.shapeOk] using m, Nat.le_refl _, Nat.le_refl _⟩

/-- Lines of the Felt layer that go from one die to another. -/
theorem moveFelt_calm {r s : State} {a b : Nat} {f g : DieState → DieState} (h : Calm r s)
    (hf : ∀ d, d.memOk → (f d).memOk) (hf' : ∀ d, (∀ l ∈ d.felt, l.waveOk) → ∀ l ∈ (f d).felt, l.waveOk)
    (hg : s.memOk → ∀ d, d.memOk → (g d).memOk)
    (hg' : s.wavesOk → ∀ d, (∀ l ∈ d.felt, l.waveOk) → ∀ l ∈ (g d).felt, l.waveOk) :
    Calm r ((s.modDie a f).modDie b g) :=
  h.trans ⟨fun m => { m with dies := forall_mem_modify (hg m) _ _ (forall_mem_modify hf _ _ m.dies) },
    fun m => ⟨m.waves, forall_mem_modify (P := fun d : DieState => ∀ l ∈ d.felt, l.waveOk) (hg' m) _ _
      (forall_mem_modify (P := fun d : DieState => ∀ l ∈ d.felt, l.waveOk) hf' _ _ m.dies)⟩,
    id, fun m => by simpa [State.shapeOk, State.modDie] using m, Nat.le_refl _, Nat.le_refl _⟩

/-- Taking over the interfaces of a later state. -/
theorem setVis_calm {r s u : State} (h : Calm r s) (k : Calm s u) : Calm r { s with vis := u.vis } :=
  h.trans ⟨fun m => { m with vis := (k.mem m).vis }, fun m => { m with }, id,
    fun m => ⟨m.1, m.2.1, m.2.2.1, (k.shape m).2.2.2.1, m.2.2.2.2⟩, Nat.le_refl _, Nat.le_refl _⟩

/-! ### Waves -/

@[simp] theorem countDown_spill (w : Wave) (c : QClass) (n : Nat) : (w.countDown c n).spill = w.spill := by cases c <;> rfl
@[simp] theorem countDown_regs (w : Wave) (c : QClass) (n : Nat) : (w.countDown c n).regs = w.regs := by cases c <;> rfl
@[simp] theorem countDown_k (w : Wave) (c : QClass) (n : Nat) : (w.countDown c n).k = w.k := by cases c <;> rfl
@[simp] theorem countDown_sb (w : Wave) (c : QClass) (n : Nat) : (w.countDown c n).sb = w.sb := by cases c <;> rfl
@[simp] theorem countDown_path (w : Wave) (c : QClass) (n : Nat) : (w.countDown c n).path = w.path := by cases c <;> rfl
@[simp] theorem countUp_spill (w : Wave) (c : QClass) (n : Nat) : (w.countUp c n).spill = w.spill := by cases c <;> rfl
@[simp] theorem countUp_regs (w : Wave) (c : QClass) (n : Nat) : (w.countUp c n).regs = w.regs := by cases c <;> rfl
@[simp] theorem countUp_k (w : Wave) (c : QClass) (n : Nat) : (w.countUp c n).k = w.k := by cases c <;> rfl
@[simp] theorem countUp_sb (w : Wave) (c : QClass) (n : Nat) : (w.countUp c n).sb = w.sb := by cases c <;> rfl
@[simp] theorem countUp_path (w : Wave) (c : QClass) (n : Nat) : (w.countUp c n).path = w.path := by cases c <;> rfl
@[simp] theorem put_spill (w : Wave) (d : BitVec 7) (x : Reg) : (w.put d x).spill = w.spill := rfl
@[simp] theorem put_k (w : Wave) (d : BitVec 7) (x : Reg) : (w.put d x).k = w.k := rfl
@[simp] theorem put_sb (w : Wave) (d : BitVec 7) (x : Reg) : (w.put d x).sb = w.sb := rfl
@[simp] theorem put_path (w : Wave) (d : BitVec 7) (x : Reg) : (w.put d x).path = w.path := rfl
@[simp] theorem put_regs_length (w : Wave) (d : BitVec 7) (x : Reg) : (w.put d x).regs.length = w.regs.length := by
  simp [Wave.put]
@[simp] theorem unpend_spill (w : Wave) (l : List (BitVec 7)) : (w.unpend l).spill = w.spill := rfl
@[simp] theorem unpend_regs (w : Wave) (l : List (BitVec 7)) : (w.unpend l).regs = w.regs := rfl
@[simp] theorem unpend_k (w : Wave) (l : List (BitVec 7)) : (w.unpend l).k = w.k := rfl
@[simp] theorem unpend_sb (w : Wave) (l : List (BitVec 7)) : (w.unpend l).sb = w.sb := rfl
@[simp] theorem unpend_path (w : Wave) (l : List (BitVec 7)) : (w.unpend l).path = w.path := rfl

theorem put_ok {w : Wave} {d : BitVec 7} {x : Reg} (h : w.ok) : (w.put d x).ok := by
  simpa [Wave.ok] using h

@[simp] theorem words_length (t : TrapInfo) (gen : Nat) : (t.words gen).length = 64 := by simp [TrapInfo.words]

@[simp] theorem setMore_length (sb : List Word) (m : Bool) : (setMore sb m).length = sb.length := by simp [setMore]

@[simp] theorem clearValid_length (sb : List Word) : (clearValid sb).length = sb.length := by simp [clearValid]

@[simp] theorem pushPath_spill (w : Wave) (pc act : Word) : (w.pushPath pc act).spill = w.spill := by
  unfold Wave.pushPath
  split
  · rfl
  · dsimp only; split <;> rfl

theorem pushPath_ok {w : Wave} {pc act : Word} (h : w.ok) : (w.pushPath pc act).ok := by
  obtain ⟨hr, hk, hp, hl⟩ := h
  unfold Wave.pushPath
  split
  · rename_i r _ e
    have hne : w.path ≠ [] := by intro h; simp [h] at e
    have : 0 < w.path.length := List.length_pos_iff.2 hne
    exact ⟨hr, hk, hp, by simp; omega⟩
  · dsimp only
    split
    · exact ⟨hr, hk, hp, by simp; omega⟩
    · rename_i h; exact ⟨hr, hk, hp, by simp at h ⊢; omega⟩

/-! ### Outcomes -/

/-- Whatever next state an outcome gives is calm. -/
def Keeps (s : State) (o : Host.Outcome State Fault Refusal) : Prop := ∀ t, o = .next t → Calm s t

theorem next_keeps {s t : State} (h : Calm s t) : Keeps s (.next t) := by
  intro u hu; injection hu with hu; exact hu ▸ h

theorem fault_keeps (s : State) (r : Fault) : Keeps s (.fault r) := by intro u hu; simp at hu

theorem onWave_keeps {s : State} {f : Nat → Host.Outcome State Fault Refusal} (h : ∀ wi, Keeps s (f wi)) :
    Keeps s (onWave s f) := by
  unfold onWave; split
  · exact h _
  · exact fault_keeps s _

end Sys2Proof.Machine
end

