-- ==== Sys2Proof/Laws/KeptStore.lean ====
section
/-!
SUPPORT. What the operations of Machine/Store.lean keep.
-/

namespace Sys2Proof.Machine

theorem scratchPut_calm {r s : State} (h : Calm r s) {vi die addr : Nat} {bs : Bytes} :
    Calm r (State.scratchPut s vi die addr bs) := by
  induction bs generalizing s addr with
  | nil => exact h
  | cons b bs ih =>
    apply ih
    exact modDie_calm h (fun _ h => ⟨Memory.wf_write _ _ _ h.1, h.2⟩) fun _ h => h

end Sys2Proof.Machine
end

