-- ==== Sys2Proof/Laws/KeptTrace.lean ====
section
/-!
SUPPORT. What the operations of Machine/Trace.lean keep.
-/

namespace Sys2Proof.Machine

theorem setLost_calm {s₀ s : State} (h₀ : Calm s₀ s) {wi : Nat} {n : Nat} : Calm s₀ (State.setLost s wi n) := by
  unfold State.setLost
  try dsimp only
  repeat' first | with_reducible assumption | with_reducible apply modCore_calm

theorem setTraceWritten_calm {s₀ s : State} (h₀ : Calm s₀ s) {wi : Nat} {n : Nat} : Calm s₀ (State.setTraceWritten s wi n) := by
  unfold State.setTraceWritten
  try dsimp only
  repeat' first | with_reducible assumption | with_reducible apply modCore_calm

theorem putPacket_calm {s₀ s : State} (h₀ : Calm s₀ s) {wi : Nat} {bs : Bytes} : Calm s₀ (putPacket s wi bs) := by
  unfold putPacket
  try dsimp only
  repeat' first
    | with_reducible assumption
    | with_reducible apply setLost_calm
    | with_reducible apply scratchPut_calm
    | with_reducible apply modWave_calm
    | with_reducible apply setTraceWritten_calm
    | with_reducible apply ite_calm
    | (intro w h; exact h)
    | split

theorem putSync_calm {s₀ s : State} (h₀ : Calm s₀ s) {wi : Nat} : Calm s₀ (putSync s wi) := by
  unfold putSync
  try dsimp only
  repeat' first
    | with_reducible assumption
    | with_reducible apply putPacket_calm
    | with_reducible apply modWave_calm
    | (intro w h; exact h)

theorem putTs_calm {s₀ s : State} (h₀ : Calm s₀ s) {wi : Nat} : Calm s₀ (putTs s wi) := by
  unfold putTs
  try dsimp only
  repeat' first
    | with_reducible assumption
    | with_reducible apply putPacket_calm
    | with_reducible apply modWave_calm
    | (intro w h; exact h)

theorem syncFull_calm {s₀ s : State} (h₀ : Calm s₀ s) {wi : Nat} : Calm s₀ (syncFull s wi) := by
  unfold syncFull
  try dsimp only
  repeat' first | with_reducible assumption | with_reducible apply putSync_calm | with_reducible apply ite_calm

theorem stampFirst_calm {s₀ s : State} (h₀ : Calm s₀ s) {wi : Nat} : Calm s₀ (stampFirst s wi) := by
  unfold stampFirst
  try dsimp only
  repeat' first
    | with_reducible assumption
    | with_reducible apply syncFull_calm
    | with_reducible apply putTs_calm
    | with_reducible apply ite_calm

theorem putBranches_calm {s₀ s : State} (h₀ : Calm s₀ s) {wi : Nat} : Calm s₀ (putBranches s wi) := by
  unfold putBranches
  try dsimp only
  repeat' first
    | with_reducible assumption
    | with_reducible apply modWave_calm
    | with_reducible apply putPacket_calm
    | with_reducible apply stampFirst_calm
    | with_reducible apply ite_calm
    | (intro w h; exact h)

theorem putLoss_calm {s₀ s : State} (h₀ : Calm s₀ s) {wi : Nat} : Calm s₀ (putLoss s wi) := by
  unfold putLoss
  try dsimp only
  repeat' first
    | with_reducible assumption
    | with_reducible apply putBranches_calm
    | with_reducible apply putSync_calm
    | with_reducible apply putPacket_calm
    | with_reducible apply setLost_calm

theorem traceDue_calm {s₀ s : State} (h₀ : Calm s₀ s) {wi : Nat} : Calm s₀ (traceDue s wi) := by
  unfold traceDue
  try dsimp only
  repeat' first
    | with_reducible assumption
    | with_reducible apply putLoss_calm
    | with_reducible apply putSync_calm
    | with_reducible apply putBranches_calm
    | with_reducible apply ite_calm

theorem flushBr_calm {s₀ s : State} (h₀ : Calm s₀ s) {wi : Nat} : Calm s₀ (flushBr s wi) := by
  unfold flushBr
  try dsimp only
  repeat' first
    | with_reducible assumption
    | with_reducible apply putBranches_calm
    | with_reducible apply traceDue_calm
    | with_reducible apply ite_calm

theorem emitSync_calm {s₀ s : State} (h₀ : Calm s₀ s) {wi : Nat} : Calm s₀ (emitSync s wi) := by
  unfold emitSync
  try dsimp only
  repeat' first
    | with_reducible assumption
    | with_reducible apply putBranches_calm
    | with_reducible apply putLoss_calm
    | with_reducible apply putSync_calm
    | with_reducible apply ite_calm

theorem emit_calm {s₀ s : State} (h₀ : Calm s₀ s) {wi : Nat} {bs : Bytes} : Calm s₀ (emit s wi bs) := by
  unfold emit
  try dsimp only
  repeat' first
    | with_reducible assumption
    | with_reducible apply putPacket_calm
    | with_reducible apply stampFirst_calm
    | with_reducible apply flushBr_calm
    | with_reducible apply ite_calm

theorem emitTarget_calm {s₀ s : State} (h₀ : Calm s₀ s) {wi : Nat} {pc : Word} : Calm s₀ (emitTarget s wi pc) := by
  unfold emitTarget
  try dsimp only
  repeat' first | with_reducible assumption | with_reducible apply emit_calm

theorem emitBranch_calm {s₀ s : State} (h₀ : Calm s₀ s) {wi : Nat} {taken : Bool} : Calm s₀ (emitBranch s wi taken) := by
  unfold emitBranch
  try dsimp only
  repeat' first
    | with_reducible assumption
    | with_reducible apply modWave_calm
    | with_reducible apply traceDue_calm
    | with_reducible apply flushBr_calm
    | with_reducible apply ite_calm
    | (intro w h; exact h)

theorem emitMask_calm {s₀ s : State} (h₀ : Calm s₀ s) {wi : Nat} {k : BitVec 4} {v : Word} : Calm s₀ (emitMask s wi k v) := by
  unfold emitMask
  try dsimp only
  repeat' first
    | with_reducible assumption
    | with_reducible apply stampFirst_calm
    | with_reducible apply flushBr_calm
    | with_reducible apply modWave_calm
    | with_reducible apply putPacket_calm
    | with_reducible apply ite_calm
    | (intro w h; exact h)

theorem traceStart_calm {s₀ s : State} (h₀ : Calm s₀ s) {wi : Nat} : Calm s₀ (traceStart s wi) := by
  unfold traceStart
  try dsimp only
  repeat' first
    | with_reducible assumption
    | with_reducible apply emitSync_calm
    | with_reducible apply modWave_calm
    | with_reducible apply ite_calm
    | (intro w h; exact h)
    | split

theorem traceStop_calm {s₀ s : State} (h₀ : Calm s₀ s) {wi : Nat} : Calm s₀ (traceStop s wi) := by
  unfold traceStop
  try dsimp only
  repeat' first
    | with_reducible assumption
    | with_reducible apply modWave_calm
    | with_reducible apply flushBr_calm
    | with_reducible apply ite_calm
    | (intro w h; exact h)

theorem traceWake_calm {s₀ s : State} (h₀ : Calm s₀ s) {wi : Nat} : Calm s₀ (traceWake s wi) := by
  unfold traceWake
  try dsimp only
  repeat' first
    | with_reducible assumption
    | with_reducible apply putTs_calm
    | with_reducible apply flushBr_calm
    | with_reducible apply ite_calm

theorem setMaskFlags_calm {s₀ s : State} (h₀ : Calm s₀ s) {wi : Nat} {m : Word} : Calm s₀ (setMaskFlags s wi m) := by
  unfold setMaskFlags
  try dsimp only
  repeat' first | with_reducible assumption | with_reducible apply modWave_calm | (intro w h; exact h)

theorem writeMask_calm {s₀ s : State} (h₀ : Calm s₀ s) {wi : Nat} {k : BitVec 4} {m : Word} : Calm s₀ (writeMask s wi k m) := by
  unfold writeMask
  try dsimp only
  repeat' first
    | with_reducible assumption
    | with_reducible apply setMaskFlags_calm
    | with_reducible apply modWave_calm
    | with_reducible apply emitMask_calm
    | (intro w h; first | exact h | (simpa [Wave.ok] using h))

end Sys2Proof.Machine
end

