-- ==== Sys2Proof/Laws/KeptOps.lean ====
section
/-!
SUPPORT. What the operations of Machine/Ops.lean keep.
-/

namespace Sys2Proof.Machine

theorem dropClaims_calm {s₀ s : State} (h₀ : Calm s₀ s) {wi : Nat} : Calm s₀ (dropClaims s wi) := by
  unfold dropClaims
  try dsimp only
  repeat' first | with_reducible assumption | with_reducible apply modPart_calm

theorem leaveStop_calm {s₀ s : State} (h₀ : Calm s₀ s) {wi : Nat} : Calm s₀ (leaveStop s wi) := by
  unfold leaveStop
  try dsimp only
  repeat' first | with_reducible assumption | with_reducible apply traceWake_calm | with_reducible apply ite_calm

theorem suspend_calm {s₀ s : State} (h₀ : Calm s₀ s) {wi : Nat} : Calm s₀ (suspend s wi) := by
  unfold suspend
  try dsimp only
  repeat' first
    | with_reducible assumption
    | with_reducible apply leaveStop_calm
    | with_reducible apply modAcc_calm
    | with_reducible apply modWave_calm
    | with_reducible apply dropClaims_calm
    | (intro w h; exact h)
    | split

theorem enterHandler_calm {s₀ s : State} (h₀ : Calm s₀ s) {wi : Nat} {base : Nat} {cls : Nat} : Calm s₀ (enterHandler s wi base cls) := by
  unfold enterHandler
  try dsimp only
  repeat' first
    | with_reducible assumption
    | with_reducible apply modWave_calm
    | with_reducible apply emitTarget_calm
    | with_reducible apply suspend_calm
    | (intro w h; exact h)
    | with_reducible apply set_calm

theorem trapHalts_calm {s₀ s : State} (h₀ : Calm s₀ s) {wi : Nat} {cls : TrapClass} {code : Nat} : Calm s₀ (trapHalts s wi cls code) := by
  unfold trapHalts
  try dsimp only
  repeat' first
    | with_reducible assumption
    | with_reducible apply post_calm
    | with_reducible apply modWave_calm
    | with_reducible apply suspend_calm
    | (intro w h; exact h)

theorem enterTrap_calm {s₀ s : State} (h₀ : Calm s₀ s) {wi : Nat} {cls : TrapClass} {code : Nat} : Calm s₀ (enterTrap s wi cls code) := by
  unfold enterTrap
  try dsimp only
  repeat' first
    | with_reducible assumption
    | with_reducible apply trapHalts_calm
    | with_reducible apply enterHandler_calm
    | with_reducible apply ite_calm
    | split

theorem takeTrap_calm {s₀ s : State} (h₀ : Calm s₀ s) {wi : Nat} {t : TrapInfo} : Calm s₀ (takeTrap s wi t) := by
  unfold takeTrap
  try dsimp only
  repeat' first
    | with_reducible assumption
    | with_reducible apply modWave_calm
    | with_reducible apply post_calm
    | with_reducible apply dropClaims_calm
    | with_reducible apply leaveStop_calm
    | with_reducible apply enterTrap_calm
    | with_reducible apply ite_calm
    | (intro w h; first | exact h | exact ⟨h.1, h.2.1, words_length .., h.2.2.2⟩ | (split <;> first | exact h | exact ⟨h.1, h.2, h.3, h.4, h.5, h.6⟩ | simpa [Wave.ok] using h))

theorem leaveTrap_calm {s₀ s : State} (h₀ : Calm s₀ s) {wi : Nat} {pc : Word} : Calm s₀ (leaveTrap s wi pc) := by
  unfold leaveTrap
  try dsimp only
  repeat' first
    | with_reducible assumption
    | with_reducible apply modWave_calm
    | with_reducible apply emitTarget_calm
    | (intro w h; first | exact h | (simpa [Wave.ok] using h))

end Sys2Proof.Machine
end

