-- ==== Sys2Proof/Laws/KeptRace.lean ====
section
/-!
SUPPORT. What the operations of Machine/Race.lean keep.
-/

namespace Sys2Proof.Machine

theorem setWatermark_calm {s₀ s : State} (h₀ : Calm s₀ s) {g : Granule} {m : Watermark} : Calm s₀ (State.setWatermark s g m) := by
  unfold State.setWatermark
  try dsimp only
  repeat' first
    | with_reducible assumption
    | with_reducible apply modBlock_calm
    | with_reducible apply modDie_calm
    | (intro w h; exact h)
    | split

theorem trimController_calm {s₀ s : State} (h₀ : Calm s₀ s) {die : Nat} {core : Nat} : Calm s₀ (trimController s die core) := by
  unfold trimController
  try dsimp only
  repeat' first
    | with_reducible assumption
    | with_reducible apply modBlock_calm
    | with_reducible apply foldl_calm
    | (intro w h; exact h)
    | (intro u x _; have := Calm.refl u)
    | split

theorem setSyncRec_calm {s₀ s : State} (h₀ : Calm s₀ s) {g : Granule} {r : SyncRec} : Calm s₀ (State.setSyncRec s g r) := by
  unfold State.setSyncRec
  try dsimp only
  repeat' first
    | with_reducible assumption
    | with_reducible apply modBlock_calm
    | with_reducible apply trimController_calm
    | with_reducible apply modDie_calm
    | (intro w h; exact h)
    | split

theorem writeRaceRecord_calm {s₀ s : State} (h₀ : Calm s₀ s) {w : Who} {bs : Bytes} : Calm s₀ (writeRaceRecord s w bs) := by
  unfold writeRaceRecord
  try dsimp only
  repeat' first
    | with_reducible assumption
    | with_reducible apply modVi_calm
    | with_reducible apply scratchPut_calm
    | with_reducible apply ite_calm
    | (intro w h; exact h)
    | split

theorem countRace_calm {s₀ s : State} (h₀ : Calm s₀ s) {vi : Nat} {o : RaceOut} : Calm s₀ (countRace s vi o) := by
  unfold countRace
  try dsimp only
  repeat' first | with_reducible assumption | with_reducible apply modVi_calm | (intro w h; exact h) | split

theorem raceAccess_calm {s₀ s : State} (h₀ : Calm s₀ s) {mode : RaceMode} {w : Who} {p : Party} {writes : Bool} {sync : Bool} {split : Bool} {gen : Nat} {gs : List Granule} {alt : Granule → Option Recorded} : Calm s₀ (raceAccess s mode w p writes sync split gen gs alt).1 := by
  unfold raceAccess
  try dsimp only
  repeat' first
    | with_reducible assumption
    | with_reducible apply setWatermark_calm
    | with_reducible apply countRace_calm
    | with_reducible apply writeRaceRecord_calm
    | with_reducible apply foldl_calm
    | (intro u x _; have := Calm.refl u)
    | split

theorem raceAccess_calm_of {s₀ s : State} (h₀ : Calm s₀ s) {mode : RaceMode} {w : Who} {p : Party} {writes : Bool} {sync : Bool} {split : Bool} {gen : Nat} {gs : List Granule} {alt : Granule → Option Recorded} {t : State} {x} (h : raceAccess s mode w p writes sync split gen gs alt = (t, x)) : Calm s₀ t := by
  have := raceAccess_calm h₀ (mode := mode) (w := w) (p := p) (writes := writes) (sync := sync) (split := split) (gen := gen) (gs := gs) (alt := alt); rw [h] at this; exact this

end Sys2Proof.Machine
end

