-- ==== Sys2Proof/Laws/KeptOrder.lean ====
section
/-!
SUPPORT. What the operations of Machine/Order.lean keep.
-/

namespace Sys2Proof.Machine

theorem homeWrite_calm {s₀ s : State} (h₀ : Calm s₀ s) {h : Home} {a : Nat} {v : Byte} : Calm s₀ (State.homeWrite s h a v) := by
  unfold State.homeWrite
  try dsimp only
  repeat' first
    | with_reducible assumption
    | with_reducible apply modBlock_calm
    | with_reducible apply modDie_calm
    | with_reducible apply modWave_calm
    | (intro w h; first | exact h | exact Memory.wf_write _ _ _ h | exact ⟨Memory.wf_write _ _ _ h.1, h.2⟩)
    | split

theorem homeWriteN_calm {s₀ s : State} (h₀ : Calm s₀ s) {h : Home} {a : Nat} {bs : Bytes} :
    Calm s₀ (State.homeWriteN s h a bs) := by
  induction bs generalizing s a with
  | nil => exact h₀
  | cons b bs ih => apply ih; exact homeWrite_calm h₀

theorem persistPush_calm {s₀ s : State} (h₀ : Calm s₀ s) {h : Home} {a : Nat} {by_ : Writer} {cut : Bool} : Calm s₀ (State.persistPush s h a by_ cut) := by
  unfold State.persistPush
  try dsimp only
  repeat' first
    | with_reducible assumption
    | with_reducible apply modDie_calm
    | (intro w h; exact h)
    | split
    | with_reducible apply set_calm

theorem append_calm {s₀ s : State} (h₀ : Calm s₀ s) {h : Home} {by_ : Writer} {cut : Nat → Bool} {lanes : List LaneAcc} : Calm s₀ (State.append s h by_ cut lanes) := by
  unfold State.append
  try dsimp only
  repeat' first
    | with_reducible assumption
    | with_reducible apply homeWriteN_calm
    | with_reducible apply modDie_calm
    | with_reducible apply persistPush_calm
    | with_reducible apply ite_calm
    | with_reducible apply foldl_calm
    | (intro w h; exact h)
    | (intro u x _; have := Calm.refl u)

theorem setPresent_calm {s₀ s : State} (h₀ : Calm s₀ s) {h : Home} {a : Nat} {p : Bool} : Calm s₀ (State.setPresent s h a p) := by
  unfold State.setPresent
  try dsimp only
  repeat' first
    | with_reducible assumption
    | with_reducible apply modBlock_calm
    | with_reducible apply modDie_calm
    | (intro w h; exact h)
    | split

end Sys2Proof.Machine
end

