-- ==== Sys2Proof/Laws/KeptFlags.lean ====
section
/-!
SUPPORT. What the operations of Machine/Flags.lean keep.
-/

namespace Sys2Proof.Machine

theorem stall_calm {s₀ s : State} (h₀ : Calm s₀ s) {wi : Nat} : Calm s₀ (stall s wi) := by
  unfold stall
  try dsimp only
  repeat' first | with_reducible assumption | with_reducible apply modWave_calm | (intro w h; exact h)

theorem advance_calm {s₀ s : State} (h₀ : Calm s₀ s) {wi : Nat} : Calm s₀ (advance s wi) := by
  unfold advance
  try dsimp only
  repeat' first | with_reducible assumption | with_reducible apply modWave_calm | (intro w h; exact h)

theorem begin__keeps {s : State} {regs : List (BitVec 7)} {f : Nat → State} (h : ∀ wi, Calm s (f wi)) :
    Keeps s (begin_ s regs f) := by
  unfold begin_
  apply onWave_keeps
  intro wi
  apply next_keeps
  exact ite_calm (stall_calm (.refl s)) (h wi)

theorem issueTrap_calm {s₀ s : State} (h₀ : Calm s₀ s) {wi : Nat} {word : Word} {cls : TrapClass} {code : Nat} {lanes : Word} {detail : List Nat} {laneDetail : List (Nat × Nat)} : Calm s₀ (issueTrap s wi word cls code lanes detail laneDetail) := by
  unfold issueTrap
  try dsimp only
  repeat' first | with_reducible assumption | with_reducible apply takeTrap_calm

theorem ill_calm {s₀ s : State} (h₀ : Calm s₀ s) {wi : Nat} {i : Instr} {code : Nat} : Calm s₀ (ill s wi i code) := by
  unfold ill
  try dsimp only
  repeat' first | with_reducible assumption | with_reducible apply issueTrap_calm

theorem occupy_calm {s₀ s : State} (h₀ : Calm s₀ s) {wi : Nat} {u : ExecUnit} {clocks : Nat} : Calm s₀ (occupy s wi u clocks) := by
  unfold occupy
  try dsimp only
  repeat' first | with_reducible assumption | with_reducible apply modPart_calm

theorem quotaTrap_calm {s₀ s : State} (h₀ : Calm s₀ s) {wi : Nat} {word : Word} {d : BitVec 7} : Calm s₀ (quotaTrap s wi word d) := by
  unfold quotaTrap
  try dsimp only
  repeat' first | with_reducible assumption | with_reducible apply issueTrap_calm

theorem putAll_calm {s₀ s : State} (h₀ : Calm s₀ s) {wi : Nat} {ws : List (BitVec 7 × Reg)} : Calm s₀ (putAll s wi ws) := by
  unfold putAll
  try dsimp only
  repeat' first
    | with_reducible assumption
    | with_reducible apply modWave_calm
    | with_reducible apply foldl_calm
    | (intro w h; first | exact h | exact put_ok h)
    | (intro u x _; have := Calm.refl u)

theorem orFstat_calm {s₀ s : State} (h₀ : Calm s₀ s) {wi : Nat} {bits : Nat} : Calm s₀ (orFstat s wi bits) := by
  unfold orFstat
  try dsimp only
  repeat' first | with_reducible assumption | with_reducible apply modWave_calm | (intro w h; exact h)

theorem countSlow_calm {s₀ s : State} (h₀ : Calm s₀ s) {wi : Nat} {slow : Bool} : Calm s₀ (countSlow s wi slow) := by
  unfold countSlow
  try dsimp only
  repeat' first | with_reducible assumption | with_reducible apply modCore_calm | with_reducible apply ite_calm

theorem laneEffect_calm {s₀ s : State} (h₀ : Calm s₀ s) {wi : Nat} {o : LaneOp} : Calm s₀ (laneEffect s wi o) := by
  unfold laneEffect
  try dsimp only
  repeat' first
    | with_reducible assumption
    | with_reducible apply putAll_calm
    | with_reducible apply orFstat_calm
    | with_reducible apply writeMask_calm
    | with_reducible apply setMaskFlags_calm
    | with_reducible apply modWave_calm
    | with_reducible apply advance_calm
    | with_reducible apply countSlow_calm
    | with_reducible apply occupy_calm
    | (intro w h; exact h)
    | split

theorem softTrap_calm {s₀ s : State} (h₀ : Calm s₀ s) {wi : Nat} {word : Word} {act : Word} {reads : List (BitVec 7)} : Calm s₀ (softTrap s wi word act reads) := by
  unfold softTrap
  try dsimp only
  repeat' first | with_reducible assumption | with_reducible apply issueTrap_calm

theorem laneOp_calm {s₀ s : State} (h₀ : Calm s₀ s) {wi : Nat} {i : Instr} {o : LaneOp} : Calm s₀ (laneOp s wi i o) := by
  unfold laneOp
  try dsimp only
  repeat' first
    | with_reducible assumption
    | with_reducible apply stall_calm
    | with_reducible apply quotaTrap_calm
    | with_reducible apply softTrap_calm
    | with_reducible apply issueTrap_calm
    | with_reducible apply laneEffect_calm
    | with_reducible apply ite_calm
    | split

theorem laneInstr_keeps (s : State) (i : Instr) (regs : List (BitVec 7)) (f : Wave → Except Nat LaneOp) : Keeps s (laneInstr s i regs f) := by
  have h₀ := Calm.refl s
  unfold laneInstr
  try dsimp only
  repeat' first
    | with_reducible assumption
    | with_reducible apply begin__keeps
    | with_reducible apply ill_calm
    | with_reducible apply laneOp_calm
    | intro wi
    | split

theorem laneFree_keeps (s : State) (i : Instr) (regs : List (BitVec 7)) (f : Wave → LaneOp) : Keeps s (laneFree s i regs f) := by
  have h₀ := Calm.refl s
  unfold laneFree
  try dsimp only
  repeat' (with_reducible apply laneInstr_keeps)

theorem typedInstr_keeps (s : State) (i : Instr) (types : List Nat) (ops : List (BitVec 7)) (f : Wave → LaneOp) : Keeps s (typedInstr s i types ops f) := by
  have h₀ := Calm.refl s
  unfold typedInstr
  try dsimp only
  repeat' first | with_reducible apply laneInstr_keeps | with_reducible apply onWave_keeps | intro wi

end Sys2Proof.Machine
end

