-- ==== Sys2Proof/Laws/KeptTranslate.lean ====
section
/-!
SUPPORT. What the operations of Machine/Translate.lean keep.
-/

namespace Sys2Proof.Machine

theorem holdTlb_calm {s₀ s : State} (h₀ : Calm s₀ s) {die : Nat} {site : Nat} {t : TlbEntry} : Calm s₀ (holdTlb s die site t) := by
  unfold holdTlb
  try dsimp only
  repeat' first | with_reducible assumption | with_reducible apply modDie_calm | (intro w h; exact h)

theorem translate_calm {s₀ s : State} (h₀ : Calm s₀ s) {die : Nat} {asid : Nat} {va : Nat} {want : Want} : Calm s₀ (translate s die asid va want).1 := by
  unfold translate
  try dsimp only
  repeat' first | with_reducible assumption | with_reducible apply holdTlb_calm | split

theorem translate_calm_of {s₀ s : State} (h₀ : Calm s₀ s) {die : Nat} {asid : Nat} {va : Nat} {want : Want} {t : State} {x} (h : translate s die asid va want = (t, x)) : Calm s₀ t := by
  have := translate_calm h₀ (die := die) (asid := asid) (va := va) (want := want); rw [h] at this; exact this

theorem dropTlb_calm {s₀ s : State} (h₀ : Calm s₀ s) {die : Nat} {asid : Nat} {p : TlbEntry → Bool} : Calm s₀ (dropTlb s die asid p) := by
  unfold dropTlb
  try dsimp only
  repeat' first | with_reducible assumption | with_reducible apply modDie_calm | (intro w h; exact h)

theorem postFault_calm {s₀ s : State} (h₀ : Calm s₀ s) {die : Nat} {asid : Nat} {va : Nat} {kind : Want} {copy : Option Nat} : Calm s₀ (postFault s die asid va kind copy) := by
  unfold postFault
  try dsimp only
  repeat' first
    | with_reducible assumption
    | with_reducible apply modDie_calm
    | with_reducible apply post_calm
    | with_reducible apply ite_calm
    | (intro w h; exact h)

theorem mainRead_calm {s₀ s : State} (h₀ : Calm s₀ s) {vi : Nat} {die : Nat} {pa : Nat} {n : Nat} {dsc : Bool} : Calm s₀ (mainRead s vi die pa n dsc).1 := by
  unfold mainRead
  try dsimp only
  repeat' first | with_reducible assumption | with_reducible apply modVi_calm | (intro w h; exact h) | split

theorem mainRead_calm_of {s₀ s : State} (h₀ : Calm s₀ s) {vi : Nat} {die : Nat} {pa : Nat} {n : Nat} {dsc : Bool} {t : State} {x} (h : mainRead s vi die pa n dsc = (t, x)) : Calm s₀ t := by
  have := mainRead_calm h₀ (vi := vi) (die := die) (pa := pa) (n := n) (dsc := dsc); rw [h] at this; exact this

theorem revive_calm {s₀ s : State} (h₀ : Calm s₀ s) {die : Nat} {asid : Nat} {va : Nat} : Calm s₀ (revive s die asid va) := by
  unfold revive
  try dsimp only
  repeat' first
    | with_reducible assumption
    | with_reducible apply modDie_calm
    | (intro w h; first | exact h | exact ⟨h.1, Memory.wf_writeN _ _ _ (Memory.wf_clear _ _ _ h.2.1), h.2.2⟩)
    | split

theorem hbmWrite_calm {s₀ s : State} (h₀ : Calm s₀ s) {die : Nat} {pa : Nat} {bs : Bytes} : Calm s₀ (State.hbmWrite s die pa bs) := by
  unfold State.hbmWrite
  try dsimp only
  repeat' first
    | with_reducible assumption
    | with_reducible apply modDie_calm
    | (intro w h; first | exact h | exact ⟨h.1, Memory.wf_writeN _ _ _ h.2.1, h.2.2⟩)

theorem mainWrite_calm {s₀ s : State} (h₀ : Calm s₀ s) {die : Nat} {asid : Nat} {va : Nat} {pa : Nat} {dsc : Bool} {bs : Bytes} : Calm s₀ (mainWrite s die asid va pa dsc bs) := by
  unfold mainWrite
  try dsimp only
  repeat' first
    | with_reducible assumption
    | with_reducible apply revive_calm
    | with_reducible apply hbmWrite_calm
    | with_reducible apply ite_calm

theorem fetchWord_calm {s₀ s : State} (h₀ : Calm s₀ s) {vi : Nat} {die : Nat} {core : Nat} {asid : Nat} {va : Nat} : Calm s₀ (fetchWord s vi die core asid va).1 := by
  unfold fetchWord
  try dsimp only
  repeat' first
    | with_reducible assumption
    | with_reducible apply modCore_calm
    | with_reducible apply mainRead_calm
    | with_reducible apply postFault_calm
    | split
    | with_reducible refine translate_calm_of ?_ (by assumption)

theorem fetchWord_calm_of {s₀ s : State} (h₀ : Calm s₀ s) {vi : Nat} {die : Nat} {core : Nat} {asid : Nat} {va : Nat} {t : State} {x} (h : fetchWord s vi die core asid va = (t, x)) : Calm s₀ t := by
  have := fetchWord_calm h₀ (vi := vi) (die := die) (core := core) (asid := asid) (va := va); rw [h] at this; exact this

end Sys2Proof.Machine
end

