-- ==== Sys2Proof/Laws/KeptAccess.lean ====
section
/-!
SUPPORT. What the operations of Machine/Access.lean keep.
-/

namespace Sys2Proof.Machine

theorem countDown_calm {s₀ s : State} (h₀ : Calm s₀ s) {oi : Nat} {n : Nat} : Calm s₀ (countDown s oi n) := by
  unfold countDown
  try dsimp only
  repeat' first
    | with_reducible assumption
    | with_reducible apply modOp_calm
    | with_reducible apply modWave_calm
    | (intro w h; (simpa [Wave.ok] using h))
    | split

theorem releaseLog_calm {s₀ s : State} (h₀ : Calm s₀ s) {oi : Nat} : Calm s₀ (releaseLog s oi) := by
  unfold releaseLog
  try dsimp only
  repeat' first
    | with_reducible assumption
    | with_reducible apply modOp_calm
    | with_reducible apply modWave_calm
    | (intro w h; exact h)

theorem writeDests_calm {s₀ s : State} (h₀ : Calm s₀ s) {oi : Nat} : Calm s₀ (writeDests s oi) := by
  unfold writeDests
  try dsimp only
  repeat' first
    | with_reducible assumption
    | with_reducible apply putAll_calm
    | with_reducible apply modWave_calm
    | with_reducible apply ite_calm
    | (intro w h; exact h)

theorem settle_calm {s₀ s : State} (h₀ : Calm s₀ s) {oi : Nat} : Calm s₀ (settle s oi) := by
  unfold settle
  try dsimp only
  repeat' first
    | with_reducible assumption
    | with_reducible apply releaseLog_calm
    | with_reducible apply countDown_calm
    | with_reducible apply writeDests_calm
    | with_reducible apply ite_calm
    | split

theorem accessTrap_calm {s₀ s : State} (h₀ : Calm s₀ s) {ai : Nat} {cls : TrapClass} {code : Nat} {lanes : Word} {detail : List Nat} : Calm s₀ (accessTrap s ai cls code lanes detail) := by
  unfold accessTrap
  try dsimp only
  repeat' first
    | with_reducible assumption
    | with_reducible apply modAcc_calm
    | with_reducible apply settle_calm
    | with_reducible apply modWave_calm
    | with_reducible apply takeTrap_calm
    | with_reducible apply ite_calm
    | (intro w h; first | exact h | (simpa [Wave.ok] using h))

theorem reissue_calm {s₀ s : State} (h₀ : Calm s₀ s) {ai : Nat} : Calm s₀ (reissue s ai) := by
  unfold reissue
  try dsimp only
  repeat' first
    | with_reducible assumption
    | with_reducible apply modAcc_calm
    | with_reducible apply modOp_calm
    | with_reducible apply modWave_calm
    | (intro w h; exact h)
    | split
    | with_reducible apply set_calm

theorem tileOver_calm {s₀ s : State} (h₀ : Calm s₀ s) {ti : Nat} {st : TileState} : Calm s₀ (tileOver s ti st) := by
  unfold tileOver
  try dsimp only
  repeat' first
    | with_reducible assumption
    | with_reducible apply modWave_calm
    | with_reducible apply modTile_calm
    | with_reducible apply releaseLog_calm
    | with_reducible apply countDown_calm
    | (intro w h; exact h)

theorem launchDone_calm {s₀ s : State} (h₀ : Calm s₀ s) {wi : Nat} {d : BitVec 7} {x : Word} : Calm s₀ (launchDone s wi d x) := by
  unfold launchDone
  try dsimp only
  repeat' first
    | with_reducible assumption
    | with_reducible apply modWave_calm
    | (intro w h; (split <;> first | exact h | exact ⟨h.1, h.2, h.3, h.4, h.5, h.6⟩ | simpa [Wave.ok] using h))

theorem dropQueued_calm {s₀ s : State} (h₀ : Calm s₀ s) {oi : Nat} : Calm s₀ (dropQueued s oi) := by
  unfold dropQueued
  try dsimp only
  repeat' first
    | with_reducible assumption
    | with_reducible apply modWave_calm
    | (intro w h; exact h)
    | with_reducible apply set_calm

theorem dropAcc_calm {s₀ s : State} (h₀ : Calm s₀ s) {ai : Nat} : Calm s₀ (dropAcc s ai) := by
  unfold dropAcc
  try dsimp only
  repeat' first
    | with_reducible assumption
    | with_reducible apply dropQueued_calm
    | with_reducible apply settle_calm
    | with_reducible apply modOp_calm
    | with_reducible apply tileOver_calm
    | with_reducible apply launchDone_calm
    | with_reducible apply countDown_calm
    | split

end Sys2Proof.Machine
end

