-- ==== Sys2Proof/Laws/KeptMemory.lean ====
section
/-!
SUPPORT. What the operations of Machine/Memory.lean keep.
-/

namespace Sys2Proof.Machine

theorem queueTrap_calm {s₀ s : State} (h₀ : Calm s₀ s) {wi : Nat} {word : Word} {c : QClass} : Calm s₀ (queueTrap s wi word c) := by
  unfold queueTrap
  try dsimp only
  repeat' first | with_reducible assumption | with_reducible apply issueTrap_calm

theorem dataStop_calm {s₀ s : State} (h₀ : Calm s₀ s) {wi : Nat} {ld : Bool} {st : Bool} {bytes : List (Nat × Nat)} : Calm s₀ (dataStop s wi ld st bytes) := by
  unfold dataStop
  try dsimp only
  repeat' first
    | with_reducible assumption
    | with_reducible apply post_calm
    | with_reducible apply modWave_calm
    | (intro w h; exact h)
    | split

theorem atomicLane_calm {s₀ s : State} (h₀ : Calm s₀ s) {oi : Nat} {h : Home} {l : LaneAcc} : Calm s₀ (atomicLane s oi h l) := by
  unfold atomicLane
  try dsimp only
  repeat' first | with_reducible assumption | with_reducible apply modOp_calm | with_reducible apply homeWriteN_calm

theorem atomicApply_calm {s₀ s : State} (h₀ : Calm s₀ s) {a : Machine.Acc} {h : Home} : Calm s₀ (atomicApply s a h) := by
  unfold atomicApply
  try dsimp only
  repeat' first
    | with_reducible assumption
    | with_reducible apply atomicLane_calm
    | with_reducible apply persistPush_calm
    | with_reducible apply foldl_calm
    | (intro u x _; have := Calm.refl u)

theorem spillPart_calm {s₀ s : State} (h₀ : Calm s₀ s) {ai : Nat} : Calm s₀ (spillPart s ai) := by
  unfold spillPart
  try dsimp only
  repeat' first
    | with_reducible assumption
    | with_reducible apply modAcc_calm
    | with_reducible apply atomicApply_calm
    | with_reducible apply modOp_calm
    | with_reducible apply append_calm
    | with_reducible apply ite_calm
    | split

theorem spillTrap_calm {s₀ s : State} (h₀ : Calm s₀ s) {ai : Nat} : Calm s₀ (spillTrap s ai) := by
  unfold spillTrap
  try dsimp only
  repeat' first
    | with_reducible assumption
    | with_reducible apply accessTrap_calm
    | with_reducible apply ite_calm
    | split

theorem memEffect_calm {s₀ s : State} (h₀ : Calm s₀ s) {wi : Nat} {word : Word} {r : MemReq} : Calm s₀ (memEffect s wi word r) := by
  unfold memEffect
  try dsimp only
  repeat' first
    | with_reducible assumption
    | with_reducible apply modWave_calm
    | with_reducible apply spillPart_calm
    | with_reducible apply settle_calm
    | with_reducible apply dataStop_calm
    | with_reducible apply spillTrap_calm
    | with_reducible apply advance_calm
    | with_reducible apply ite_calm
    | with_reducible apply foldl_calm
    | (intro w h; (simpa [Wave.ok] using h))
    | (intro u x _; have := Calm.refl u)
    | split
    | with_reducible apply set_calm

theorem memIssue_calm {s₀ s : State} (h₀ : Calm s₀ s) {wi : Nat} {i : Instr} {regs : List (BitVec 7)} {r : MemReq} : Calm s₀ (memIssue s wi i regs r) := by
  unfold memIssue
  try dsimp only
  repeat' first
    | with_reducible assumption
    | with_reducible apply queueTrap_calm
    | with_reducible apply quotaTrap_calm
    | with_reducible apply issueTrap_calm
    | with_reducible apply stall_calm
    | with_reducible apply softTrap_calm
    | with_reducible apply memEffect_calm
    | with_reducible apply ite_calm
    | split

theorem loadInstr_keeps (s : State) (i : Instr) (d : BitVec 7) (a : BitVec 7) (off : Word) (width : Nat) (acq : Option Nat) : Keeps s (loadInstr s i d a off width acq) := by
  have h₀ := Calm.refl s
  unfold loadInstr
  try dsimp only
  repeat' first
    | with_reducible assumption
    | with_reducible apply begin__keeps
    | with_reducible apply memIssue_calm
    | intro wi

theorem storeInstr_keeps (s : State) (i : Instr) (d : BitVec 7) (a : BitVec 7) (off : Word) (width : Nat) (rel : Option Nat) : Keeps s (storeInstr s i d a off width rel) := by
  have h₀ := Calm.refl s
  unfold storeInstr
  try dsimp only
  repeat' first
    | with_reducible assumption
    | with_reducible apply begin__keeps
    | with_reducible apply memIssue_calm
    | intro wi

theorem execLds8_keeps (d : BitVec 7) (a : BitVec 7) (imm : BitVec 10) (s : State) : Keeps s (execLds8 d a imm s) := by
  have h₀ := Calm.refl s
  unfold execLds8
  try dsimp only
  repeat' (with_reducible apply loadInstr_keeps)

theorem execLds16_keeps (d : BitVec 7) (a : BitVec 7) (imm : BitVec 10) (s : State) : Keeps s (execLds16 d a imm s) := by
  have h₀ := Calm.refl s
  unfold execLds16
  try dsimp only
  repeat' (with_reducible apply loadInstr_keeps)

theorem execLds32_keeps (d : BitVec 7) (a : BitVec 7) (imm : BitVec 10) (s : State) : Keeps s (execLds32 d a imm s) := by
  have h₀ := Calm.refl s
  unfold execLds32
  try dsimp only
  repeat' (with_reducible apply loadInstr_keeps)

theorem execLds64_keeps (d : BitVec 7) (a : BitVec 7) (imm : BitVec 10) (s : State) : Keeps s (execLds64 d a imm s) := by
  have h₀ := Calm.refl s
  unfold execLds64
  try dsimp only
  repeat' (with_reducible apply loadInstr_keeps)

theorem execLds128_keeps (d : BitVec 7) (a : BitVec 7) (imm : BitVec 10) (s : State) : Keeps s (execLds128 d a imm s) := by
  have h₀ := Calm.refl s
  unfold execLds128
  try dsimp only
  repeat' (with_reducible apply loadInstr_keeps)

theorem execLdx8_keeps (d : BitVec 7) (a : BitVec 7) (imm : BitVec 10) (s : State) : Keeps s (execLdx8 d a imm s) := by
  have h₀ := Calm.refl s
  unfold execLdx8
  try dsimp only
  repeat' (with_reducible apply loadInstr_keeps)

theorem execLdx16_keeps (d : BitVec 7) (a : BitVec 7) (imm : BitVec 10) (s : State) : Keeps s (execLdx16 d a imm s) := by
  have h₀ := Calm.refl s
  unfold execLdx16
  try dsimp only
  repeat' (with_reducible apply loadInstr_keeps)

theorem execLdx32_keeps (d : BitVec 7) (a : BitVec 7) (imm : BitVec 10) (s : State) : Keeps s (execLdx32 d a imm s) := by
  have h₀ := Calm.refl s
  unfold execLdx32
  try dsimp only
  repeat' (with_reducible apply loadInstr_keeps)

theorem execLdx64_keeps (d : BitVec 7) (a : BitVec 7) (imm : BitVec 10) (s : State) : Keeps s (execLdx64 d a imm s) := by
  have h₀ := Calm.refl s
  unfold execLdx64
  try dsimp only
  repeat' (with_reducible apply loadInstr_keeps)

theorem execLdx128_keeps (d : BitVec 7) (a : BitVec 7) (imm : BitVec 10) (s : State) : Keeps s (execLdx128 d a imm s) := by
  have h₀ := Calm.refl s
  unfold execLdx128
  try dsimp only
  repeat' (with_reducible apply loadInstr_keeps)

theorem execSts8_keeps (d : BitVec 7) (a : BitVec 7) (imm : BitVec 10) (s : State) : Keeps s (execSts8 d a imm s) := by
  have h₀ := Calm.refl s
  unfold execSts8
  try dsimp only
  repeat' (with_reducible apply storeInstr_keeps)

theorem execSts16_keeps (d : BitVec 7) (a : BitVec 7) (imm : BitVec 10) (s : State) : Keeps s (execSts16 d a imm s) := by
  have h₀ := Calm.refl s
  unfold execSts16
  try dsimp only
  repeat' (with_reducible apply storeInstr_keeps)

theorem execSts32_keeps (d : BitVec 7) (a : BitVec 7) (imm : BitVec 10) (s : State) : Keeps s (execSts32 d a imm s) := by
  have h₀ := Calm.refl s
  unfold execSts32
  try dsimp only
  repeat' (with_reducible apply storeInstr_keeps)

theorem execSts64_keeps (d : BitVec 7) (a : BitVec 7) (imm : BitVec 10) (s : State) : Keeps s (execSts64 d a imm s) := by
  have h₀ := Calm.refl s
  unfold execSts64
  try dsimp only
  repeat' (with_reducible apply storeInstr_keeps)

theorem execSts128_keeps (d : BitVec 7) (a : BitVec 7) (imm : BitVec 10) (s : State) : Keeps s (execSts128 d a imm s) := by
  have h₀ := Calm.refl s
  unfold execSts128
  try dsimp only
  repeat' (with_reducible apply storeInstr_keeps)

theorem execStx8_keeps (d : BitVec 7) (a : BitVec 7) (imm : BitVec 10) (s : State) : Keeps s (execStx8 d a imm s) := by
  have h₀ := Calm.refl s
  unfold execStx8
  try dsimp only
  repeat' (with_reducible apply storeInstr_keeps)

theorem execStx16_keeps (d : BitVec 7) (a : BitVec 7) (imm : BitVec 10) (s : State) : Keeps s (execStx16 d a imm s) := by
  have h₀ := Calm.refl s
  unfold execStx16
  try dsimp only
  repeat' (with_reducible apply storeInstr_keeps)

theorem execStx32_keeps (d : BitVec 7) (a : BitVec 7) (imm : BitVec 10) (s : State) : Keeps s (execStx32 d a imm s) := by
  have h₀ := Calm.refl s
  unfold execStx32
  try dsimp only
  repeat' (with_reducible apply storeInstr_keeps)

theorem execStx64_keeps (d : BitVec 7) (a : BitVec 7) (imm : BitVec 10) (s : State) : Keeps s (execStx64 d a imm s) := by
  have h₀ := Calm.refl s
  unfold execStx64
  try dsimp only
  repeat' (with_reducible apply storeInstr_keeps)

theorem execStx128_keeps (d : BitVec 7) (a : BitVec 7) (imm : BitVec 10) (s : State) : Keeps s (execStx128 d a imm s) := by
  have h₀ := Calm.refl s
  unfold execStx128
  try dsimp only
  repeat' (with_reducible apply storeInstr_keeps)

theorem execLdsAcq_keeps (d : BitVec 7) (a : BitVec 7) (w : BitVec 3) (sc : BitVec 3) (s : State) : Keeps s (execLdsAcq d a w sc s) := by
  have h₀ := Calm.refl s
  unfold execLdsAcq
  try dsimp only
  repeat' (with_reducible apply loadInstr_keeps)

theorem execLdxAcq_keeps (d : BitVec 7) (a : BitVec 7) (w : BitVec 3) (sc : BitVec 3) (s : State) : Keeps s (execLdxAcq d a w sc s) := by
  have h₀ := Calm.refl s
  unfold execLdxAcq
  try dsimp only
  repeat' (with_reducible apply loadInstr_keeps)

theorem execStsRel_keeps (w : BitVec 3) (a : BitVec 7) (b : BitVec 7) (sc : BitVec 3) (s : State) : Keeps s (execStsRel w a b sc s) := by
  have h₀ := Calm.refl s
  unfold execStsRel
  try dsimp only
  repeat' (with_reducible apply storeInstr_keeps)

theorem execStxRel_keeps (w : BitVec 3) (a : BitVec 7) (b : BitVec 7) (sc : BitVec 3) (s : State) : Keeps s (execStxRel w a b sc s) := by
  have h₀ := Calm.refl s
  unfold execStxRel
  try dsimp only
  repeat' (with_reducible apply storeInstr_keeps)

theorem execSpill_keeps (d : BitVec 7) (n : BitVec 9) (s : State) : Keeps s (execSpill d n s) := by
  have h₀ := Calm.refl s
  unfold execSpill
  try dsimp only
  repeat' first
    | with_reducible assumption
    | with_reducible apply begin__keeps
    | with_reducible apply memIssue_calm
    | intro wi

theorem execFill_keeps (d : BitVec 7) (n : BitVec 9) (s : State) : Keeps s (execFill d n s) := by
  have h₀ := Calm.refl s
  unfold execFill
  try dsimp only
  repeat' first
    | with_reducible assumption
    | with_reducible apply begin__keeps
    | with_reducible apply memIssue_calm
    | intro wi

theorem atomInstr_keeps (s : State) (i : Instr) (types : List Nat) (fn : Nat) (d : BitVec 7) (a : BitVec 7) (b : BitVec 7) (sc : BitVec 3) : Keeps s (atomInstr s i types fn d a b sc) := by
  have h₀ := Calm.refl s
  unfold atomInstr
  try dsimp only
  repeat' first
    | with_reducible assumption
    | with_reducible apply begin__keeps
    | with_reducible apply ill_calm
    | with_reducible apply memIssue_calm
    | with_reducible apply ite_calm
    | intro wi

theorem execAtomAdd_keeps (d : BitVec 7) (a : BitVec 7) (b : BitVec 7) (sc : BitVec 3) (s : State) : Keeps s (execAtomAdd d a b sc s) := by
  have h₀ := Calm.refl s
  unfold execAtomAdd
  try dsimp only
  repeat' (with_reducible apply atomInstr_keeps)

theorem execAtomFadd_keeps (d : BitVec 7) (a : BitVec 7) (b : BitVec 7) (sc : BitVec 3) (s : State) : Keeps s (execAtomFadd d a b sc s) := by
  have h₀ := Calm.refl s
  unfold execAtomFadd
  try dsimp only
  repeat' (with_reducible apply atomInstr_keeps)

theorem execAtomMin_keeps (d : BitVec 7) (a : BitVec 7) (b : BitVec 7) (sc : BitVec 3) (s : State) : Keeps s (execAtomMin d a b sc s) := by
  have h₀ := Calm.refl s
  unfold execAtomMin
  try dsimp only
  repeat' (with_reducible apply atomInstr_keeps)

theorem execAtomMax_keeps (d : BitVec 7) (a : BitVec 7) (b : BitVec 7) (sc : BitVec 3) (s : State) : Keeps s (execAtomMax d a b sc s) := by
  have h₀ := Calm.refl s
  unfold execAtomMax
  try dsimp only
  repeat' (with_reducible apply atomInstr_keeps)

theorem execAtomAnd_keeps (d : BitVec 7) (a : BitVec 7) (b : BitVec 7) (sc : BitVec 3) (s : State) : Keeps s (execAtomAnd d a b sc s) := by
  have h₀ := Calm.refl s
  unfold execAtomAnd
  try dsimp only
  repeat' (with_reducible apply atomInstr_keeps)

theorem execAtomOr_keeps (d : BitVec 7) (a : BitVec 7) (b : BitVec 7) (sc : BitVec 3) (s : State) : Keeps s (execAtomOr d a b sc s) := by
  have h₀ := Calm.refl s
  unfold execAtomOr
  try dsimp only
  repeat' (with_reducible apply atomInstr_keeps)

theorem execAtomXor_keeps (d : BitVec 7) (a : BitVec 7) (b : BitVec 7) (sc : BitVec 3) (s : State) : Keeps s (execAtomXor d a b sc s) := by
  have h₀ := Calm.refl s
  unfold execAtomXor
  try dsimp only
  repeat' (with_reducible apply atomInstr_keeps)

theorem execAtomXchg_keeps (d : BitVec 7) (a : BitVec 7) (b : BitVec 7) (sc : BitVec 3) (s : State) : Keeps s (execAtomXchg d a b sc s) := by
  have h₀ := Calm.refl s
  unfold execAtomXchg
  try dsimp only
  repeat' (with_reducible apply atomInstr_keeps)

theorem execAtomCas_keeps (d : BitVec 7) (a : BitVec 7) (b : BitVec 7) (sc : BitVec 3) (s : State) : Keeps s (execAtomCas d a b sc s) := by
  have h₀ := Calm.refl s
  unfold execAtomCas
  try dsimp only
  repeat' (with_reducible apply atomInstr_keeps)

theorem execAtomInc_keeps (d : BitVec 7) (a : BitVec 7) (b : BitVec 7) (sc : BitVec 3) (s : State) : Keeps s (execAtomInc d a b sc s) := by
  have h₀ := Calm.refl s
  unfold execAtomInc
  try dsimp only
  repeat' (with_reducible apply atomInstr_keeps)

end Sys2Proof.Machine
end

