-- ==== Sys2Proof/Laws/KeptPerform.lean ====
section
/-!
SUPPORT. What the operations of Machine/Perform.lean keep.
-/

namespace Sys2Proof.Machine

theorem accessRace_calm {s₀ s : State} (h₀ : Calm s₀ s) {ai : Nat} {writes : Bool} {sync : Bool} {alt : Granule → Option Recorded} : Calm s₀ (accessRace s ai writes sync alt).1 := by
  unfold accessRace
  try dsimp only
  repeat' first | with_reducible assumption | with_reducible apply raceAccess_calm

theorem accessRace_calm_of {s₀ s : State} (h₀ : Calm s₀ s) {ai : Nat} {writes : Bool} {sync : Bool} {alt : Granule → Option Recorded} {t : State} {x} (h : accessRace s ai writes sync alt = (t, x)) : Calm s₀ t := by
  have := accessRace_calm h₀ (ai := ai) (writes := writes) (sync := sync) (alt := alt); rw [h] at this; exact this

theorem raceTrap_calm {s₀ s : State} (h₀ : Calm s₀ s) {ai : Nat} {r : Refused} : Calm s₀ (raceTrap s ai r) := by
  unfold raceTrap
  try dsimp only
  repeat' first | with_reducible assumption | with_reducible apply accessTrap_calm

theorem attachRec_calm {s₀ s : State} (h₀ : Calm s₀ s) {ai : Nat} {r : SyncRec} : Calm s₀ (attachRec s ai r) := by
  unfold attachRec
  try dsimp only
  repeat' first
    | with_reducible assumption
    | with_reducible apply setSyncRec_calm
    | with_reducible apply foldl_calm
    | (intro u x _; have := Calm.refl u)

theorem acquire_calm {s₀ s : State} (h₀ : Calm s₀ s) {wi : Nat} {r : Option SyncRec} {sync : Bool} : Calm s₀ (acquire s wi r sync) := by
  unfold acquire
  try dsimp only
  repeat' first
    | with_reducible assumption
    | with_reducible apply modWave_calm
    | with_reducible apply ite_calm
    | (intro w h; exact h)
    | split

theorem acquireAll_calm {s₀ s : State} (h₀ : Calm s₀ s) {ai : Nat} {alt : Granule → Option (Option SyncRec)} : Calm s₀ (acquireAll s ai alt) := by
  unfold acquireAll
  try dsimp only
  repeat' first
    | with_reducible assumption
    | with_reducible apply acquire_calm
    | with_reducible apply foldl_calm
    | (intro u x _; have := Calm.refl u)
    | split

theorem appendStore_calm {s₀ s : State} (h₀ : Calm s₀ s) {ai : Nat} : Calm s₀ (appendStore s ai) := by
  unfold appendStore
  try dsimp only
  repeat' first
    | with_reducible assumption
    | with_reducible apply accessTrap_calm
    | with_reducible apply raceTrap_calm
    | with_reducible apply append_calm
    | with_reducible apply attachRec_calm
    | with_reducible apply settle_calm
    | with_reducible apply modAcc_calm
    | split
    | with_reducible refine accessRace_calm_of ?_ (by assumption)

theorem parkOn_calm {s₀ s : State} (h₀ : Calm s₀ s) {ai : Nat} : Calm s₀ (parkOn s ai) := by
  unfold parkOn
  try dsimp only
  repeat' first
    | with_reducible assumption
    | with_reducible apply modWave_calm
    | (intro w h; (split <;> first | exact h | exact ⟨h.1, h.2, h.3, h.4, h.5, h.6⟩ | simpa [Wave.ok] using h))

theorem unpark_calm {s₀ s : State} (h₀ : Calm s₀ s) {ai : Nat} : Calm s₀ (unpark s ai) := by
  unfold unpark
  try dsimp only
  repeat' first
    | with_reducible assumption
    | with_reducible apply traceWake_calm
    | with_reducible apply modWave_calm
    | with_reducible apply ite_calm
    | (intro w h; exact h)

theorem readHome_calm {s₀ s : State} (h₀ : Calm s₀ s) {ai : Nat} {sync : Bool} : Calm s₀ (readHome s ai sync).1 := by
  unfold readHome
  try dsimp only
  repeat' first
    | with_reducible assumption
    | with_reducible apply accessTrap_calm
    | with_reducible apply raceTrap_calm
    | with_reducible apply acquireAll_calm
    | with_reducible apply ite_calm
    | split
    | with_reducible refine accessRace_calm_of ?_ (by assumption)

theorem readHome_calm_of {s₀ s : State} (h₀ : Calm s₀ s) {ai : Nat} {sync : Bool} {t : State} {x} (h : readHome s ai sync = (t, x)) : Calm s₀ t := by
  have := readHome_calm h₀ (ai := ai) (sync := sync); rw [h] at this; exact this

theorem atomicHome_calm {s₀ s : State} (h₀ : Calm s₀ s) {ai : Nat} : Calm s₀ (atomicHome s ai) := by
  unfold atomicHome
  try dsimp only
  repeat' first
    | with_reducible assumption
    | with_reducible apply accessTrap_calm
    | with_reducible apply raceTrap_calm
    | with_reducible apply acquireAll_calm
    | with_reducible apply modWave_calm
    | with_reducible apply attachRec_calm
    | with_reducible apply atomicApply_calm
    | with_reducible apply settle_calm
    | with_reducible apply modAcc_calm
    | with_reducible apply unpark_calm
    | with_reducible apply ite_calm
    | (intro w h; exact h)
    | split
    | with_reducible refine accessRace_calm_of ?_ (by assumption)

end Sys2Proof.Machine
end

