-- ==== Sys2Proof/Laws/KeptLaunch.lean ====
section
/-!
SUPPORT. What the operations of Machine/Launch.lean keep.
-/

namespace Sys2Proof.Machine

theorem queueRecord_calm {s₀ s : State} (h₀ : Calm s₀ s) {u : Queuer} {bs : Bytes} : Calm s₀ (queueRecord s u bs).1 := by
  unfold queueRecord
  try dsimp only
  repeat' first
    | with_reducible assumption
    | with_reducible apply modVi_calm
    | (intro w h; exact h)
    | split
    | with_reducible apply set_calm

theorem queueRecord_calm_of {s₀ s : State} (h₀ : Calm s₀ s) {u : Queuer} {bs : Bytes} {t : State} {x} (h : queueRecord s u bs = (t, x)) : Calm s₀ t := by
  have := queueRecord_calm h₀ (u := u) (bs := bs); rw [h] at this; exact this

theorem launchRecord_calm {s₀ s : State} (h₀ : Calm s₀ s) {ai : Nat} {bs : Bytes} : Calm s₀ (launchRecord s ai bs) := by
  unfold launchRecord
  try dsimp only
  repeat' first
    | with_reducible assumption
    | with_reducible apply queueRecord_calm
    | with_reducible apply launchDone_calm
    | split

end Sys2Proof.Machine
end

