-- ==== Sys2Proof/Laws/KeptConvert.lean ====
section
/-!
SUPPORT. What the operations of Machine/Convert.lean keep.
-/

namespace Sys2Proof.Machine

theorem sfuInstr_keeps (s : State) (i : Instr) (fn : SfuFn) (types : List Nat) (d : BitVec 7) (a : BitVec 7) : Keeps s (sfuInstr s i fn types d a) := by
  have h₀ := Calm.refl s
  unfold sfuInstr
  try dsimp only
  repeat' (with_reducible apply typedInstr_keeps)

theorem execRcp_keeps (d : BitVec 7) (a : BitVec 7) (s : State) : Keeps s (execRcp d a s) := by
  have h₀ := Calm.refl s
  unfold execRcp
  try dsimp only
  repeat' (with_reducible apply sfuInstr_keeps)

theorem execRsq_keeps (d : BitVec 7) (a : BitVec 7) (s : State) : Keeps s (execRsq d a s) := by
  have h₀ := Calm.refl s
  unfold execRsq
  try dsimp only
  repeat' (with_reducible apply sfuInstr_keeps)

theorem execSqrt_keeps (d : BitVec 7) (a : BitVec 7) (s : State) : Keeps s (execSqrt d a s) := by
  have h₀ := Calm.refl s
  unfold execSqrt
  try dsimp only
  repeat' (with_reducible apply sfuInstr_keeps)

theorem execEx2_keeps (d : BitVec 7) (a : BitVec 7) (s : State) : Keeps s (execEx2 d a s) := by
  have h₀ := Calm.refl s
  unfold execEx2
  try dsimp only
  repeat' (with_reducible apply sfuInstr_keeps)

theorem execLg2_keeps (d : BitVec 7) (a : BitVec 7) (s : State) : Keeps s (execLg2 d a s) := by
  have h₀ := Calm.refl s
  unfold execLg2
  try dsimp only
  repeat' (with_reducible apply sfuInstr_keeps)

theorem execSinpi_keeps (d : BitVec 7) (a : BitVec 7) (s : State) : Keeps s (execSinpi d a s) := by
  have h₀ := Calm.refl s
  unfold execSinpi
  try dsimp only
  repeat' (with_reducible apply sfuInstr_keeps)

theorem execCospi_keeps (d : BitVec 7) (a : BitVec 7) (s : State) : Keeps s (execCospi d a s) := by
  have h₀ := Calm.refl s
  unfold execCospi
  try dsimp only
  repeat' (with_reducible apply sfuInstr_keeps)

theorem execTanh_keeps (d : BitVec 7) (a : BitVec 7) (s : State) : Keeps s (execTanh d a s) := by
  have h₀ := Calm.refl s
  unfold execTanh
  try dsimp only
  repeat' (with_reducible apply sfuInstr_keeps)

theorem cvtInstr_keeps (s : State) (i : Instr) (d : BitVec 7) (a : BitVec 7) (f : BitVec 16 → Word → Word × Nat) : Keeps s (cvtInstr s i d a f) := by
  have h₀ := Calm.refl s
  unfold cvtInstr
  try dsimp only
  repeat' (with_reducible apply laneFree_keeps)

theorem execCvtF32I32_keeps (d : BitVec 7) (a : BitVec 7) (s : State) : Keeps s (execCvtF32I32 d a s) := by
  have h₀ := Calm.refl s
  unfold execCvtF32I32
  try dsimp only
  repeat' (with_reducible apply cvtInstr_keeps)

theorem execCvtF32U32_keeps (d : BitVec 7) (a : BitVec 7) (s : State) : Keeps s (execCvtF32U32 d a s) := by
  have h₀ := Calm.refl s
  unfold execCvtF32U32
  try dsimp only
  repeat' (with_reducible apply cvtInstr_keeps)

theorem execCvtI32F32_keeps (d : BitVec 7) (a : BitVec 7) (s : State) : Keeps s (execCvtI32F32 d a s) := by
  have h₀ := Calm.refl s
  unfold execCvtI32F32
  try dsimp only
  repeat' (with_reducible apply cvtInstr_keeps)

theorem execCvtU32F32_keeps (d : BitVec 7) (a : BitVec 7) (s : State) : Keeps s (execCvtU32F32 d a s) := by
  have h₀ := Calm.refl s
  unfold execCvtU32F32
  try dsimp only
  repeat' (with_reducible apply cvtInstr_keeps)

theorem execCvtF32F16_keeps (d : BitVec 7) (a : BitVec 7) (s : State) : Keeps s (execCvtF32F16 d a s) := by
  have h₀ := Calm.refl s
  unfold execCvtF32F16
  try dsimp only
  repeat' (with_reducible apply cvtInstr_keeps)

theorem execCvtF32F16h_keeps (d : BitVec 7) (a : BitVec 7) (s : State) : Keeps s (execCvtF32F16h d a s) := by
  have h₀ := Calm.refl s
  unfold execCvtF32F16h
  try dsimp only
  repeat' (with_reducible apply cvtInstr_keeps)

theorem execCvtF16x2F32_keeps (d : BitVec 7) (a : BitVec 7) (b : BitVec 7) (s : State) : Keeps s (execCvtF16x2F32 d a b s) := by
  have h₀ := Calm.refl s
  unfold execCvtF16x2F32
  try dsimp only
  repeat' (with_reducible apply laneFree_keeps)

theorem cvtToPair_keeps (s : State) (i : Instr) (d : BitVec 7) (a : BitVec 7) (f : BitVec 16 → Word → Nat × Nat) : Keeps s (cvtToPair s i d a f) := by
  have h₀ := Calm.refl s
  unfold cvtToPair
  try dsimp only
  repeat' (with_reducible apply laneFree_keeps)

theorem cvtFromPair_keeps (s : State) (i : Instr) (d : BitVec 7) (a : BitVec 7) (f : BitVec 16 → FVal → Word × Nat) : Keeps s (cvtFromPair s i d a f) := by
  have h₀ := Calm.refl s
  unfold cvtFromPair
  try dsimp only
  repeat' (with_reducible apply laneFree_keeps)

theorem execCvtF64F32_keeps (d : BitVec 7) (a : BitVec 7) (s : State) : Keeps s (execCvtF64F32 d a s) := by
  have h₀ := Calm.refl s
  unfold execCvtF64F32
  try dsimp only
  repeat' (with_reducible apply cvtToPair_keeps)

theorem execCvtF64I32_keeps (d : BitVec 7) (a : BitVec 7) (s : State) : Keeps s (execCvtF64I32 d a s) := by
  have h₀ := Calm.refl s
  unfold execCvtF64I32
  try dsimp only
  repeat' (with_reducible apply cvtToPair_keeps)

theorem execCvtF64U32_keeps (d : BitVec 7) (a : BitVec 7) (s : State) : Keeps s (execCvtF64U32 d a s) := by
  have h₀ := Calm.refl s
  unfold execCvtF64U32
  try dsimp only
  repeat' (with_reducible apply cvtToPair_keeps)

theorem execCvtF32F64_keeps (d : BitVec 7) (a : BitVec 7) (s : State) : Keeps s (execCvtF32F64 d a s) := by
  have h₀ := Calm.refl s
  unfold execCvtF32F64
  try dsimp only
  repeat' (with_reducible apply cvtFromPair_keeps)

theorem execCvtI32F64_keeps (d : BitVec 7) (a : BitVec 7) (s : State) : Keeps s (execCvtI32F64 d a s) := by
  have h₀ := Calm.refl s
  unfold execCvtI32F64
  try dsimp only
  repeat' (with_reducible apply cvtFromPair_keeps)

theorem execCvtU32F64_keeps (d : BitVec 7) (a : BitVec 7) (s : State) : Keeps s (execCvtU32F64 d a s) := by
  have h₀ := Calm.refl s
  unfold execCvtU32F64
  try dsimp only
  repeat' (with_reducible apply cvtFromPair_keeps)

theorem execScl_keeps (d : BitVec 7) (a : BitVec 7) (b : BitVec 7) (sb : BitVec 2) (s : State) : Keeps s (execScl d a b sb s) := by
  have h₀ := Calm.refl s
  unfold execScl
  try dsimp only
  repeat' first | with_reducible apply laneInstr_keeps | with_reducible apply onWave_keeps | intro wi

theorem packInstr_keeps (s : State) (i : Instr) (d : BitVec 7) (a : BitVec 7) (b : BitVec 7) (f : FFmt) (width : Nat) : Keeps s (packInstr s i d a b f width) := by
  have h₀ := Calm.refl s
  unfold packInstr
  try dsimp only
  repeat' (with_reducible apply laneFree_keeps)

theorem execCvtE4m3F32_keeps (d : BitVec 7) (a : BitVec 7) (b : BitVec 7) (s : State) : Keeps s (execCvtE4m3F32 d a b s) := by
  have h₀ := Calm.refl s
  unfold execCvtE4m3F32
  try dsimp only
  repeat' (with_reducible apply packInstr_keeps)

theorem execCvtE5m2F32_keeps (d : BitVec 7) (a : BitVec 7) (b : BitVec 7) (s : State) : Keeps s (execCvtE5m2F32 d a b s) := by
  have h₀ := Calm.refl s
  unfold execCvtE5m2F32
  try dsimp only
  repeat' (with_reducible apply packInstr_keeps)

theorem execCvtE2m1F32_keeps (d : BitVec 7) (a : BitVec 7) (b : BitVec 7) (s : State) : Keeps s (execCvtE2m1F32 d a b s) := by
  have h₀ := Calm.refl s
  unfold execCvtE2m1F32
  try dsimp only
  repeat' (with_reducible apply packInstr_keeps)

theorem execCvtBf16x2F32_keeps (d : BitVec 7) (a : BitVec 7) (b : BitVec 7) (s : State) : Keeps s (execCvtBf16x2F32 d a b s) := by
  have h₀ := Calm.refl s
  unfold execCvtBf16x2F32
  try dsimp only
  repeat' (with_reducible apply laneFree_keeps)

theorem unpackInstr_keeps (s : State) (i : Instr) (d : BitVec 7) (a : BitVec 7) (b : BitVec 7) (f : FFmt) (width : Nat) (n : Nat) : Keeps s (unpackInstr s i d a b f width n) := by
  have h₀ := Calm.refl s
  unfold unpackInstr
  try dsimp only
  repeat' (with_reducible apply laneFree_keeps)

theorem execCvtF32E4m3_keeps (d : BitVec 7) (a : BitVec 7) (b : BitVec 7) (s : State) : Keeps s (execCvtF32E4m3 d a b s) := by
  have h₀ := Calm.refl s
  unfold execCvtF32E4m3
  try dsimp only
  repeat' (with_reducible apply unpackInstr_keeps)

theorem execCvtF32E5m2_keeps (d : BitVec 7) (a : BitVec 7) (b : BitVec 7) (s : State) : Keeps s (execCvtF32E5m2 d a b s) := by
  have h₀ := Calm.refl s
  unfold execCvtF32E5m2
  try dsimp only
  repeat' (with_reducible apply unpackInstr_keeps)

theorem execCvtF32E2m1_keeps (d : BitVec 7) (a : BitVec 7) (b : BitVec 7) (s : State) : Keeps s (execCvtF32E2m1 d a b s) := by
  have h₀ := Calm.refl s
  unfold execCvtF32E2m1
  try dsimp only
  repeat' (with_reducible apply unpackInstr_keeps)

theorem execCvtF32Bf16x2_keeps (d : BitVec 7) (a : BitVec 7) (b : BitVec 7) (s : State) : Keeps s (execCvtF32Bf16x2 d a b s) := by
  have h₀ := Calm.refl s
  unfold execCvtF32Bf16x2
  try dsimp only
  repeat' (with_reducible apply unpackInstr_keeps)

theorem dotInt_keeps (s : State) (i : Instr) (d : BitVec 7) (a : BitVec 7) (b : BitVec 7) (width : Nat) (n : Nat) (signed : Bool) : Keeps s (dotInt s i d a b width n signed) := by
  have h₀ := Calm.refl s
  unfold dotInt
  try dsimp only
  repeat' (with_reducible apply laneFree_keeps)

theorem execDot4I8_keeps (d : BitVec 7) (a : BitVec 7) (b : BitVec 7) (s : State) : Keeps s (execDot4I8 d a b s) := by
  have h₀ := Calm.refl s
  unfold execDot4I8
  try dsimp only
  repeat' (with_reducible apply dotInt_keeps)

theorem execDot4U8_keeps (d : BitVec 7) (a : BitVec 7) (b : BitVec 7) (s : State) : Keeps s (execDot4U8 d a b s) := by
  have h₀ := Calm.refl s
  unfold execDot4U8
  try dsimp only
  repeat' (with_reducible apply dotInt_keeps)

theorem execDot8I4_keeps (d : BitVec 7) (a : BitVec 7) (b : BitVec 7) (s : State) : Keeps s (execDot8I4 d a b s) := by
  have h₀ := Calm.refl s
  unfold execDot8I4
  try dsimp only
  repeat' (with_reducible apply dotInt_keeps)

theorem dotFloat_keeps (s : State) (i : Instr) (d : BitVec 7) (a : BitVec 7) (b : BitVec 7) (fa : FFmt) (fb : FFmt) (width : Nat) (n : Nat) : Keeps s (dotFloat s i d a b fa fb width n) := by
  have h₀ := Calm.refl s
  unfold dotFloat
  try dsimp only
  repeat' (with_reducible apply laneFree_keeps)

theorem execDot4F8_keeps (d : BitVec 7) (a : BitVec 7) (b : BitVec 7) (p : BitVec 2) (s : State) : Keeps s (execDot4F8 d a b p s) := by
  have h₀ := Calm.refl s
  unfold execDot4F8
  try dsimp only
  repeat' (with_reducible apply dotFloat_keeps)

theorem execDot8F4_keeps (d : BitVec 7) (a : BitVec 7) (b : BitVec 7) (s : State) : Keeps s (execDot8F4 d a b s) := by
  have h₀ := Calm.refl s
  unfold execDot8F4
  try dsimp only
  repeat' (with_reducible apply dotFloat_keeps)

theorem execT3x_keeps (d : BitVec 7) (a : BitVec 7) (q : BitVec 3) (s : State) : Keeps s (execT3x d a q s) := by
  have h₀ := Calm.refl s
  unfold execT3x
  try dsimp only
  repeat' (with_reducible apply laneFree_keeps)

theorem execT3pk_keeps (d : BitVec 7) (a : BitVec 7) (q : BitVec 3) (s : State) : Keeps s (execT3pk d a q s) := by
  have h₀ := Calm.refl s
  unfold execT3pk
  try dsimp only
  repeat' (with_reducible apply laneFree_keeps)

end Sys2Proof.Machine
end

