-- ==== Sys2Proof/Laws/KeptTensor.lean ====
section
/-!
SUPPORT. What the operations of Machine/Tensor.lean keep.
-/

namespace Sys2Proof.Machine

theorem feedStage_calm {s₀ s : State} (h₀ : Calm s₀ s) {p : PartRef} : Calm s₀ (feedStage s p) := by
  unfold feedStage
  try dsimp only
  repeat' first
    | with_reducible assumption
    | with_reducible apply modTile_calm
    | with_reducible apply ite_calm
    | split

theorem startTile_calm {s₀ s : State} (h₀ : Calm s₀ s) {p : PartRef} {at_ : Nat} : Calm s₀ (startTile s p at_) := by
  unfold startTile
  try dsimp only
  repeat' first
    | with_reducible assumption
    | with_reducible apply modTile_calm
    | with_reducible apply feedStage_calm
    | with_reducible apply modCore_calm
    | with_reducible apply ite_calm
    | split

theorem denseHold_calm {s₀ s : State} (h₀ : Calm s₀ s) {p : PartRef} : Calm s₀ (denseHold s p).1 := by
  unfold denseHold
  try dsimp only
  repeat' first
    | with_reducible assumption
    | with_reducible apply modCluster_calm
    | (intro w h; exact ⟨h.1, h.2, h.3, h.4, h.5, h.6⟩)
    | split

theorem denseHold_calm_of {s₀ s : State} (h₀ : Calm s₀ s) {p : PartRef} {t : State} {x} (h : denseHold s p = (t, x)) : Calm s₀ t := by
  have := denseHold_calm h₀ (p := p); rw [h] at this; exact this

theorem tileEffect_calm {s₀ s : State} (h₀ : Calm s₀ s) {wi : Nat} {word : Word} {r : TileReq} {accs : Nat → List Machine.Acc} {log : Option Reg} {st : TileState} : Calm s₀ (tileEffect s wi word r accs log st) := by
  unfold tileEffect
  try dsimp only
  repeat' first
    | with_reducible assumption
    | with_reducible apply modWave_calm
    | with_reducible apply startTile_calm
    | (intro w h; exact h)
    | split
    | with_reducible apply set_calm

theorem mmaInstr_keeps (s : State) (i : Instr) (r : TileReq) : Keeps s (mmaInstr s i r) := by
  have h₀ := Calm.refl s
  unfold mmaInstr
  try dsimp only
  repeat' first
    | with_reducible assumption
    | with_reducible apply begin__keeps
    | with_reducible apply queueTrap_calm
    | with_reducible apply quotaTrap_calm
    | with_reducible apply stall_calm
    | with_reducible apply softTrap_calm
    | with_reducible apply advance_calm
    | with_reducible apply tileEffect_calm
    | with_reducible apply ite_calm
    | intro wi
    | split
    | with_reducible refine denseHold_calm_of ?_ (by assumption)

theorem execMmaF8_keeps (d : BitVec 4) (a : BitVec 4) (b : BitVec 4) (p : BitVec 2) (s : State) : Keeps s (execMmaF8 d a b p s) := by
  have h₀ := Calm.refl s
  unfold execMmaF8
  try dsimp only
  repeat' (with_reducible apply mmaInstr_keeps)

theorem execMmaI8_keeps (d : BitVec 4) (a : BitVec 4) (b : BitVec 4) (g : BitVec 2) (s : State) : Keeps s (execMmaI8 d a b g s) := by
  have h₀ := Calm.refl s
  unfold execMmaI8
  try dsimp only
  repeat' (with_reducible apply mmaInstr_keeps)

theorem execMmaBf16_keeps (d : BitVec 4) (a : BitVec 4) (b : BitVec 4) (s : State) : Keeps s (execMmaBf16 d a b s) := by
  have h₀ := Calm.refl s
  unfold execMmaBf16
  try dsimp only
  repeat' (with_reducible apply mmaInstr_keeps)

theorem execMmaF16_keeps (d : BitVec 4) (a : BitVec 4) (b : BitVec 4) (s : State) : Keeps s (execMmaF16 d a b s) := by
  have h₀ := Calm.refl s
  unfold execMmaF16
  try dsimp only
  repeat' (with_reducible apply mmaInstr_keeps)

theorem execMmaMxf8_keeps (d : BitVec 4) (a : BitVec 4) (b : BitVec 4) (xs : BitVec 7) (sel : BitVec 2) (p : BitVec 2) (s : State) : Keeps s (execMmaMxf8 d a b xs sel p s) := by
  have h₀ := Calm.refl s
  unfold execMmaMxf8
  try dsimp only
  repeat' (with_reducible apply mmaInstr_keeps)

theorem execMmaMxf4_keeps (d : BitVec 4) (a : BitVec 4) (b : BitVec 4) (xs : BitVec 7) (sel : BitVec 2) (s : State) : Keeps s (execMmaMxf4 d a b xs sel s) := by
  have h₀ := Calm.refl s
  unfold execMmaMxf4
  try dsimp only
  repeat' (with_reducible apply mmaInstr_keeps)

theorem execMmz_keeps (d : BitVec 4) (s : State) : Keeps s (execMmz d s) := by
  have h₀ := Calm.refl s
  unfold execMmz
  try dsimp only
  repeat' first
    | with_reducible assumption
    | with_reducible apply begin__keeps
    | with_reducible apply queueTrap_calm
    | with_reducible apply advance_calm
    | with_reducible apply tileEffect_calm
    | with_reducible apply ite_calm
    | intro wi

theorem execGmma_keeps (d : BitVec 4) (b : BitVec 4) (xs : BitVec 7) (p : BitVec 2) (s : State) : Keeps s (execGmma d b xs p s) := by
  have h₀ := Calm.refl s
  unfold execGmma
  try dsimp only
  repeat' first
    | with_reducible assumption
    | with_reducible apply begin__keeps
    | with_reducible apply queueTrap_calm
    | with_reducible apply quotaTrap_calm
    | with_reducible apply issueTrap_calm
    | with_reducible apply stall_calm
    | with_reducible apply softTrap_calm
    | with_reducible apply advance_calm
    | with_reducible apply tileEffect_calm
    | with_reducible apply ite_calm
    | intro wi
    | split
    | with_reducible refine denseHold_calm_of ?_ (by assumption)

theorem gatherDone_calm {s₀ s : State} (h₀ : Calm s₀ s) {oi : Nat} {got : List (Nat × Bytes)} : Calm s₀ (gatherDone s oi got) := by
  unfold gatherDone
  try dsimp only
  repeat' first
    | with_reducible assumption
    | with_reducible apply modOp_calm
    | with_reducible apply startTile_calm
    | with_reducible apply modTile_calm
    | split

theorem tileTrap_calm {s₀ s : State} (h₀ : Calm s₀ s) {ti : Nat} {code : Nat} {flags : List Nat} : Calm s₀ (tileTrap s ti code flags) := by
  unfold tileTrap
  try dsimp only
  repeat' first
    | with_reducible assumption
    | with_reducible apply modWave_calm
    | with_reducible apply takeTrap_calm
    | with_reducible apply ite_calm
    | (intro w h; first | exact h | (simpa [Wave.ok] using h))

theorem tileWrite_calm {s₀ s : State} (h₀ : Calm s₀ s) {ti : Nat} : Calm s₀ (tileWrite s ti) := by
  unfold tileWrite
  try dsimp only
  repeat' first
    | with_reducible assumption
    | with_reducible apply modTile_calm
    | with_reducible apply modWave_calm
    | with_reducible apply tileTrap_calm
    | with_reducible apply countDown_calm
    | with_reducible apply putAll_calm
    | with_reducible apply orFstat_calm
    | with_reducible apply tileOver_calm
    | with_reducible apply ite_calm
    | (intro w h; exact h)
    | split
    | with_reducible apply set_calm

theorem tileRerun_calm {s₀ s : State} (h₀ : Calm s₀ s) {ti : Nat} : Calm s₀ (tileRerun s ti) := by
  unfold tileRerun
  try dsimp only
  repeat' first
    | with_reducible assumption
    | with_reducible apply modWave_calm
    | with_reducible apply modOp_calm
    | with_reducible apply startTile_calm
    | with_reducible apply feedStage_calm
    | with_reducible apply modTile_calm
    | (intro w h; exact h)

theorem tileDrop_calm {s₀ s : State} (h₀ : Calm s₀ s) {ti : Nat} : Calm s₀ (tileDrop s ti) := by
  unfold tileDrop
  try dsimp only
  repeat' first
    | with_reducible assumption
    | with_reducible apply releaseLog_calm
    | with_reducible apply modTile_calm
    | with_reducible apply set_calm

theorem tileDue_calm {s₀ s : State} (h₀ : Calm s₀ s) {ti : Nat} : Calm s₀ (tileDue s ti) := by
  unfold tileDue
  try dsimp only
  repeat' first
    | with_reducible assumption
    | with_reducible apply tileWrite_calm
    | with_reducible apply ite_calm
    | split

theorem execTileComplete_keeps (ti : Nat) (s : State) : Keeps s (execTileComplete ti s) := by
  have h₀ := Calm.refl s
  unfold execTileComplete
  try dsimp only
  repeat' first | with_reducible assumption | with_reducible apply tileDue_calm | with_reducible apply next_keeps

theorem tensorEnd_calm {s₀ s : State} (h₀ : Calm s₀ s) {p : PartRef} : Calm s₀ (tensorEnd s p) := by
  unfold tensorEnd
  try dsimp only
  repeat' first
    | with_reducible assumption
    | with_reducible apply startTile_calm
    | with_reducible apply modPart_calm
    | with_reducible apply modTile_calm
    | with_reducible apply ite_calm
    | split

theorem tilesDue_calm {s₀ s : State} (h₀ : Calm s₀ s) {p : PartRef} : Calm s₀ (tilesDue s p) := by
  unfold tilesDue
  try dsimp only
  repeat' first
    | with_reducible assumption
    | with_reducible apply tileDue_calm
    | with_reducible apply tensorEnd_calm
    | with_reducible apply ite_calm
    | with_reducible apply foldl_calm
    | (intro u x _; have := Calm.refl u)

theorem execOccupancyEnd_keeps (p : PartRef) (u : ExecUnit) (s : State) : Keeps s (execOccupancyEnd p u s) := by
  have h₀ := Calm.refl s
  unfold execOccupancyEnd
  try dsimp only
  repeat' first
    | with_reducible assumption
    | with_reducible apply tensorEnd_calm
    | with_reducible apply modPart_calm
    | with_reducible apply ite_calm
    | with_reducible apply next_keeps
    | split

end Sys2Proof.Machine
end

