-- ==== Sys2Proof/Laws/KeptResolve.lean ====
section
/-!
SUPPORT. What the operations of Machine/Resolve.lean keep.
-/

namespace Sys2Proof.Machine

theorem heldTrap_calm {s₀ s : State} (h₀ : Calm s₀ s) {x1 : TrapWhat} : Calm s₀ (heldTrap s x1) := by
  unfold heldTrap
  try dsimp only
  repeat' first
    | with_reducible assumption
    | with_reducible apply accessTrap_calm
    | with_reducible apply tileTrap_calm
    | split

theorem takeHeld_calm {s₀ s : State} (h₀ : Calm s₀ s) {wi : Nat} : Calm s₀ (takeHeld s wi) := by
  unfold takeHeld
  try dsimp only
  repeat' first
    | with_reducible assumption
    | with_reducible apply heldTrap_calm
    | with_reducible apply modWave_calm
    | (intro w h; first | exact h | (simpa [Wave.ok] using h))
    | split

theorem resolveAccess_calm {s₀ s : State} (h₀ : Calm s₀ s) {wi : Nat} {skip : Bool} : Calm s₀ (resolveAccess s wi skip) := by
  unfold resolveAccess
  try dsimp only
  repeat' first
    | with_reducible assumption
    | with_reducible apply dropAcc_calm
    | with_reducible apply reissue_calm
    | with_reducible apply tileDrop_calm
    | with_reducible apply tileRerun_calm
    | with_reducible apply ite_calm
    | split

theorem skipWait_calm {s₀ s : State} (h₀ : Calm s₀ s) {wi : Nat} : Calm s₀ (skipWait s wi) := by
  unfold skipWait
  try dsimp only
  repeat' first
    | with_reducible assumption
    | with_reducible apply modBlock_calm
    | with_reducible apply modWave_calm
    | with_reducible apply ite_calm
    | (intro w h; exact h)

theorem resolve_calm {s₀ s : State} (h₀ : Calm s₀ s) {wi : Nat} {how : Resolution} : Calm s₀ (resolve s wi how) := by
  unfold resolve
  try dsimp only
  repeat' first
    | with_reducible assumption
    | with_reducible apply leaveTrap_calm
    | with_reducible apply skipWait_calm
    | with_reducible apply resolveAccess_calm
    | with_reducible apply takeHeld_calm
    | with_reducible apply ite_calm
    | split

theorem trapInstr_keeps {s : State} {i : Instr} {regs : List (BitVec 7)} {f : Nat → State} (h : ∀ wi, Calm s (f wi)) :
    Keeps s (trapInstr s i regs f) := by
  have h₀ := Calm.refl s
  unfold trapInstr
  apply begin__keeps
  intro wi
  split
  · exact h wi
  · exact ill_calm h₀

theorem execTret_keeps (s : State) : Keeps s (execTret s) := by
  have h₀ := Calm.refl s
  unfold execTret
  try dsimp only
  repeat' first
    | with_reducible assumption
    | with_reducible apply trapInstr_keeps
    | with_reducible apply ill_calm
    | with_reducible apply resolve_calm
    | with_reducible apply ite_calm
    | intro wi

theorem execRetry_keeps (s : State) : Keeps s (execRetry s) := by
  have h₀ := Calm.refl s
  unfold execRetry
  try dsimp only
  repeat' first
    | with_reducible assumption
    | with_reducible apply trapInstr_keeps
    | with_reducible apply issueTrap_calm
    | with_reducible apply resolve_calm
    | with_reducible apply ite_calm
    | intro wi

theorem execSkip_keeps (s : State) : Keeps s (execSkip s) := by
  have h₀ := Calm.refl s
  unfold execSkip
  try dsimp only
  repeat' first
    | with_reducible assumption
    | with_reducible apply trapInstr_keeps
    | with_reducible apply resolve_calm
    | intro wi

theorem putU_calm {s₀ s : State} (h₀ : Calm s₀ s) {wi : Nat} {d : BitVec 7} {x : Word} : Calm s₀ (putU s wi d x) := by
  unfold putU
  try dsimp only
  repeat' first
    | with_reducible assumption
    | with_reducible apply modWave_calm
    | (intro w h; first | exact h | exact put_ok h)

theorem execTrd_keeps (d : BitVec 7) (n : BitVec 6) (s : State) : Keeps s (execTrd d n s) := by
  have h₀ := Calm.refl s
  unfold execTrd
  try dsimp only
  repeat' first
    | with_reducible assumption
    | with_reducible apply trapInstr_keeps
    | with_reducible apply advance_calm
    | with_reducible apply putU_calm
    | intro wi

end Sys2Proof.Machine
end

