-- ==== Sys2Proof/Laws/KeptControl.lean ====
section
/-!
SUPPORT. What the operations of Machine/Control.lean keep.
-/

namespace Sys2Proof.Machine

theorem goto_calm {s₀ s : State} (h₀ : Calm s₀ s) {wi : Nat} {pc : Word} : Calm s₀ (goto s wi pc) := by
  unfold goto
  try dsimp only
  repeat' first
    | with_reducible assumption
    | with_reducible apply modWave_calm
    | with_reducible apply advance_calm
    | (intro w h; exact h)

theorem execNop_keeps (s : State) : Keeps s (execNop s) := by
  have h₀ := Calm.refl s
  unfold execNop
  try dsimp only
  repeat' first | with_reducible assumption | with_reducible apply begin__keeps | with_reducible apply advance_calm

theorem execBr_keeps (c : BitVec 5) (off : BitVec 19) (s : State) : Keeps s (execBr c off s) := by
  have h₀ := Calm.refl s
  unfold execBr
  try dsimp only
  repeat' first
    | with_reducible assumption
    | with_reducible apply begin__keeps
    | with_reducible apply emitBranch_calm
    | with_reducible apply goto_calm
    | with_reducible apply ite_calm
    | intro wi

theorem jumpTo_keeps (s : State) (i : Instr) (a : BitVec 7) : Keeps s (jumpTo s i a) := by
  have h₀ := Calm.refl s
  unfold jumpTo
  try dsimp only
  repeat' first
    | with_reducible assumption
    | with_reducible apply begin__keeps
    | with_reducible apply softTrap_calm
    | with_reducible apply goto_calm
    | with_reducible apply emitTarget_calm
    | with_reducible apply ite_calm
    | intro wi

theorem execJmp_keeps (a : BitVec 7) (s : State) : Keeps s (execJmp a s) := by
  have h₀ := Calm.refl s
  unfold execJmp
  try dsimp only
  repeat' (with_reducible apply jumpTo_keeps)

theorem execRet_keeps (a : BitVec 7) (s : State) : Keeps s (execRet a s) := by
  have h₀ := Calm.refl s
  unfold execRet
  try dsimp only
  repeat' (with_reducible apply jumpTo_keeps)

theorem execCall_keeps (d : BitVec 7) (off : BitVec 17) (s : State) : Keeps s (execCall d off s) := by
  have h₀ := Calm.refl s
  unfold execCall
  try dsimp only
  repeat' first
    | with_reducible assumption
    | with_reducible apply begin__keeps
    | with_reducible apply goto_calm
    | with_reducible apply putU_calm
    | intro wi

theorem execExit_keeps (s : State) : Keeps s (execExit s) := by
  have h₀ := Calm.refl s
  unfold execExit
  try dsimp only
  repeat' first
    | with_reducible assumption
    | with_reducible apply begin__keeps
    | with_reducible apply ill_calm
    | with_reducible apply modWave_calm
    | with_reducible apply advance_calm
    | with_reducible apply ite_calm
    | (intro w h; exact h)
    | intro wi

theorem execTrap_keeps (n : BitVec 8) (s : State) : Keeps s (execTrap n s) := by
  have h₀ := Calm.refl s
  unfold execTrap
  try dsimp only
  repeat' first
    | with_reducible assumption
    | with_reducible apply begin__keeps
    | with_reducible apply takeTrap_calm
    | with_reducible apply advance_calm
    | intro wi

theorem execSleep_keeps (n : BitVec 24) (s : State) : Keeps s (execSleep n s) := by
  have h₀ := Calm.refl s
  unfold execSleep
  try dsimp only
  repeat' first
    | with_reducible assumption
    | with_reducible apply begin__keeps
    | with_reducible apply advance_calm
    | with_reducible apply modWave_calm
    | with_reducible apply ite_calm
    | (intro w h; exact h)
    | intro wi

theorem execMode_keeps (m : BitVec 16) (s : State) : Keeps s (execMode m s) := by
  have h₀ := Calm.refl s
  unfold execMode
  try dsimp only
  repeat' first
    | with_reducible assumption
    | with_reducible apply begin__keeps
    | with_reducible apply modWave_calm
    | with_reducible apply advance_calm
    | (intro w h; exact h)
    | intro wi

theorem execSreg_keeps (d : BitVec 7) (idx : BitVec 10) (s : State) : Keeps s (execSreg d idx s) := by
  have h₀ := Calm.refl s
  unfold execSreg
  try dsimp only
  repeat' first
    | with_reducible assumption
    | with_reducible apply begin__keeps
    | with_reducible apply advance_calm
    | with_reducible apply putU_calm
    | intro wi

theorem execSset_keeps (a : BitVec 7) (idx : BitVec 10) (s : State) : Keeps s (execSset a idx s) := by
  have h₀ := Calm.refl s
  unfold execSset
  try dsimp only
  repeat' first
    | with_reducible assumption
    | with_reducible apply begin__keeps
    | with_reducible apply ill_calm
    | with_reducible apply softTrap_calm
    | with_reducible apply modWave_calm
    | with_reducible apply advance_calm
    | with_reducible apply ite_calm
    | (intro w h; exact h)
    | intro wi

theorem execRdclk_keeps (d : BitVec 7) (s : State) : Keeps s (execRdclk d s) := by
  have h₀ := Calm.refl s
  unfold execRdclk
  try dsimp only
  repeat' first
    | with_reducible assumption
    | with_reducible apply begin__keeps
    | with_reducible apply advance_calm
    | with_reducible apply putU_calm
    | intro wi

theorem execVclaim_keeps (n : BitVec 7) (s : State) : Keeps s (execVclaim n s) := by
  have h₀ := Calm.refl s
  unfold execVclaim
  try dsimp only
  repeat' first
    | with_reducible assumption
    | with_reducible apply begin__keeps
    | with_reducible apply advance_calm
    | with_reducible apply issueTrap_calm
    | with_reducible apply modPart_calm
    | with_reducible apply modWave_calm
    | with_reducible apply ite_calm
    | (intro w h; exact h)
    | intro wi

theorem execVrel_keeps (n : BitVec 7) (s : State) : Keeps s (execVrel n s) := by
  have h₀ := Calm.refl s
  unfold execVrel
  try dsimp only
  repeat' first
    | with_reducible assumption
    | with_reducible apply begin__keeps
    | with_reducible apply issueTrap_calm
    | with_reducible apply modWave_calm
    | with_reducible apply advance_calm
    | with_reducible apply ite_calm
    | (intro w h; exact h)
    | intro wi

theorem execLaunch_keeps (d : BitVec 7) (a : BitVec 7) (s : State) : Keeps s (execLaunch d a s) := by
  have h₀ := Calm.refl s
  unfold execLaunch
  try dsimp only
  repeat' first
    | with_reducible assumption
    | with_reducible apply begin__keeps
    | with_reducible apply issueTrap_calm
    | with_reducible apply softTrap_calm
    | with_reducible apply modWave_calm
    | with_reducible apply advance_calm
    | with_reducible apply ite_calm
    | (intro w h; exact h)
    | intro wi
    | split
    | with_reducible apply set_calm

theorem execRcmode_keeps (m : BitVec 2) (s : State) : Keeps s (execRcmode m s) := by
  have h₀ := Calm.refl s
  unfold execRcmode
  try dsimp only
  repeat' first
    | with_reducible assumption
    | with_reducible apply begin__keeps
    | with_reducible apply modWave_calm
    | with_reducible apply advance_calm
    | (intro w h; exact h)
    | intro wi

theorem execIinv_keeps (s : State) : Keeps s (execIinv s) := by
  have h₀ := Calm.refl s
  unfold execIinv
  try dsimp only
  repeat' first
    | with_reducible assumption
    | with_reducible apply begin__keeps
    | with_reducible apply advance_calm
    | with_reducible apply modCore_calm
    | intro wi

theorem execBrk_keeps (tag : BitVec 16) (s : State) : Keeps s (execBrk tag s) := by
  have h₀ := Calm.refl s
  unfold execBrk
  try dsimp only
  repeat' first
    | with_reducible assumption
    | with_reducible apply begin__keeps
    | with_reducible apply advance_calm
    | with_reducible apply post_calm
    | with_reducible apply modWave_calm
    | with_reducible apply ite_calm
    | (intro w h; exact h)
    | intro wi
    | with_reducible apply set_calm

theorem execTrcStop_keeps (s : State) : Keeps s (execTrcStop s) := by
  have h₀ := Calm.refl s
  unfold execTrcStop
  try dsimp only
  repeat' first
    | with_reducible assumption
    | with_reducible apply begin__keeps
    | with_reducible apply traceStop_calm
    | with_reducible apply advance_calm
    | intro wi

theorem execTrcStart_keeps (s : State) : Keeps s (execTrcStart s) := by
  have h₀ := Calm.refl s
  unfold execTrcStart
  try dsimp only
  repeat' first
    | with_reducible assumption
    | with_reducible apply begin__keeps
    | with_reducible apply traceStart_calm
    | with_reducible apply advance_calm
    | intro wi

theorem execTrcSync_keeps (s : State) : Keeps s (execTrcSync s) := by
  have h₀ := Calm.refl s
  unfold execTrcSync
  try dsimp only
  repeat' first
    | with_reducible assumption
    | with_reducible apply begin__keeps
    | with_reducible apply advance_calm
    | with_reducible apply emitSync_calm
    | with_reducible apply ite_calm
    | intro wi

theorem portableTrap_keeps (s : State) (word : Word) : Keeps s (portableTrap s word) := by
  have h₀ := Calm.refl s
  unfold portableTrap
  try dsimp only
  repeat' first
    | with_reducible assumption
    | with_reducible apply begin__keeps
    | with_reducible apply issueTrap_calm
    | intro wi

theorem execXperm_keeps (d : BitVec 7) (a : BitVec 7) (b : BitVec 7) (s : State) : Keeps s (execXperm d a b s) := by
  have h₀ := Calm.refl s
  unfold execXperm
  try dsimp only
  repeat' (with_reducible apply portableTrap_keeps)

theorem execXbcast_keeps (d : BitVec 7) (a : BitVec 7) (b : BitVec 7) (s : State) : Keeps s (execXbcast d a b s) := by
  have h₀ := Calm.refl s
  unfold execXbcast
  try dsimp only
  repeat' (with_reducible apply portableTrap_keeps)

theorem execXreduxAdd_keeps (d : BitVec 7) (a : BitVec 7) (s : State) : Keeps s (execXreduxAdd d a s) := by
  have h₀ := Calm.refl s
  unfold execXreduxAdd
  try dsimp only
  repeat' (with_reducible apply portableTrap_keeps)

theorem execXreduxMin_keeps (d : BitVec 7) (a : BitVec 7) (s : State) : Keeps s (execXreduxMin d a s) := by
  have h₀ := Calm.refl s
  unfold execXreduxMin
  try dsimp only
  repeat' (with_reducible apply portableTrap_keeps)

theorem execXreduxMax_keeps (d : BitVec 7) (a : BitVec 7) (s : State) : Keeps s (execXreduxMax d a s) := by
  have h₀ := Calm.refl s
  unfold execXreduxMax
  try dsimp only
  repeat' (with_reducible apply portableTrap_keeps)

theorem execXscan_keeps (d : BitVec 7) (a : BitVec 7) (s : State) : Keeps s (execXscan d a s) := by
  have h₀ := Calm.refl s
  unfold execXscan
  try dsimp only
  repeat' (with_reducible apply portableTrap_keeps)

theorem execXballot_keeps (d : BitVec 7) (k : BitVec 4) (c : BitVec 3) (s : State) : Keeps s (execXballot d k c s) := by
  have h₀ := Calm.refl s
  unfold execXballot
  try dsimp only
  repeat' (with_reducible apply portableTrap_keeps)

theorem execXwidth_keeps (d : BitVec 7) (s : State) : Keeps s (execXwidth d s) := by
  have h₀ := Calm.refl s
  unfold execXwidth
  try dsimp only
  repeat' (with_reducible apply portableTrap_keeps)

theorem execPortableOnlyWord_keeps (word : Word) (s : State) : Keeps s (execPortableOnlyWord word s) := by
  have h₀ := Calm.refl s
  unfold execPortableOnlyWord
  try dsimp only
  repeat' (with_reducible apply portableTrap_keeps)

theorem execIllWord_keeps (word : Word) (s : State) : Keeps s (execIllWord word s) := by
  have h₀ := Calm.refl s
  unfold execIllWord
  try dsimp only
  repeat' first
    | with_reducible assumption
    | with_reducible apply begin__keeps
    | with_reducible apply issueTrap_calm
    | intro wi

end Sys2Proof.Machine
end

