-- ==== Sys2Proof/Laws/KeptCopyBase.lean ====
section
/-!
SUPPORT. What the operations of Machine/CopyBase.lean keep.
-/

namespace Sys2Proof.Machine

theorem haloStart_calm {s₀ s : State} (h₀ : Calm s₀ s) {blk : Nat} {nb : Nat} {phase : Nat} : Calm s₀ (haloStart s blk nb phase) := by
  unfold haloStart
  try dsimp only
  repeat' first
    | with_reducible assumption
    | with_reducible apply modCopy_calm
    | with_reducible apply raceAccess_calm
    | with_reducible apply ite_calm
    | with_reducible apply foldl_calm
    | (intro u x _; have := Calm.refl u)

end Sys2Proof.Machine
end

