-- ==== Sys2Proof/Laws/KeptSync.lean ====
section
/-!
SUPPORT. What the operations of Machine/Sync.lean keep.
-/

namespace Sys2Proof.Machine

theorem execFence_keeps (sc : BitVec 3) (s : State) : Keeps s (execFence sc s) := by
  have h₀ := Calm.refl s
  unfold execFence
  try dsimp only
  repeat' first
    | with_reducible assumption
    | with_reducible apply begin__keeps
    | with_reducible apply advance_calm
    | with_reducible apply modWave_calm
    | (intro w h; exact h)
    | intro wi

theorem execPfence_keeps (sc : BitVec 3) (s : State) : Keeps s (execPfence sc s) := by
  have h₀ := Calm.refl s
  unfold execPfence
  try dsimp only
  repeat' first
    | with_reducible assumption
    | with_reducible apply begin__keeps
    | with_reducible apply stall_calm
    | with_reducible apply advance_calm
    | with_reducible apply modWave_calm
    | with_reducible apply ite_calm
    | (intro w h; exact h)
    | intro wi

theorem execWait_keeps (ql : BitVec 5) (qs : BitVec 5) (qx : BitVec 4) (qt : BitVec 3) (s : State) : Keeps s (execWait ql qs qx qt s) := by
  have h₀ := Calm.refl s
  unfold execWait
  try dsimp only
  repeat' first
    | with_reducible assumption
    | with_reducible apply begin__keeps
    | with_reducible apply advance_calm
    | with_reducible apply modWave_calm
    | with_reducible apply ite_calm
    | (intro w h; exact h)
    | intro wi

theorem wake_calm {s₀ s : State} (h₀ : Calm s₀ s) {wi : Nat} : Calm s₀ (wake s wi) := by
  unfold wake
  try dsimp only
  repeat' first
    | with_reducible assumption
    | with_reducible apply traceWake_calm
    | with_reducible apply modWave_calm
    | with_reducible apply advance_calm
    | (intro w h; exact h)

theorem retest_calm {s₀ s : State} (h₀ : Calm s₀ s) {wi : Nat} : Calm s₀ (retest s wi) := by
  unfold retest
  try dsimp only
  repeat' first
    | with_reducible assumption
    | with_reducible apply wake_calm
    | with_reducible apply traceWake_calm
    | with_reducible apply modWave_calm
    | with_reducible apply ite_calm
    | (intro w h; exact h)
    | split

theorem execWaitc_keeps (a : BitVec 7) (b : BitVec 7) (scope : BitVec 3) (s : State) : Keeps s (execWaitc a b scope s) := by
  have h₀ := Calm.refl s
  unfold execWaitc
  try dsimp only
  repeat' first
    | with_reducible assumption
    | with_reducible apply begin__keeps
    | with_reducible apply issueTrap_calm
    | with_reducible apply stall_calm
    | with_reducible apply softTrap_calm
    | with_reducible apply modWave_calm
    | with_reducible apply ite_calm
    | (intro w h; exact h)
    | intro wi
    | split
    | with_reducible apply set_calm

theorem counterSeen_calm {s₀ s : State} (h₀ : Calm s₀ s) {ai : Nat} {v : Nat} : Calm s₀ (counterSeen s ai v) := by
  unfold counterSeen
  try dsimp only
  repeat' first
    | with_reducible assumption
    | with_reducible apply takeTrap_calm
    | with_reducible apply modAcc_calm
    | with_reducible apply wake_calm
    | with_reducible apply ite_calm
    | split

theorem leaveAcquire_calm {s₀ s : State} (h₀ : Calm s₀ s) {wi : Nat} {gen : Nat} : Calm s₀ (leaveAcquire s wi gen) := by
  unfold leaveAcquire
  try dsimp only
  repeat' first | with_reducible assumption | with_reducible apply modWave_calm | (intro w h; exact h)

theorem leaveBar_calm {s₀ s : State} (h₀ : Calm s₀ s) {wi : Nat} {nb : Nat} : Calm s₀ (leaveBar s wi nb) := by
  unfold leaveBar
  try dsimp only
  repeat' first
    | with_reducible assumption
    | with_reducible apply leaveAcquire_calm
    | with_reducible apply wake_calm
    | with_reducible apply modWave_calm
    | (intro w h; exact h)

theorem retestBar_calm {s₀ s : State} (h₀ : Calm s₀ s) {wi : Nat} : Calm s₀ (retestBar s wi) := by
  unfold retestBar
  try dsimp only
  repeat' first
    | with_reducible assumption
    | with_reducible apply leaveBar_calm
    | with_reducible apply wake_calm
    | with_reducible apply modWave_calm
    | with_reducible apply leaveAcquire_calm
    | with_reducible apply ite_calm
    | (intro w h; exact h)
    | split

theorem stepEnds_calm {s₀ s : State} (h₀ : Calm s₀ s) {blk : Nat} {completed : Option Nat} : Calm s₀ (stepEnds s blk completed) := by
  unfold stepEnds
  try dsimp only
  repeat' first
    | with_reducible assumption
    | with_reducible apply modWave_calm
    | with_reducible apply modBlock_calm
    | with_reducible apply post_calm
    | with_reducible apply ite_calm
    | with_reducible apply foldl_calm
    | (intro w h; exact h)
    | (intro u x _; have := Calm.refl u)
    | split

theorem nextGen_calm {s₀ s : State} (h₀ : Calm s₀ s) {blk : Nat} : Calm s₀ (nextGen s blk) := by
  unfold nextGen
  try dsimp only
  repeat' first | with_reducible assumption | with_reducible apply modBlock_calm | (intro w h; exact h)

theorem completePhases_calm {s₀ s : State} (h₀ : Calm s₀ s) {blk : Nat} : Calm s₀ (completePhases s blk) := by
  unfold completePhases
  try dsimp only
  repeat' first
    | with_reducible assumption
    | with_reducible apply modBlock_calm
    | with_reducible apply nextGen_calm
    | with_reducible apply retestBar_calm
    | with_reducible apply stepEnds_calm
    | with_reducible apply haloStart_calm
    | with_reducible apply ite_calm
    | with_reducible apply foldl_calm
    | (intro w h; exact h)
    | (intro u x _; have := Calm.refl u)

theorem barDeadlock_calm {s₀ s : State} (h₀ : Calm s₀ s) {blk : Nat} : Calm s₀ (barDeadlock s blk) := by
  unfold barDeadlock
  try dsimp only
  repeat' first
    | with_reducible assumption
    | with_reducible apply takeTrap_calm
    | with_reducible apply ite_calm
    | with_reducible apply foldl_calm
    | (intro u x _; have := Calm.refl u)

theorem barriers_calm {s₀ s : State} (h₀ : Calm s₀ s) {blk : Nat} : Calm s₀ (barriers s blk) := by
  unfold barriers
  try dsimp only
  repeat' first
    | with_reducible assumption
    | with_reducible apply completePhases_calm
    | with_reducible apply modBlock_calm
    | with_reducible apply barDeadlock_calm
    | with_reducible apply ite_calm
    | (intro w h; exact h)

theorem arriveAt_calm {s₀ s : State} (h₀ : Calm s₀ s) {wi : Nat} {nb : Nat} : Calm s₀ (arriveAt s wi nb) := by
  unfold arriveAt
  try dsimp only
  repeat' first | with_reducible assumption | with_reducible apply modWave_calm | (intro w h; exact h)

theorem barTrap_calm {s₀ s : State} (h₀ : Calm s₀ s) {wi : Nat} {i : Instr} {code : Nat} {nb : Nat} : Calm s₀ (barTrap s wi i code nb) := by
  unfold barTrap
  try dsimp only
  repeat' first | with_reducible assumption | with_reducible apply issueTrap_calm

theorem execArrive_keeps (nb : BitVec 5) (s : State) : Keeps s (execArrive nb s) := by
  have h₀ := Calm.refl s
  unfold execArrive
  try dsimp only
  repeat' first
    | with_reducible assumption
    | with_reducible apply begin__keeps
    | with_reducible apply barTrap_calm
    | with_reducible apply advance_calm
    | with_reducible apply arriveAt_calm
    | with_reducible apply ite_calm
    | intro wi

theorem waitBar_calm {s₀ s : State} (h₀ : Calm s₀ s) {wi : Nat} {nb : Nat} {aw : Bool} : Calm s₀ (waitBar s wi nb aw) := by
  unfold waitBar
  try dsimp only
  repeat' first
    | with_reducible assumption
    | with_reducible apply modWave_calm
    | with_reducible apply leaveBar_calm
    | with_reducible apply barDeadlock_calm
    | with_reducible apply ite_calm
    | (intro w h; exact h)

theorem execMeet_keeps (nb : BitVec 5) (s : State) : Keeps s (execMeet nb s) := by
  have h₀ := Calm.refl s
  unfold execMeet
  try dsimp only
  repeat' first
    | with_reducible assumption
    | with_reducible apply begin__keeps
    | with_reducible apply waitBar_calm
    | with_reducible apply barTrap_calm
    | with_reducible apply modWave_calm
    | with_reducible apply arriveAt_calm
    | with_reducible apply ite_calm
    | (intro w h; exact h)
    | intro wi

theorem execAwait_keeps (nb : BitVec 5) (s : State) : Keeps s (execAwait nb s) := by
  have h₀ := Calm.refl s
  unfold execAwait
  try dsimp only
  repeat' first
    | with_reducible assumption
    | with_reducible apply begin__keeps
    | with_reducible apply barTrap_calm
    | with_reducible apply waitBar_calm
    | with_reducible apply ite_calm
    | intro wi

theorem execPckpt_keeps (s : State) : Keeps s (execPckpt s) := by
  have h₀ := Calm.refl s
  unfold execPckpt
  try dsimp only
  repeat' first
    | with_reducible assumption
    | with_reducible apply begin__keeps
    | with_reducible apply modWave_calm
    | with_reducible apply retestBar_calm
    | with_reducible apply barDeadlock_calm
    | with_reducible apply ite_calm
    | (intro w h; exact h)
    | intro wi

theorem execArrival_keeps (wi : Nat) (s : State) : Keeps s (execArrival wi s) := by
  have h₀ := Calm.refl s
  unfold execArrival
  try dsimp only
  repeat' first
    | with_reducible assumption
    | with_reducible apply modWave_calm
    | with_reducible apply modBlock_calm
    | with_reducible apply barriers_calm
    | with_reducible apply ite_calm
    | with_reducible apply next_keeps
    | (intro w h; first | exact h | (split <;> first | exact h | exact ⟨h.1, h.2, h.3, h.4, h.5, h.6⟩ | simpa [Wave.ok] using h))
    | split

theorem execSleepElapsed_keeps (wi : Nat) (s : State) : Keeps s (execSleepElapsed wi s) := by
  have h₀ := Calm.refl s
  unfold execSleepElapsed
  try dsimp only
  repeat' first
    | with_reducible assumption
    | with_reducible apply wake_calm
    | with_reducible apply ite_calm
    | with_reducible apply next_keeps
    | split

theorem execClaimGrant_keeps (p : PartRef) (s : State) : Keeps s (execClaimGrant p s) := by
  have h₀ := Calm.refl s
  unfold execClaimGrant
  try dsimp only
  repeat' first
    | with_reducible assumption
    | with_reducible apply wake_calm
    | with_reducible apply modWave_calm
    | with_reducible apply modPart_calm
    | with_reducible apply ite_calm
    | with_reducible apply next_keeps
    | (intro w h; exact h)
    | split

theorem execClaimDeadlock_keeps (p : PartRef) (blk : Nat) (s : State) : Keeps s (execClaimDeadlock p blk s) := by
  have h₀ := Calm.refl s
  unfold execClaimDeadlock
  try dsimp only
  repeat' first
    | with_reducible assumption
    | with_reducible apply modPart_calm
    | with_reducible apply takeTrap_calm
    | with_reducible apply ite_calm
    | with_reducible apply foldl_calm
    | with_reducible apply next_keeps
    | (intro u x _; have := Calm.refl u)
    | split

end Sys2Proof.Machine
end

