-- ==== Sys2Proof/Laws/KeptSteps.lean ====
section
/-!
SUPPORT. What the operations of Machine/Steps.lean keep.
-/

namespace Sys2Proof.Machine

theorem scatterOver_calm {s₀ s : State} (h₀ : Calm s₀ s) {ai : Nat} : Calm s₀ (scatterOver s ai) := by
  unfold scatterOver
  try dsimp only
  repeat' first
    | with_reducible assumption
    | with_reducible apply tileOver_calm
    | with_reducible apply ite_calm
    | split

theorem leaveStore_calm {s₀ s : State} (h₀ : Calm s₀ s) {ai : Nat} : Calm s₀ (leaveStore s ai) := by
  unfold leaveStore
  try dsimp only
  repeat' first
    | with_reducible assumption
    | with_reducible apply modWave_calm
    | with_reducible apply settle_calm
    | with_reducible apply modAcc_calm
    | with_reducible apply scatterOver_calm
    | with_reducible apply appendStore_calm
    | with_reducible apply ite_calm
    | (intro w h; exact h)
    | split

theorem execLeave_keeps (ai : Nat) (s : State) : Keeps s (execLeave ai s) := by
  have h₀ := Calm.refl s
  unfold execLeave
  try dsimp only
  repeat' first
    | with_reducible assumption
    | with_reducible apply leaveStore_calm
    | with_reducible apply ite_calm
    | with_reducible apply next_keeps

theorem arriveSpill_calm {s₀ s : State} (h₀ : Calm s₀ s) {ai : Nat} : Calm s₀ (arriveSpill s ai) := by
  unfold arriveSpill
  try dsimp only
  repeat' first | with_reducible assumption | with_reducible apply settle_calm | with_reducible apply modAcc_calm

theorem pollCounter_calm {s₀ s : State} (h₀ : Calm s₀ s) {ai : Nat} : Calm s₀ (pollCounter s ai) := by
  unfold pollCounter
  try dsimp only
  repeat' first
    | with_reducible assumption
    | with_reducible apply modWave_calm
    | with_reducible apply counterSeen_calm
    | with_reducible apply ite_calm
    | (intro w h; exact h)
    | split
    | with_reducible refine readHome_calm_of ?_ (by assumption)

theorem performLoad_calm {s₀ s : State} (h₀ : Calm s₀ s) {ai : Nat} : Calm s₀ (performLoad s ai) := by
  unfold performLoad
  try dsimp only
  repeat' first
    | with_reducible assumption
    | with_reducible apply pollCounter_calm
    | with_reducible apply modAcc_calm
    | with_reducible apply unpark_calm
    | with_reducible apply launchRecord_calm
    | with_reducible apply gatherDone_calm
    | with_reducible apply settle_calm
    | with_reducible apply modOp_calm
    | split
    | with_reducible refine readHome_calm_of ?_ (by assumption)

theorem execLoad_keeps (ai : Nat) (s : State) : Keeps s (execLoad ai s) := by
  have h₀ := Calm.refl s
  unfold execLoad
  try dsimp only
  repeat' first
    | with_reducible assumption
    | with_reducible apply arriveSpill_calm
    | with_reducible apply parkOn_calm
    | with_reducible apply performLoad_calm
    | with_reducible apply ite_calm
    | with_reducible apply next_keeps

theorem execAtomic_keeps (ai : Nat) (s : State) : Keeps s (execAtomic ai s) := by
  have h₀ := Calm.refl s
  unfold execAtomic
  try dsimp only
  repeat' first
    | with_reducible assumption
    | with_reducible apply arriveSpill_calm
    | with_reducible apply parkOn_calm
    | with_reducible apply atomicHome_calm
    | with_reducible apply ite_calm
    | with_reducible apply next_keeps

end Sys2Proof.Machine
end

