-- ==== Sys2Proof/Laws/KeptAccept.lean ====
section
/-!
SUPPORT. What the operations of Machine/Accept.lean keep.
-/

namespace Sys2Proof.Machine

theorem markLines_calm {s₀ s : State} (h₀ : Calm s₀ s) {c : Copy} {lines : List Nat} {p : Bool} : Calm s₀ (markLines s c lines p) := by
  unfold markLines
  try dsimp only
  repeat' first
    | with_reducible assumption
    | with_reducible apply setPresent_calm
    | with_reducible apply foldl_calm
    | (intro u x _; have := Calm.refl u)
    | split

theorem refuseStart_calm {s₀ s : State} (h₀ : Calm s₀ s) {ai : Nat} {cls : TrapClass} {code : Nat} {detail : List Nat} : Calm s₀ (refuseStart s ai cls code detail) := by
  unfold refuseStart
  try dsimp only
  repeat' first
    | with_reducible assumption
    | with_reducible apply accessTrap_calm
    | with_reducible apply countDown_calm

theorem copyRace_calm {s₀ s : State} (h₀ : Calm s₀ s) {c : Copy} {lanes : Word} : Calm s₀ (copyRace s c lanes).1 := by
  unfold copyRace
  dsimp only
  split
  all_goals first
    | exact raceAccess_calm (raceAccess_calm h₀)
    | exact setVis_calm h₀ (raceAccess_calm (raceAccess_calm (.refl _)))

theorem copyRace_calm_of {s₀ s : State} (h₀ : Calm s₀ s) {c : Copy} {lanes : Word} {t : State} {x}
    (h : copyRace s c lanes = (t, x)) : Calm s₀ t := by
  have := copyRace_calm h₀ (c := c) (lanes := lanes); rw [h] at this; exact this

theorem enqueueCopy_calm {s₀ s : State} (h₀ : Calm s₀ s) {ai : Nat} {c : Copy} : Calm s₀ (enqueueCopy s ai c) := by
  unfold enqueueCopy
  try dsimp only
  repeat' first
    | with_reducible assumption
    | with_reducible apply modCore_calm
    | with_reducible apply markLines_calm
    | with_reducible apply settle_calm
    | with_reducible apply modAcc_calm
    | split
    | with_reducible apply set_calm

theorem acceptStart_calm {s₀ s : State} (h₀ : Calm s₀ s) {ai : Nat} {t : Template} {holes : Bool} : Calm s₀ (acceptStart s ai t holes) := by
  unfold acceptStart
  try dsimp only
  repeat' first
    | with_reducible assumption
    | with_reducible apply refuseStart_calm
    | with_reducible apply enqueueCopy_calm
    | split
    | with_reducible refine copyRace_calm_of ?_ (by assumption)

theorem countLate_calm {s₀ s : State} (h₀ : Calm s₀ s) {ai : Nat} : Calm s₀ (countLate s ai) := by
  unfold countLate
  try dsimp only
  repeat' first
    | with_reducible assumption
    | with_reducible apply modAcc_calm
    | with_reducible apply modOp_calm
    | with_reducible apply modWave_calm
    | with_reducible apply ite_calm
    | (intro w h; exact h)

theorem execAccept_keeps (ai : Nat) (s : State) : Keeps s (execAccept ai s) := by
  have h₀ := Calm.refl s
  unfold execAccept
  try dsimp only
  repeat' first
    | with_reducible assumption
    | with_reducible apply refuseStart_calm
    | with_reducible apply countLate_calm
    | with_reducible apply acceptStart_calm
    | with_reducible apply ite_calm
    | with_reducible apply next_keeps
    | split

end Sys2Proof.Machine
end

