-- ==== Sys2Proof/Laws/KeptArith.lean ====
section
/-!
SUPPORT. What the operations of Machine/Arith.lean keep.
-/

namespace Sys2Proof.Machine

theorem arithInstr_keeps (s : State) (i : Instr) (types : List Nat) (d : BitVec 7) (ops : List (BitVec 7)) (shape : List Reg → Option Reg) (fi : List Int → Int) (ff : BitVec 16 → FFmt → List Nat → Nat × Nat) : Keeps s (arithInstr s i types d ops shape fi ff) := by
  have h₀ := Calm.refl s
  unfold arithInstr
  try dsimp only
  repeat' (with_reducible apply typedInstr_keeps)

theorem execAdd_keeps (d : BitVec 7) (a : BitVec 7) (b : BitVec 7) (s : State) : Keeps s (execAdd d a b s) := by
  have h₀ := Calm.refl s
  unfold execAdd
  try dsimp only
  repeat' (with_reducible apply arithInstr_keeps)

theorem execSub_keeps (d : BitVec 7) (a : BitVec 7) (b : BitVec 7) (s : State) : Keeps s (execSub d a b s) := by
  have h₀ := Calm.refl s
  unfold execSub
  try dsimp only
  repeat' (with_reducible apply arithInstr_keeps)

theorem execMul_keeps (d : BitVec 7) (a : BitVec 7) (b : BitVec 7) (s : State) : Keeps s (execMul d a b s) := by
  have h₀ := Calm.refl s
  unfold execMul
  try dsimp only
  repeat' (with_reducible apply arithInstr_keeps)

theorem execFma_keeps (d : BitVec 7) (a : BitVec 7) (b : BitVec 7) (s : State) : Keeps s (execFma d a b s) := by
  have h₀ := Calm.refl s
  unfold execFma
  try dsimp only
  repeat' (with_reducible apply arithInstr_keeps)

theorem execFms_keeps (d : BitVec 7) (a : BitVec 7) (b : BitVec 7) (s : State) : Keeps s (execFms d a b s) := by
  have h₀ := Calm.refl s
  unfold execFms
  try dsimp only
  repeat' (with_reducible apply arithInstr_keeps)

theorem execFnma_keeps (d : BitVec 7) (a : BitVec 7) (b : BitVec 7) (s : State) : Keeps s (execFnma d a b s) := by
  have h₀ := Calm.refl s
  unfold execFnma
  try dsimp only
  repeat' (with_reducible apply arithInstr_keeps)

theorem execMin_keeps (d : BitVec 7) (a : BitVec 7) (b : BitVec 7) (s : State) : Keeps s (execMin d a b s) := by
  have h₀ := Calm.refl s
  unfold execMin
  try dsimp only
  repeat' (with_reducible apply arithInstr_keeps)

theorem execMax_keeps (d : BitVec 7) (a : BitVec 7) (b : BitVec 7) (s : State) : Keeps s (execMax d a b s) := by
  have h₀ := Calm.refl s
  unfold execMax
  try dsimp only
  repeat' (with_reducible apply arithInstr_keeps)

theorem execAbs_keeps (d : BitVec 7) (a : BitVec 7) (s : State) : Keeps s (execAbs d a s) := by
  have h₀ := Calm.refl s
  unfold execAbs
  try dsimp only
  repeat' (with_reducible apply arithInstr_keeps)

theorem execNeg_keeps (d : BitVec 7) (a : BitVec 7) (s : State) : Keeps s (execNeg d a s) := by
  have h₀ := Calm.refl s
  unfold execNeg
  try dsimp only
  repeat' (with_reducible apply arithInstr_keeps)

theorem execAddi_keeps (d : BitVec 7) (a : BitVec 7) (imm : BitVec 10) (s : State) : Keeps s (execAddi d a imm s) := by
  have h₀ := Calm.refl s
  unfold execAddi
  try dsimp only
  repeat' (with_reducible apply typedInstr_keeps)

theorem execMulhi_keeps (d : BitVec 7) (a : BitVec 7) (b : BitVec 7) (s : State) : Keeps s (execMulhi d a b s) := by
  have h₀ := Calm.refl s
  unfold execMulhi
  try dsimp only
  repeat' (with_reducible apply typedInstr_keeps)

theorem execAnd_keeps (d : BitVec 7) (a : BitVec 7) (b : BitVec 7) (s : State) : Keeps s (execAnd d a b s) := by
  have h₀ := Calm.refl s
  unfold execAnd
  try dsimp only
  repeat' (with_reducible apply laneFree_keeps)

theorem execOr_keeps (d : BitVec 7) (a : BitVec 7) (b : BitVec 7) (s : State) : Keeps s (execOr d a b s) := by
  have h₀ := Calm.refl s
  unfold execOr
  try dsimp only
  repeat' (with_reducible apply laneFree_keeps)

theorem execXor_keeps (d : BitVec 7) (a : BitVec 7) (b : BitVec 7) (s : State) : Keeps s (execXor d a b s) := by
  have h₀ := Calm.refl s
  unfold execXor
  try dsimp only
  repeat' (with_reducible apply laneFree_keeps)

theorem execAndn_keeps (d : BitVec 7) (a : BitVec 7) (b : BitVec 7) (s : State) : Keeps s (execAndn d a b s) := by
  have h₀ := Calm.refl s
  unfold execAndn
  try dsimp only
  repeat' (with_reducible apply laneFree_keeps)

theorem execNot_keeps (d : BitVec 7) (a : BitVec 7) (s : State) : Keeps s (execNot d a s) := by
  have h₀ := Calm.refl s
  unfold execNot
  try dsimp only
  repeat' (with_reducible apply laneFree_keeps)

theorem execShl_keeps (d : BitVec 7) (a : BitVec 7) (b : BitVec 7) (s : State) : Keeps s (execShl d a b s) := by
  have h₀ := Calm.refl s
  unfold execShl
  try dsimp only
  repeat' (with_reducible apply laneFree_keeps)

theorem execShr_keeps (d : BitVec 7) (a : BitVec 7) (b : BitVec 7) (s : State) : Keeps s (execShr d a b s) := by
  have h₀ := Calm.refl s
  unfold execShr
  try dsimp only
  repeat' (with_reducible apply laneFree_keeps)

theorem execSra_keeps (d : BitVec 7) (a : BitVec 7) (b : BitVec 7) (s : State) : Keeps s (execSra d a b s) := by
  have h₀ := Calm.refl s
  unfold execSra
  try dsimp only
  repeat' (with_reducible apply laneFree_keeps)

theorem execRol_keeps (d : BitVec 7) (a : BitVec 7) (b : BitVec 7) (s : State) : Keeps s (execRol d a b s) := by
  have h₀ := Calm.refl s
  unfold execRol
  try dsimp only
  repeat' (with_reducible apply laneFree_keeps)

theorem execBfe_keeps (d : BitVec 7) (a : BitVec 7) (b : BitVec 7) (s : State) : Keeps s (execBfe d a b s) := by
  have h₀ := Calm.refl s
  unfold execBfe
  try dsimp only
  repeat' (with_reducible apply laneFree_keeps)

theorem execBfi_keeps (d : BitVec 7) (a : BitVec 7) (b : BitVec 7) (s : State) : Keeps s (execBfi d a b s) := by
  have h₀ := Calm.refl s
  unfold execBfi
  try dsimp only
  repeat' (with_reducible apply laneFree_keeps)

theorem execPopc_keeps (d : BitVec 7) (a : BitVec 7) (s : State) : Keeps s (execPopc d a s) := by
  have h₀ := Calm.refl s
  unfold execPopc
  try dsimp only
  repeat' (with_reducible apply laneFree_keeps)

theorem execClz_keeps (d : BitVec 7) (a : BitVec 7) (s : State) : Keeps s (execClz d a s) := by
  have h₀ := Calm.refl s
  unfold execClz
  try dsimp only
  repeat' (with_reducible apply laneFree_keeps)

theorem execBrev_keeps (d : BitVec 7) (a : BitVec 7) (s : State) : Keeps s (execBrev d a s) := by
  have h₀ := Calm.refl s
  unfold execBrev
  try dsimp only
  repeat' (with_reducible apply laneFree_keeps)

theorem execAndi_keeps (d : BitVec 7) (a : BitVec 7) (imm : BitVec 10) (s : State) : Keeps s (execAndi d a imm s) := by
  have h₀ := Calm.refl s
  unfold execAndi
  try dsimp only
  repeat' (with_reducible apply laneFree_keeps)

theorem execOri_keeps (d : BitVec 7) (a : BitVec 7) (imm : BitVec 10) (s : State) : Keeps s (execOri d a imm s) := by
  have h₀ := Calm.refl s
  unfold execOri
  try dsimp only
  repeat' (with_reducible apply laneFree_keeps)

theorem execXori_keeps (d : BitVec 7) (a : BitVec 7) (imm : BitVec 10) (s : State) : Keeps s (execXori d a imm s) := by
  have h₀ := Calm.refl s
  unfold execXori
  try dsimp only
  repeat' (with_reducible apply laneFree_keeps)

theorem execShli_keeps (d : BitVec 7) (a : BitVec 7) (n : BitVec 5) (s : State) : Keeps s (execShli d a n s) := by
  have h₀ := Calm.refl s
  unfold execShli
  try dsimp only
  repeat' (with_reducible apply laneFree_keeps)

theorem execShri_keeps (d : BitVec 7) (a : BitVec 7) (n : BitVec 5) (s : State) : Keeps s (execShri d a n s) := by
  have h₀ := Calm.refl s
  unfold execShri
  try dsimp only
  repeat' (with_reducible apply laneFree_keeps)

theorem execSrai_keeps (d : BitVec 7) (a : BitVec 7) (n : BitVec 5) (s : State) : Keeps s (execSrai d a n s) := by
  have h₀ := Calm.refl s
  unfold execSrai
  try dsimp only
  repeat' (with_reducible apply laneFree_keeps)

theorem execLi_keeps (d : BitVec 7) (imm : BitVec 17) (s : State) : Keeps s (execLi d imm s) := by
  have h₀ := Calm.refl s
  unfold execLi
  try dsimp only
  repeat' (with_reducible apply laneFree_keeps)

theorem execLih_keeps (d : BitVec 7) (imm : BitVec 16) (s : State) : Keeps s (execLih d imm s) := by
  have h₀ := Calm.refl s
  unfold execLih
  try dsimp only
  repeat' (with_reducible apply laneFree_keeps)

theorem execMov_keeps (d : BitVec 7) (a : BitVec 7) (s : State) : Keeps s (execMov d a s) := by
  have h₀ := Calm.refl s
  unfold execMov
  try dsimp only
  repeat' (with_reducible apply laneFree_keeps)

theorem execSel_keeps (d : BitVec 7) (a : BitVec 7) (b : BitVec 7) (km : BitVec 3) (s : State) : Keeps s (execSel d a b km s) := by
  have h₀ := Calm.refl s
  unfold execSel
  try dsimp only
  repeat' (with_reducible apply laneFree_keeps)

end Sys2Proof.Machine
end

