-- ==== Sys2Proof/Laws/KeptDebug.lean ====
section
/-!
SUPPORT. What the operations of Machine/Debug.lean keep.
-/

namespace Sys2Proof.Machine

theorem execHalt_keeps (wi : Nat) (s : State) : Keeps s (execHalt wi s) := by
  have h₀ := Calm.refl s
  unfold execHalt
  try dsimp only
  repeat' first
    | with_reducible assumption
    | with_reducible apply post_calm
    | with_reducible apply modWave_calm
    | with_reducible apply ite_calm
    | with_reducible apply next_keeps
    | (intro w h; exact h)

theorem dueTrap_calm {s₀ s : State} (h₀ : Calm s₀ s) {wi : Nat} : Calm s₀ (dueTrap s wi) := by
  unfold dueTrap
  try dsimp only
  repeat' first | with_reducible assumption | with_reducible apply enterTrap_calm

theorem resumeWave_calm {s₀ s : State} (h₀ : Calm s₀ s) {wi : Nat} {skip : Bool} : Calm s₀ (resumeWave s wi skip) := by
  unfold resumeWave
  try dsimp only
  repeat' first
    | with_reducible assumption
    | with_reducible apply traceWake_calm
    | with_reducible apply modWave_calm
    | with_reducible apply dueTrap_calm
    | with_reducible apply resolve_calm
    | with_reducible apply retestBar_calm
    | with_reducible apply ite_calm
    | (intro w h; exact h)

theorem execResume_keeps (wi : Nat) (skip : Bool) (s : State) : Keeps s (execResume wi skip s) := by
  have h₀ := Calm.refl s
  unfold execResume
  try dsimp only
  repeat' first
    | with_reducible assumption
    | with_reducible apply modWave_calm
    | with_reducible apply resumeWave_calm
    | with_reducible apply ite_calm
    | with_reducible apply next_keeps
    | (intro w h; exact h)

theorem pcStop_calm {s₀ s : State} (h₀ : Calm s₀ s) {wi : Nat} : Calm s₀ (pcStop s wi) := by
  unfold pcStop
  try dsimp only
  repeat' first
    | with_reducible assumption
    | with_reducible apply post_calm
    | with_reducible apply modWave_calm
    | with_reducible apply ite_calm
    | (intro w h; exact h)

theorem execPcComparatorMatch_keeps (wi : Nat) (s : State) : Keeps s (execPcComparatorMatch wi s) := by
  have h₀ := Calm.refl s
  unfold execPcComparatorMatch
  try dsimp only
  repeat' first | with_reducible assumption | with_reducible apply pcStop_calm | with_reducible apply next_keeps

theorem execSingleStep_keeps (wi : Nat) (s : State) : Keeps s (execSingleStep wi s) := by
  have h₀ := Calm.refl s
  unfold execSingleStep
  try dsimp only
  repeat' first
    | with_reducible assumption
    | with_reducible apply modWave_calm
    | with_reducible apply resumeWave_calm
    | with_reducible apply ite_calm
    | with_reducible apply next_keeps
    | (intro w h; first | exact h | exact ⟨h.1, h.2.1, h.2.2.1, Nat.zero_le _⟩)

theorem execFocusStep_keeps (wi : Nat) (ln : Nat) (s : State) : Keeps s (execFocusStep wi ln s) := by
  have h₀ := Calm.refl s
  unfold execFocusStep
  try dsimp only
  repeat' first
    | with_reducible assumption
    | with_reducible apply post_calm
    | with_reducible apply modWave_calm
    | with_reducible apply resumeWave_calm
    | with_reducible apply ite_calm
    | with_reducible apply next_keeps
    | (intro w h; first | exact h | (refine ⟨h.1, h.2.1, h.2.2.1, ?_⟩; dsimp only; split <;> simp [h.2.2.2]; done))

theorem execPendingPathStack_keeps (wi : Nat) (s : State) : Keeps s (execPendingPathStack wi s) := by
  have h₀ := Calm.refl s
  unfold execPendingPathStack
  try dsimp only
  repeat' first
    | with_reducible assumption
    | with_reducible apply modWave_calm
    | with_reducible apply post_calm
    | with_reducible apply ite_calm
    | with_reducible apply next_keeps
    | (intro w h; first | exact h | exact ⟨h.1, h.2.1, h.2.2.1, Nat.zero_le _⟩)

theorem afterStep_calm {s₀ s : State} (h₀ : Calm s₀ s) {wi : Nat} {before : Wave} {op : Nat} : Calm s₀ (afterStep s wi before op) := by
  unfold afterStep
  try dsimp only
  repeat' first
    | with_reducible assumption
    | with_reducible apply modWave_calm
    | with_reducible apply ite_calm
    | (intro w h; first | exact h | exact pushPath_ok h | (simpa [Wave.ok] using h))
    | split

theorem execBarrierPhaseStep_keeps (blk : Nat) (s : State) : Keeps s (execBarrierPhaseStep blk s) := by
  have h₀ := Calm.refl s
  unfold execBarrierPhaseStep
  try dsimp only
  repeat' first
    | with_reducible assumption
    | with_reducible apply modBlock_calm
    | with_reducible apply resumeWave_calm
    | with_reducible apply ite_calm
    | with_reducible apply foldl_calm
    | with_reducible apply next_keeps
    | (intro w h; exact h)
    | (intro u x _; have := Calm.refl u)

theorem blockHalts_calm {s₀ s : State} (h₀ : Calm s₀ s) {bi : Nat} : Calm s₀ (blockHalts s bi) := by
  unfold blockHalts
  try dsimp only
  repeat' first
    | with_reducible assumption
    | with_reducible apply stepEnds_calm
    | with_reducible apply modBlock_calm
    | with_reducible apply ite_calm
    | (intro w h; exact h)
    | split

theorem blockStops_calm {s₀ s : State} (h₀ : Calm s₀ s)  : Calm s₀ (blockStops s) := by
  unfold blockStops
  try dsimp only
  repeat' first
    | with_reducible assumption
    | with_reducible apply blockHalts_calm
    | with_reducible apply barDeadlock_calm
    | with_reducible apply foldl_calm
    | (intro u x _; have := Calm.refl u)

theorem voidOp_calm {s₀ s : State} (h₀ : Calm s₀ s) {wi : Nat} {r : BitVec 7} : Calm s₀ (voidOp s wi r) := by
  unfold voidOp
  try dsimp only
  repeat' first | with_reducible assumption | with_reducible apply modOp_calm | split | with_reducible apply set_calm

theorem debugWrite_calm {s₀ s : State} (h₀ : Calm s₀ s) {wi : Nat} {d : DbgWrite} {force : Bool} : Calm s₀ (debugWrite s wi d force) := by
  unfold debugWrite
  try dsimp only
  repeat' first
    | with_reducible assumption
    | with_reducible apply post_calm
    | with_reducible apply modWave_calm
    | with_reducible apply voidOp_calm
    | with_reducible apply ite_calm
    | (intro w h; first | exact h | exact put_ok h | (simpa [Wave.ok] using h))
    | split

theorem execPlainWrite_keeps (wi : Nat) (d : DbgWrite) (s : State) : Keeps s (execPlainWrite wi d s) := by
  have h₀ := Calm.refl s
  unfold execPlainWrite
  try dsimp only
  repeat' first | with_reducible assumption | with_reducible apply debugWrite_calm | with_reducible apply next_keeps

theorem execForcedWrite_keeps (wi : Nat) (d : DbgWrite) (s : State) : Keeps s (execForcedWrite wi d s) := by
  have h₀ := Calm.refl s
  unfold execForcedWrite
  try dsimp only
  repeat' first | with_reducible assumption | with_reducible apply debugWrite_calm | with_reducible apply next_keeps

theorem execTraceSyncInterval_keeps (wi : Nat) (s : State) : Keeps s (execTraceSyncInterval wi s) := by
  have h₀ := Calm.refl s
  unfold execTraceSyncInterval
  try dsimp only
  repeat' first
    | with_reducible assumption
    | with_reducible apply traceDue_calm
    | with_reducible apply ite_calm
    | with_reducible apply next_keeps

theorem execTraceLoss_keeps (wi : Nat) (s : State) : Keeps s (execTraceLoss wi s) := by
  have h₀ := Calm.refl s
  unfold execTraceLoss
  try dsimp only
  repeat' first
    | with_reducible assumption
    | with_reducible apply putLoss_calm
    | with_reducible apply ite_calm
    | with_reducible apply next_keeps

end Sys2Proof.Machine
end

