-- ==== Sys2Proof/Laws/KeptFelt.lean ====
section
/-!
SUPPORT. What the operations of Machine/Felt.lean keep.
-/

namespace Sys2Proof.Machine

theorem feltLine_mem {s : State} (h : s.memOk) (die : Nat) (key : LineKey) : (s.feltLine die key).memOk := by
  unfold State.feltLine
  cases e : ((s.die die).felt.find? fun x => x.key == key) with
  | none => cases key <;> exact ⟨by simp [State.freshLine], by simp [State.freshLine]⟩
  | some l => exact (h.die die).2.2 l (List.mem_of_find?_eq_some e)

theorem feltLine_wave {s : State} (h : s.wavesOk) (die : Nat) (key : LineKey) : (s.feltLine die key).waveOk := by
  unfold State.feltLine
  cases e : ((s.die die).felt.find? fun x => x.key == key) with
  | none => cases key <;> exact ⟨by simp [State.freshLine], by simp [State.freshLine]⟩
  | some l => exact h.die die l (List.mem_of_find?_eq_some e)

/-- A shadow write keeps what it writes in order, where the snapshot is. -/
theorem shadowWrite_calm {s₀ s : State} (h₀ : Calm s₀ s) {die : Nat} {key : LineKey} {data : Bytes} {gen kind : Nat}
    {owner : Option Nat} {snap : Option Snapshot} {torn : Option FeltSlot}
    (hm : s.memOk → ∀ x, snap = some x → x.memOk) (hw : s.wavesOk → ∀ x, snap = some x → x.waveOk) :
    Calm s₀ (shadowWrite s die key data gen kind owner snap torn) := by
  unfold shadowWrite
  apply modDie_calm_of h₀
  · intro m d hd
    refine ⟨hd.1, hd.2.1, ?_⟩
    intro l hl
    rcases List.mem_cons.1 hl with rfl | hl
    · have k := feltLine_mem m die key
      split
      · exact ⟨hm m, k.2⟩
      · exact ⟨k.1, hm m⟩
    · exact hd.2.2 l ((List.mem_filter.1 hl).1)
  · intro m d hd l hl
    rcases List.mem_cons.1 hl with rfl | hl
    · have k := feltLine_wave m die key
      split
      · exact ⟨hw m, k.2⟩
      · exact ⟨k.1, hw m⟩
    · exact hd l ((List.mem_filter.1 hl).1)

theorem drainAt_calm {s₀ s : State} (h₀ : Calm s₀ s) {die : Nat} {w : PWrite} {torn : Option FeltSlot} :
    Calm s₀ (drainAt s die w torn) := by
  unfold drainAt
  exact modDie_calm (shadowWrite_calm h₀ (by simp) (by simp)) (fun _ h => h) (fun _ h => h)

theorem shadowWave_calm {s₀ s : State} (h₀ : Calm s₀ s) {die wi : Nat} : Calm s₀ (shadowWave s die wi) := by
  unfold shadowWave
  dsimp only
  split
  · rename_i h
    simp only [Bool.and_eq_true, Wave.resident, Bool.not_eq_true', decide_eq_true_eq] at h
    apply shadowWrite_calm h₀
    · intro m x hx
      injection hx with hx; subst hx
      exact m.wave wi
    · intro m x hx
      injection hx with hx; subst hx
      exact m.wave h.1.1.2.1
  · exact h₀

theorem execDrain_keeps (die : Nat) (k : Nat) (s : State) : Keeps s (execDrain die k s) := by
  have h₀ := Calm.refl s
  unfold execDrain
  try dsimp only
  repeat' first
    | with_reducible assumption
    | with_reducible apply drainAt_calm
    | with_reducible apply shadowWave_calm
    | with_reducible apply ite_calm
    | with_reducible apply next_keeps
    | split

theorem shadowWrite_wave {s : State} {die : Nat} {key : LineKey} {data : Bytes} {gen kind : Nat} {owner : Option Nat}
    {snap : Option Snapshot} {torn : Option FeltSlot} (i : Nat) :
    (shadowWrite s die key data gen kind owner snap torn).wave i = s.wave i := rfl

/-- The state of every wave of a block is written, each as it stands. -/
theorem commitWaves_calm {s₀ s : State} (h₀ : Calm s₀ s) {die gen kind : Nat} {owner : Option Nat} {l : List Nat}
    (hl : ∀ wi ∈ l, (s.wave wi).ended = false) :
    Calm s₀ (l.foldl (fun s wi => shadowWrite s die (.wave wi) [] gen kind owner (some (.wave (s.wave wi)))) s) := by
  induction l generalizing s with
  | nil => exact h₀
  | cons a l ih =>
    apply ih
    · apply shadowWrite_calm h₀
      · intro m x hx
        injection hx with hx; subst hx
        exact m.wave a
      · intro m x hx
        injection hx with hx; subst hx
        exact m.wave (hl a (by simp))
    · intro wi hwi
      rw [shadowWrite_wave]
      exact hl wi (by simp [hwi])

theorem commit_calm {s₀ s : State} (h₀ : Calm s₀ s) {bi : Nat} {waves torn : Bool} : Calm s₀ (commit s bi waves torn) := by
  unfold commit
  have hw : Calm s₀ (if waves then (s.living bi).foldl (fun t wi =>
      shadowWrite t (s.block bi).die (.wave wi) [] ((s.block bi).committed + 1) 2 (some (s.block bi).handle)
        (some (.wave (t.wave wi)))) s else s) := by
    apply ite_calm
    · apply commitWaves_calm h₀
      intro wi hwi
      have := (List.mem_filter.1 hwi).2
      simpa [State.endedWave] using this
    · exact h₀
  dsimp only
  split
  · exact shadowWrite_calm hw (by simp) (by simp)
  · refine modBlock_calm (shadowWrite_calm hw ?_ ?_) (fun _ h => h)
    · intro m x hx
      injection hx with hx; subst hx
      exact Memory.wf_nil
    · intro m x hx
      injection hx with hx; subst hx
      trivial

theorem ckptState_calm {s₀ s : State} (h₀ : Calm s₀ s) {bi : Nat} : Calm s₀ (ckptState s bi) := by
  unfold ckptState
  try dsimp only
  repeat' first
    | with_reducible assumption
    | with_reducible apply modBlock_calm
    | with_reducible apply nextGen_calm
    | with_reducible apply modWave_calm
    | with_reducible apply foldl_calm
    | (intro w h; exact h)
    | (intro u x _; have := Calm.refl u)

theorem execCheckpoint_keeps (bi : Nat) (s : State) : Keeps s (execCheckpoint bi s) := by
  have h₀ := Calm.refl s
  unfold execCheckpoint
  try dsimp only
  repeat' first
    | with_reducible assumption
    | with_reducible apply commit_calm
    | with_reducible apply ckptState_calm
    | with_reducible apply retestBar_calm
    | with_reducible apply stepEnds_calm
    | with_reducible apply ite_calm
    | with_reducible apply foldl_calm
    | with_reducible apply next_keeps
    | (intro u x _; have := Calm.refl u)

end Sys2Proof.Machine
end

