-- ==== Sys2Proof/Laws/KeptSystem.lean ====
section
/-!
SUPPORT. What the operations of Machine/System.lean keep.
-/

namespace Sys2Proof.Machine

theorem sysPlace_calm {s₀ s : State} (h₀ : Calm s₀ s) {pi : Nat} {va : Nat} {want : Want} : Calm s₀ (sysPlace s pi va want).1 := by
  unfold sysPlace
  try dsimp only
  repeat' first
    | with_reducible assumption
    | with_reducible apply postFault_calm
    | split
    | with_reducible refine translate_calm_of ?_ (by assumption)

theorem sysPlace_calm_of {s₀ s : State} (h₀ : Calm s₀ s) {pi : Nat} {va : Nat} {want : Want} {t : State} {x} (h : sysPlace s pi va want = (t, x)) : Calm s₀ t := by
  have := sysPlace_calm h₀ (pi := pi) (va := va) (want := want); rw [h] at this; exact this

theorem sysRead_calm {s₀ s : State} (h₀ : Calm s₀ s) {pi : Nat} {n : Nat} {x3 : SysAt} : Calm s₀ (sysRead s pi n x3).1 := by
  unfold sysRead
  try dsimp only
  repeat' first | with_reducible assumption | with_reducible apply mainRead_calm | split

theorem sysRead_calm_of {s₀ s : State} (h₀ : Calm s₀ s) {pi : Nat} {n : Nat} {x3 : SysAt} {t : State} {x} (h : sysRead s pi n x3 = (t, x)) : Calm s₀ t := by
  have := sysRead_calm h₀ (pi := pi) (n := n) (x3 := x3); rw [h] at this; exact this

theorem sysWrite_calm {s₀ s : State} (h₀ : Calm s₀ s) {pi : Nat} {bs : Bytes} {x : SysAt} :
    Calm s₀ (sysWrite s pi bs x) := by
  cases x with
  | own va => exact modProc_calm h₀ fun _ h => Memory.wf_writeN _ _ _ h
  | host a => exact setHost_calm h₀ fun h => Memory.wf_writeN _ _ _ h.host
  | main die pa dsc va => exact mainWrite_calm h₀

theorem sysPlaces_calm {s₀ s : State} (h₀ : Calm s₀ s) {pi : Nat} {want : Want} {rs : List (Nat × Nat)} :
    Calm s₀ (sysPlaces s pi want rs).1 := by
  induction rs generalizing s with
  | nil => exact h₀
  | cons r rs ih =>
    unfold sysPlaces
    have h := sysPlace_calm h₀ (pi := pi) (va := r.1) (want := want)
    split
    · rename_i e; rw [e] at h; exact h
    · rename_i e; rw [e] at h
      have k := ih h
      split <;> (rename_i e; rw [e] at k; exact k)

theorem sysPlaces_calm_of {s₀ s : State} (h₀ : Calm s₀ s) {pi : Nat} {want : Want} {rs : List (Nat × Nat)} {t : State} {x}
    (h : sysPlaces s pi want rs = (t, x)) : Calm s₀ t := by
  have := sysPlaces_calm h₀ (pi := pi) (want := want) (rs := rs); rw [h] at this; exact this

theorem procRead_calm {s₀ s : State} (h₀ : Calm s₀ s) {pi : Nat} {va : Nat} {n : Nat} : Calm s₀ (procRead s pi va n).1 := by
  unfold procRead
  try dsimp only
  repeat' first
    | with_reducible assumption
    | with_reducible apply sysRead_calm
    | with_reducible apply foldl_calm_fst
    | (intro u x _; have := Calm.refl u.1)
    | split
    | with_reducible refine sysPlaces_calm_of ?_ (by assumption)

theorem procRead_calm_of {s₀ s : State} (h₀ : Calm s₀ s) {pi : Nat} {va : Nat} {n : Nat} {t : State} {x} (h : procRead s pi va n = (t, x)) : Calm s₀ t := by
  have := procRead_calm h₀ (pi := pi) (va := va) (n := n); rw [h] at this; exact this

theorem procWrite_calm {s₀ s : State} (h₀ : Calm s₀ s) {pi : Nat} {va : Nat} {bs : Bytes} : Calm s₀ (procWrite s pi va bs).1 := by
  unfold procWrite
  try dsimp only
  repeat' first
    | with_reducible assumption
    | with_reducible apply sysWrite_calm
    | with_reducible apply foldl_calm_fst
    | (intro u x _; have := Calm.refl u.1)
    | split
    | with_reducible refine sysPlaces_calm_of ?_ (by assumption)

theorem procWrite_calm_of {s₀ s : State} (h₀ : Calm s₀ s) {pi : Nat} {va : Nat} {bs : Bytes} {t : State} {x} (h : procWrite s pi va bs = (t, x)) : Calm s₀ t := by
  have := procWrite_calm h₀ (pi := pi) (va := va) (bs := bs); rw [h] at this; exact this

theorem ret_calm {s₀ s : State} (h₀ : Calm s₀ s) {t : Nat} {value : Int} {more : List Nat} : Calm s₀ (ret s t value more) := by
  unfold ret
  try dsimp only
  repeat' first | with_reducible assumption | with_reducible apply post_calm | with_reducible apply modThread_calm

theorem sysCall_keeps {s : State} {core num : Nat} {f : Call → State} (h : ∀ c, Calm s (f c)) :
    Keeps s (sysCall s core num f) := by
  unfold sysCall
  apply next_keeps
  split
  · exact Calm.refl s
  · exact h _

theorem spawnThread_calm {s₀ s : State} (h₀ : Calm s₀ s) {pi : Nat} {pc : BitVec 64} : Calm s₀ (spawnThread s pi pc) := by
  unfold spawnThread
  try dsimp only
  repeat' first | with_reducible assumption | with_reducible apply set_calm

theorem endProcess_calm {s₀ s : State} (h₀ : Calm s₀ s) {pi : Nat} {value : Nat} : Calm s₀ (endProcess s pi value) := by
  unfold endProcess
  try dsimp only
  repeat' first
    | with_reducible assumption
    | with_reducible apply modProc_calm
    | (intro w h; exact h)
    | with_reducible refine setSysCores_calm ?_ (List.length_map _)

theorem execSystemCoreAccess_keeps (core : Nat) (act : SysAct) (s : State) : Keeps s (execSystemCoreAccess core act s) := by
  have h₀ := Calm.refl s
  unfold execSystemCoreAccess
  try dsimp only
  repeat' first
    | with_reducible assumption
    | with_reducible apply post_calm
    | with_reducible apply modThread_calm
    | with_reducible apply procWrite_calm
    | with_reducible apply modProc_calm
    | with_reducible apply modSysCore_calm
    | with_reducible apply spawnThread_calm
    | with_reducible apply endProcess_calm
    | with_reducible apply ite_calm
    | with_reducible apply next_keeps
    | (intro w h; exact h)
    | split
    | with_reducible refine procRead_calm_of ?_ (by assumption)

end Sys2Proof.Machine
end

