-- ==== Sys2Proof/Laws/KeptPlace.lean ====
section
/-!
SUPPORT. What the operations of Machine/Place.lean keep.
-/

namespace Sys2Proof.Machine

theorem takeTag_calm_of {s₀ s : State} (h₀ : Calm s₀ s) {li die : Nat} {t : State} (h : takeTag s li die = some t) :
    Calm s₀ t := by
  unfold takeTag at h
  split at h
  · injection h with h; subst h; exact h₀
  · split at h
    · simp at h
    · injection h with h; subst h; exact modDie_calm (modLaunch_calm h₀) (fun _ h => h) (fun _ h => h)

theorem newWave_ok (s : State) (bi idx slice die core part slot : Nat) :
    (s.newWave bi idx slice die core part slot).ok := by
  simp [Wave.ok, State.newWave]

theorem addWave_calm {s₀ s : State} (h₀ : Calm s₀ s) {bi idx slice die core : Nat} {at_ : Nat × Nat} :
    Calm s₀ (addWave s bi idx slice die core at_) := by
  have h : Calm s₀ (({ s with waves := s.waves ++ [s.newWave bi idx slice die core at_.1 at_.2] }).modBlock bi fun b =>
      { b with waves := b.waves ++ [s.waves.length] }) :=
    modBlock_calm (pushWave_calm h₀ rfl (newWave_ok ..)) (fun _ h => h)
  unfold addWave
  exact ite_calm (traceStart_calm h) h

theorem addSlice_calm {s₀ s : State} (h₀ : Calm s₀ s) {bi : Nat} {j : Nat} {die : Nat} {core : Nat} : Calm s₀ (addSlice s bi j die core) := by
  unfold addSlice
  try dsimp only
  repeat' first
    | with_reducible assumption
    | with_reducible apply addWave_calm
    | with_reducible apply foldl_calm
    | (intro u x _; have := Calm.refl u)
    | split

theorem dropCode_calm {s₀ s : State} (h₀ : Calm s₀ s) {die : Nat} {core : Nat} {asid : Nat} {base : Nat} {len : Nat} : Calm s₀ (dropCode s die core asid base len) := by
  unfold dropCode
  try dsimp only
  repeat' first | with_reducible assumption | with_reducible apply modCore_calm

theorem imageMemory_wf (k : Kernel) (slices : Nat) : (imageMemory k slices).wf = true := by
  unfold imageMemory
  generalize List.range slices = l
  suffices ∀ m : Memory, m.wf = true → (l.foldl (fun m j => m.writeN (0x80000 * j) k.image) m).wf = true from
    this [] Memory.wf_nil
  induction l with
  | nil => exact fun _ h => h
  | cons a l ih => exact fun m h => ih _ (Memory.wf_writeN _ _ _ h)

theorem placeAt_calm {s₀ s : State} (h₀ : Calm s₀ s) {li bi die cluster : Nat} {cores : List Nat} :
    Calm s₀ (placeAt s li bi die cluster cores) := by
  unfold placeAt
  dsimp only
  apply mapClusters_calm
  · apply modLaunch_calm
    apply foldl_calm
    · apply foldl_calm
      · apply modBlock_calm
        · apply modDie_calm
          · with_reducible apply set_calm
            exact h₀
          · exact fun d h => ⟨h.1, h.2.1, fun l hl => h.2.2 l (List.mem_filter.1 hl).1⟩
          · exact fun d h l hl => h l (List.mem_filter.1 hl).1
        · exact fun _ _ => imageMemory_wf ..
      · intro u x _; exact dropCode_calm (.refl u)
    · intro u x _; exact addSlice_calm (.refl u)
  · intro c h
    split
    · exact ⟨h.1, h.2, h.3, h.4, h.5, h.6⟩
    · exact h

theorem execPlaceBlock_keeps (li : Nat) (die : Nat) (cluster : Nat) (cores : List Nat) (s : State) : Keeps s (execPlaceBlock li die cluster cores s) := by
  have h₀ := Calm.refl s
  unfold execPlaceBlock
  try dsimp only
  repeat' first
    | with_reducible assumption
    | with_reducible apply placeAt_calm
    | with_reducible apply modVi_calm
    | with_reducible apply modLaunch_calm
    | with_reducible apply ite_calm
    | with_reducible apply next_keeps
    | (intro w h; exact h)
    | split
    | with_reducible refine takeTag_calm_of ?_ (by assumption)
    | with_reducible apply pushBlock_calm
    | exact Memory.wf_nil

theorem reenter_calm {s₀ s : State} (h₀ : Calm s₀ s) {wi : Nat} : Calm s₀ (reenter s wi) := by
  unfold reenter
  try dsimp only
  repeat' first
    | with_reducible assumption
    | with_reducible apply modWave_calm
    | with_reducible apply modOp_calm
    | with_reducible apply foldl_calm
    | (intro w h; first | exact h | (split <;> (try split) <;> exact h))
    | (intro u x _; have := Calm.refl u)
    | with_reducible apply set_calm

theorem comeBack_calm {s₀ s : State} (h₀ : Calm s₀ s) {wi : Nat} : Calm s₀ (comeBack s wi) := by
  unfold comeBack
  try dsimp only
  repeat' first
    | with_reducible assumption
    | with_reducible apply reenter_calm
    | with_reducible apply modWave_calm
    | with_reducible apply modPart_calm
    | with_reducible apply retestBar_calm
    | with_reducible apply retest_calm
    | (intro w h; exact h)
    | split

theorem restoreWave_calm {s₀ s : State} (h₀ : Calm s₀ s) {wi : Nat} {die : Nat} {core : Nat} {at_ : Nat × Nat} : Calm s₀ (restoreWave s wi die core at_) := by
  unfold restoreWave
  try dsimp only
  repeat' first
    | with_reducible assumption
    | with_reducible apply modWave_calm
    | with_reducible apply comeBack_calm
    | with_reducible apply resumeWave_calm
    | (intro w h; first | exact h | exact ⟨h.1, h.2.1, h.2.2.1, Nat.zero_le _⟩)
    | split

theorem restoreAt_calm {s₀ s : State} (h₀ : Calm s₀ s) {bi die cluster : Nat} {cores : List Nat} :
    Calm s₀ (restoreAt s bi die cluster cores) := by
  unfold restoreAt
  dsimp only
  apply foldl_calm
  · apply foldl_calm
    · refine modBlock_calm ?_ (fun _ h => h)
      apply ite_calm h₀
      apply moveFelt_calm h₀
      · exact fun d h => ⟨h.1, h.2.1, fun l hl => h.2.2 l (List.mem_filter.1 hl).1⟩
      · exact fun d h l hl => h l (List.mem_filter.1 hl).1
      · intro m d h
        refine ⟨h.1, h.2.1, fun l hl => ?_⟩
        rcases List.mem_append.1 hl with hl | hl
        · exact (m.die _).2.2 l (List.mem_filter.1 hl).1
        · exact h.2.2 l hl
      · intro m d h l hl
        rcases List.mem_append.1 hl with hl | hl
        · exact m.die _ l (List.mem_filter.1 hl).1
        · exact h l hl
    · intro u x _; exact trimController_calm (dropCode_calm (.refl u))
  · intro u j _
    split
    · apply foldl_calm (.refl u)
      intro v x _; exact restoreWave_calm (.refl v)
    · exact .refl u

theorem execRestore_keeps (bi : Nat) (die : Nat) (cluster : Nat) (cores : List Nat) (s : State) : Keeps s (execRestore bi die cluster cores s) := by
  have h₀ := Calm.refl s
  unfold execRestore
  try dsimp only
  repeat' first
    | with_reducible assumption
    | with_reducible apply restoreAt_calm
    | with_reducible apply ite_calm
    | with_reducible apply next_keeps
    | split
    | with_reducible refine takeTag_calm_of ?_ (by assumption)

theorem execReserveMode_keeps (li : Nat) (s : State) : Keeps s (execReserveMode li s) := by
  have h₀ := Calm.refl s
  unfold execReserveMode
  try dsimp only
  repeat' first
    | with_reducible assumption
    | with_reducible apply modCluster_calm
    | with_reducible apply ite_calm
    | with_reducible apply next_keeps
    | (intro w h; exact ⟨h.1, h.2, h.3, h.4, h.5, h.6⟩)
    | split

theorem execGangStarved_keeps (li : Nat) (s : State) : Keeps s (execGangStarved li s) := by
  have h₀ := Calm.refl s
  unfold execGangStarved
  try dsimp only
  repeat' first
    | with_reducible assumption
    | with_reducible apply post_calm
    | with_reducible apply modLaunch_calm
    | with_reducible apply ite_calm
    | with_reducible apply next_keeps
    | split

theorem leaveSlot_calm {s₀ s : State} (h₀ : Calm s₀ s) {wi : Nat} : Calm s₀ (leaveSlot s wi) := by
  unfold leaveSlot
  try dsimp only
  repeat' first | with_reducible assumption | with_reducible apply modCore_calm

theorem execWaveEnd_keeps (wi : Nat) (s : State) : Keeps s (execWaveEnd wi s) := by
  have h₀ := Calm.refl s
  unfold execWaveEnd
  try dsimp only
  repeat' first
    | with_reducible assumption
    | with_reducible apply leaveSlot_calm
    | with_reducible apply traceStop_calm
    | with_reducible apply modWave_calm
    | with_reducible apply barriers_calm
    | with_reducible apply ite_calm
    | with_reducible apply next_keeps
    | (intro w h; exact h)

theorem wakeWaiters_calm {s₀ s : State} (h₀ : Calm s₀ s) {li : Nat} {value : Int} : Calm s₀ (wakeWaiters s li value) := by
  unfold wakeWaiters
  try dsimp only
  repeat' first
    | with_reducible assumption
    | with_reducible apply ret_calm
    | with_reducible apply foldl_calm
    | (intro u x _; have := Calm.refl u)
    | with_reducible apply set_calm

theorem launchOver_calm {s₀ s : State} (h₀ : Calm s₀ s) {li : Nat} {st : LaunchState} : Calm s₀ (launchOver s li st) := by
  unfold launchOver
  try dsimp only
  repeat' first
    | with_reducible assumption
    | with_reducible apply modLaunch_calm
    | with_reducible apply modCore_calm
    | with_reducible apply wakeWaiters_calm
    | with_reducible apply foldl_calm
    | (intro w h; (split <;> first | exact h | exact ⟨h.1, h.2, h.3, h.4, h.5, h.6⟩ | simpa [Wave.ok] using h))
    | (intro u x _; have := Calm.refl u)
    | with_reducible apply mapClusters_calm

theorem completeLaunch_calm {s₀ s : State} (h₀ : Calm s₀ s) {li : Nat} : Calm s₀ (completeLaunch s li) := by
  unfold completeLaunch
  try dsimp only
  repeat' first | with_reducible assumption | with_reducible apply launchOver_calm | with_reducible apply ite_calm

theorem drainBlock_calm {s₀ s : State} (h₀ : Calm s₀ s) {bi : Nat} {die : Nat} : Calm s₀ (drainBlock s bi die) := by
  unfold drainBlock
  apply foldl_calm h₀
  intro u x _
  exact drainAt_calm (.refl u)

theorem execEndCommit_keeps (bi : Nat) (s : State) : Keeps s (execEndCommit bi s) := by
  have h₀ := Calm.refl s
  unfold execEndCommit
  try dsimp only
  repeat' first
    | with_reducible assumption
    | with_reducible apply drainBlock_calm
    | with_reducible apply stepEnds_calm
    | with_reducible apply commit_calm
    | with_reducible apply modBlock_calm
    | with_reducible apply completeLaunch_calm
    | with_reducible apply ite_calm
    | with_reducible apply foldl_calm
    | with_reducible apply next_keeps
    | (intro w h; exact Memory.wf_nil)
    | (intro u x _; have := Calm.refl u)

theorem execTagSweep_keeps (die : Nat) (t : Nat) (s : State) : Keeps s (execTagSweep die t s) := by
  have h₀ := Calm.refl s
  unfold execTagSweep
  try dsimp only
  repeat' first
    | with_reducible assumption
    | with_reducible apply modDie_calm
    | with_reducible apply modLaunch_calm
    | with_reducible apply ite_calm
    | with_reducible apply next_keeps
    | (intro w h; exact h)
    | split
    | with_reducible apply set_calm

end Sys2Proof.Machine
end

