-- ==== Sys2Proof/Laws/KeptMove.lean ====
section
/-!
SUPPORT. What the operations of Machine/Move.lean keep.
-/

namespace Sys2Proof.Machine

theorem reach_calm {s₀ s : State} (h₀ : Calm s₀ s) {ci : Nat} {va : Nat} {want : Want} : Calm s₀ (reach s ci va want).1 := by
  unfold reach
  try dsimp only
  repeat' first
    | with_reducible assumption
    | with_reducible apply modCopy_calm
    | with_reducible apply postFault_calm
    | split
    | with_reducible refine translate_calm_of ?_ (by assumption)

theorem reach_calm_of {s₀ s : State} (h₀ : Calm s₀ s) {ci : Nat} {va : Nat} {want : Want} {t : State} {x} (h : reach s ci va want = (t, x)) : Calm s₀ t := by
  have := reach_calm h₀ (ci := ci) (va := va) (want := want); rw [h] at this; exact this

theorem failCopy_calm {s₀ s : State} (h₀ : Calm s₀ s) {ci : Nat} {code : CopyFail} {addr : Nat} : Calm s₀ (failCopy s ci code addr) := by
  unfold failCopy
  try dsimp only
  repeat' first
    | with_reducible assumption
    | with_reducible apply post_calm
    | with_reducible apply modCopy_calm
    | with_reducible apply ite_calm

theorem notReached_calm {s₀ s : State} (h₀ : Calm s₀ s) {ci : Nat} {va : Nat} {x3 : Reach} : Calm s₀ (notReached s ci va x3) := by
  unfold notReached
  try dsimp only
  repeat' first
    | with_reducible assumption
    | with_reducible apply failCopy_calm
    | with_reducible apply modCopy_calm
    | split

theorem reachAll_calm {s₀ s : State} (h₀ : Calm s₀ s) {ci : Nat} {ls : List Nat} : Calm s₀ (reachAll s ci ls).1 := by
  induction ls generalizing s with
  | nil => exact h₀
  | cons l ls ih =>
    unfold reachAll
    split
    all_goals first
      | exact reach_calm_of h₀ (by assumption)
      | (split
         · rename_i e; have := ih (reach_calm_of h₀ (by assumption)); rw [e] at this; exact this
         · exact ih (reach_calm_of h₀ (by assumption)))

theorem reachAll_calm_of {s₀ s : State} (h₀ : Calm s₀ s) {ci : Nat} {ls : List Nat} {t : State} {x}
    (h : reachAll s ci ls = (t, x)) : Calm s₀ t := by
  have := reachAll_calm h₀ (ci := ci) (ls := ls); rw [h] at this; exact this

theorem readLine_calm {s₀ s : State} (h₀ : Calm s₀ s) {vi : Nat} {l : Nat} {x3 : Reach} : Calm s₀ (readLine s vi l x3).1 := by
  unfold readLine
  try dsimp only
  repeat' first | with_reducible assumption | with_reducible apply mainRead_calm | split

theorem readLine_calm_of {s₀ s : State} (h₀ : Calm s₀ s) {vi : Nat} {l : Nat} {x3 : Reach} {t : State} {x} (h : readLine s vi l x3 = (t, x)) : Calm s₀ t := by
  have := readLine_calm h₀ (vi := vi) (l := l) (x3 := x3); rw [h] at this; exact this

theorem sourceLines_calm {s₀ s : State} (h₀ : Calm s₀ s) {ci : Nat} {ls : List Nat} : Calm s₀ (sourceLines s ci ls).1 := by
  unfold sourceLines
  try dsimp only
  repeat' first
    | with_reducible assumption
    | with_reducible apply notReached_calm
    | with_reducible apply failCopy_calm
    | with_reducible apply readLine_calm
    | with_reducible apply foldl_calm_fst
    | (intro u x _; have := Calm.refl u.1)
    | split
    | with_reducible refine reachAll_calm_of ?_ (by assumption)

theorem sourceLines_calm_of {s₀ s : State} (h₀ : Calm s₀ s) {ci : Nat} {ls : List Nat} {t : State} {x} (h : sourceLines s ci ls = (t, x)) : Calm s₀ t := by
  have := sourceLines_calm h₀ (ci := ci) (ls := ls); rw [h] at this; exact this

theorem receive_calm {s₀ s : State} (h₀ : Calm s₀ s) {ci : Nat} {q : Nat} {n : Nat} : Calm s₀ (receive s ci q n) := by
  unfold receive
  try dsimp only
  repeat' first | with_reducible assumption | with_reducible apply modCopy_calm

theorem wroteLine_calm {s₀ s : State} (h₀ : Calm s₀ s) {ci : Nat} {line : Nat} : Calm s₀ (wroteLine s ci line) := by
  unfold wroteLine
  try dsimp only
  repeat' first | with_reducible assumption | with_reducible apply modCopy_calm

theorem appendLine_calm {s₀ s : State} (h₀ : Calm s₀ s) {h : Home} {blk : Nat} {die : Option Nat} {line : Nat} {ws : List LaneAcc} : Calm s₀ (appendLine s h blk die line ws) := by
  unfold appendLine
  try dsimp only
  repeat' first | with_reducible assumption | with_reducible apply setPresent_calm | with_reducible apply append_calm

theorem sendLine_calm {s₀ s : State} (h₀ : Calm s₀ s) {ci : Nat} {sp : TSpace} {die : Nat} {ws : List LaneAcc} : Calm s₀ (sendLine s ci sp die ws) := by
  unfold sendLine
  try dsimp only
  repeat' first | with_reducible assumption | with_reducible apply set_calm

theorem itemDone_calm {s₀ s : State} (h₀ : Calm s₀ s) {ci : Nat} {x : Nat × Nat} : Calm s₀ (itemDone s ci x) := by
  unfold itemDone
  try dsimp only
  repeat' first | with_reducible assumption | with_reducible apply modCopy_calm

theorem noteRows_calm {s₀ s : State} (h₀ : Calm s₀ s) {ci : Nat} {rows : List Nat} : Calm s₀ (noteRows s ci rows) := by
  unfold noteRows
  try dsimp only
  repeat' first | with_reducible assumption | with_reducible apply modCopy_calm

theorem skipSlice_calm {s₀ s : State} (h₀ : Calm s₀ s) {ci : Nat} {j : Nat} : Calm s₀ (skipSlice s ci j) := by
  unfold skipSlice
  try dsimp only
  repeat' first | with_reducible assumption | with_reducible apply modCopy_calm

theorem moveToMain_calm {s₀ s : State} (h₀ : Calm s₀ s) {ci : Nat} {x : Nat × Nat} {ps : List Piece} : Calm s₀ (moveToMain s ci x ps) := by
  unfold moveToMain
  try dsimp only
  repeat' first
    | with_reducible assumption
    | with_reducible apply revive_calm
    | with_reducible apply itemDone_calm
    | with_reducible apply hbmWrite_calm
    | with_reducible apply sendLine_calm
    | with_reducible apply notReached_calm
    | with_reducible apply ite_calm
    | with_reducible apply foldl_calm
    | (intro u x _; have := Calm.refl u)
    | split
    | with_reducible refine reach_calm_of ?_ (by assumption)
    | with_reducible refine sourceLines_calm_of ?_ (by assumption)

theorem moveToHome_calm {s₀ s : State} (h₀ : Calm s₀ s) {ci : Nat} {x : Nat × Nat} {ps : List Piece} : Calm s₀ (moveToHome s ci x ps) := by
  unfold moveToHome
  try dsimp only
  repeat' first
    | with_reducible assumption
    | with_reducible apply itemDone_calm
    | with_reducible apply wroteLine_calm
    | with_reducible apply appendLine_calm
    | split
    | with_reducible refine sourceLines_calm_of ?_ (by assumption)

theorem holdDelivery_calm {s₀ s : State} (h₀ : Calm s₀ s) {ci : Nat} {x : Nat × Nat} {ps : List Piece} : Calm s₀ (holdDelivery s ci x ps) := by
  unfold holdDelivery
  try dsimp only
  repeat' first
    | with_reducible assumption
    | with_reducible apply itemDone_calm
    | with_reducible apply modCopy_calm
    | split
    | with_reducible refine sourceLines_calm_of ?_ (by assumption)

theorem deliverHeld_calm {s₀ s : State} (h₀ : Calm s₀ s) {j : Nat} {ci : Nat} : Calm s₀ (deliverHeld s j ci) := by
  unfold deliverHeld
  try dsimp only
  repeat' first
    | with_reducible assumption
    | with_reducible apply setWatermark_calm
    | with_reducible apply append_calm
    | with_reducible apply modCopy_calm
    | with_reducible apply foldl_calm
    | (intro u x _; have := Calm.refl u)

theorem installSlice_calm {s₀ s : State} (h₀ : Calm s₀ s) {bi : Nat} {j : Nat} : Calm s₀ (installSlice s bi j) := by
  unfold installSlice
  try dsimp only
  repeat' first
    | with_reducible assumption
    | with_reducible apply modBlock_calm
    | with_reducible apply deliverHeld_calm
    | with_reducible apply foldl_calm
    | (intro w h; exact h)
    | (intro u x _; have := Calm.refl u)

theorem moveShare_calm {s₀ s : State} (h₀ : Calm s₀ s) {ci : Nat} {x : Nat × Nat} : Calm s₀ (moveShare s ci x) := by
  unfold moveShare
  try dsimp only
  repeat' first
    | with_reducible assumption
    | with_reducible apply modCopy_calm
    | with_reducible apply itemDone_calm
    | with_reducible apply receive_calm
    | with_reducible apply wroteLine_calm
    | with_reducible apply appendLine_calm
    | with_reducible apply sendLine_calm
    | with_reducible apply failCopy_calm
    | with_reducible apply ite_calm
    | split
    | with_reducible refine sourceLines_calm_of ?_ (by assumption)

theorem moveItem_calm {s₀ s : State} (h₀ : Calm s₀ s) {ci : Nat} {x : Nat × Nat} : Calm s₀ (moveItem s ci x) := by
  unfold moveItem
  try dsimp only
  repeat' first
    | with_reducible assumption
    | with_reducible apply moveShare_calm
    | with_reducible apply failCopy_calm
    | with_reducible apply modCopy_calm
    | with_reducible apply moveToHome_calm
    | with_reducible apply itemDone_calm
    | with_reducible apply skipSlice_calm
    | with_reducible apply moveToMain_calm
    | with_reducible apply holdDelivery_calm
    | with_reducible apply noteRows_calm
    | with_reducible apply ite_calm
    | split

theorem copyAtomic_calm {s₀ s : State} (h₀ : Calm s₀ s) {c : Copy} {h : Home} {a : Nat} {bs : Bytes} : Calm s₀ (copyAtomic s c h a bs) := by
  unfold copyAtomic
  try dsimp only
  repeat' first | with_reducible assumption | with_reducible apply raceAccess_calm | with_reducible apply append_calm

theorem placeRow_calm {s₀ s : State} (h₀ : Calm s₀ s) {ci : Nat} {row : Nat} {d : Nat} : Calm s₀ (placeRow s ci row d) := by
  unfold placeRow
  try dsimp only
  repeat' first | with_reducible assumption | with_reducible apply modCopy_calm

theorem setBump_calm {s₀ s : State} (h₀ : Calm s₀ s) {ci : Nat} {k : Nat} {new : List Nat} : Calm s₀ (setBump s ci k new) := by
  unfold setBump
  try dsimp only
  repeat' first | with_reducible assumption | with_reducible apply modCopy_calm

theorem addNote_calm {s₀ s : State} (h₀ : Calm s₀ s) {ci : Nat} : Calm s₀ (addNote s ci) := by
  unfold addNote
  try dsimp only
  repeat' first | with_reducible assumption | with_reducible apply modCopy_calm

theorem bumpRow_calm {s₀ s : State} (h₀ : Calm s₀ s) {ci : Nat} {k : Nat} : Calm s₀ (bumpRow s ci k) := by
  unfold bumpRow
  try dsimp only
  repeat' first
    | with_reducible assumption
    | with_reducible apply addNote_calm
    | with_reducible apply setBump_calm
    | with_reducible apply copyAtomic_calm
    | with_reducible apply placeRow_calm
    | with_reducible apply ite_calm

theorem decodeCopy_calm {s₀ s : State} (h₀ : Calm s₀ s) {ci : Nat} : Calm s₀ (decodeCopy s ci) := by
  unfold decodeCopy
  try dsimp only
  repeat' first
    | with_reducible assumption
    | with_reducible apply failCopy_calm
    | with_reducible apply modCopy_calm
    | with_reducible apply addNote_calm
    | with_reducible apply ite_calm
    | split
    | with_reducible refine sourceLines_calm_of ?_ (by assumption)

theorem moveCopy_calm {s₀ s : State} (h₀ : Calm s₀ s) {ci : Nat} {k : Nat} : Calm s₀ (moveCopy s ci k) := by
  unfold moveCopy
  try dsimp only
  repeat' first
    | with_reducible assumption
    | with_reducible apply failCopy_calm
    | with_reducible apply decodeCopy_calm
    | with_reducible apply bumpRow_calm
    | with_reducible apply moveItem_calm
    | with_reducible apply ite_calm
    | split

theorem execMove_keeps (ci : Nat) (k : Nat) (s : State) : Keeps s (execMove ci k s) := by
  have h₀ := Calm.refl s
  unfold execMove
  try dsimp only
  repeat' first | with_reducible assumption | with_reducible apply moveCopy_calm | with_reducible apply next_keeps

theorem copyOver_calm {s₀ s : State} (h₀ : Calm s₀ s) {ci : Nat} : Calm s₀ (copyOver s ci) := by
  unfold copyOver
  try dsimp only
  repeat' first | with_reducible assumption | with_reducible apply countDown_calm | with_reducible apply modCopy_calm

theorem countHere_calm {s₀ s : State} (h₀ : Calm s₀ s) {die : Nat} {pa : Nat} {inc : Nat} {note : Nat} {failed : Bool} : Calm s₀ (countHere s die pa inc note failed) := by
  unfold countHere
  try dsimp only
  repeat' first | with_reducible assumption | with_reducible apply hbmWrite_calm | with_reducible apply ite_calm

theorem countMain_calm {s₀ s : State} (h₀ : Calm s₀ s) {asid : Nat} {die : Nat} {va : Nat} {pa : Nat} {dsc : Bool} {inc : Nat} {note : Nat} {failed : Bool} : Calm s₀ (countMain s asid die va pa dsc inc note failed) := by
  unfold countMain
  try dsimp only
  repeat' first
    | with_reducible assumption
    | with_reducible apply countHere_calm
    | with_reducible apply mainWrite_calm

theorem sendCount_calm {s₀ s : State} (h₀ : Calm s₀ s) {ci : Nat} {die : Nat} {pa : Nat} : Calm s₀ (sendCount s ci die pa) := by
  unfold sendCount
  try dsimp only
  repeat' first | with_reducible assumption | with_reducible apply set_calm

theorem deliverEngine_calm {s₀ s : State} (h₀ : Calm s₀ s) {ai : Nat} : Calm s₀ (deliverEngine s ai) := by
  unfold deliverEngine
  try dsimp only
  repeat' first
    | with_reducible assumption
    | with_reducible apply modAcc_calm
    | with_reducible apply copyOver_calm
    | with_reducible apply countHere_calm
    | with_reducible apply hbmWrite_calm
    | with_reducible apply receive_calm
    | with_reducible apply wroteLine_calm
    | with_reducible apply appendLine_calm
    | with_reducible apply foldl_calm
    | (intro u x _; have := Calm.refl u)
    | split

theorem execPropagate_keeps (ai : Nat) (s : State) : Keeps s (execPropagate ai s) := by
  have h₀ := Calm.refl s
  unfold execPropagate
  try dsimp only
  repeat' first
    | with_reducible assumption
    | with_reducible apply deliverEngine_calm
    | with_reducible apply appendStore_calm
    | with_reducible apply ite_calm
    | with_reducible apply next_keeps

end Sys2Proof.Machine
end

