-- ==== Sys2Proof/Laws/KeptComplete.lean ====
section
/-!
SUPPORT. What the operations of Machine/Complete.lean keep.
-/

namespace Sys2Proof.Machine

theorem finishLines_calm {s₀ s : State} (h₀ : Calm s₀ s) {c : Copy} : Calm s₀ (finishLines s c) := by
  unfold finishLines
  try dsimp only
  repeat' first
    | with_reducible assumption
    | with_reducible apply setPresent_calm
    | with_reducible apply ite_calm
    | with_reducible apply foldl_calm
    | (intro u x _; have := Calm.refl u)
    | split

theorem supplyPeers_calm {s₀ s : State} (h₀ : Calm s₀ s) {c : Copy} : Calm s₀ (supplyPeers s c) := by
  unfold supplyPeers
  try dsimp only
  repeat' first | with_reducible assumption | with_reducible apply ite_calm | with_reducible apply set_calm

theorem beginComplete_calm {s₀ s : State} (h₀ : Calm s₀ s) {ci : Nat} : Calm s₀ (beginComplete s ci) := by
  unfold beginComplete
  try dsimp only
  repeat' first
    | with_reducible assumption
    | with_reducible apply supplyPeers_calm
    | with_reducible apply modCopy_calm
    | with_reducible apply finishLines_calm

theorem countAt_calm {s₀ s : State} (h₀ : Calm s₀ s) {ci : Nat} {h : Home} {a : Nat} : Calm s₀ (countAt s ci h a) := by
  unfold countAt
  try dsimp only
  repeat' first
    | with_reducible assumption
    | with_reducible apply copyAtomic_calm
    | with_reducible apply copyOver_calm
    | with_reducible apply setSyncRec_calm
    | with_reducible apply ite_calm

theorem counterLost_calm {s₀ s : State} (h₀ : Calm s₀ s) {ci : Nat} {code : CopyFail} {addr : Nat} : Calm s₀ (counterLost s ci code addr) := by
  unfold counterLost
  try dsimp only
  repeat' first
    | with_reducible assumption
    | with_reducible apply post_calm
    | with_reducible apply modCopy_calm
    | with_reducible apply copyOver_calm

theorem updateCounter_calm {s₀ s : State} (h₀ : Calm s₀ s) {ci : Nat} : Calm s₀ (updateCounter s ci) := by
  unfold updateCounter
  try dsimp only
  repeat' first
    | with_reducible assumption
    | with_reducible apply copyOver_calm
    | with_reducible apply countMain_calm
    | with_reducible apply sendCount_calm
    | with_reducible apply mainWrite_calm
    | with_reducible apply counterLost_calm
    | with_reducible apply countAt_calm
    | with_reducible apply ite_calm
    | split
    | with_reducible refine reach_calm_of ?_ (by assumption)

theorem completeCopy_calm {s₀ s : State} (h₀ : Calm s₀ s) {ci : Nat} : Calm s₀ (completeCopy s ci) := by
  unfold completeCopy
  try dsimp only
  repeat' first
    | with_reducible assumption
    | with_reducible apply updateCounter_calm
    | with_reducible apply beginComplete_calm
    | with_reducible apply ite_calm

theorem mapPage_calm {s₀ s : State} (h₀ : Calm s₀ s) {die : Nat} {leaf : Nat} {size : Nat} {entry : BitVec 64} {bs : Bytes} : Calm s₀ (mapPage s die leaf size entry bs) := by
  unfold mapPage
  try dsimp only
  repeat' first
    | with_reducible assumption
    | with_reducible apply modDie_calm
    | (intro w h; first | exact h | exact ⟨h.1, Memory.wf_writeN _ _ _ (Memory.wf_writeN _ _ _ (Memory.wf_clear _ _ _ h.2.1)), h.2.2⟩)

theorem releaseHeld_calm {s₀ s : State} (h₀ : Calm s₀ s) {f : XFault} : Calm s₀ (releaseHeld s f) := by
  unfold releaseHeld
  try dsimp only
  repeat' first
    | with_reducible assumption
    | with_reducible apply modCopy_calm
    | with_reducible apply foldl_calm
    | (intro u x _; have := Calm.refl u)

theorem unserviced_calm {s₀ s : State} (h₀ : Calm s₀ s) {x : Nat × Nat} : Calm s₀ (unserviced s x) := by
  unfold unserviced
  try dsimp only
  repeat' first
    | with_reducible assumption
    | with_reducible apply counterLost_calm
    | with_reducible apply failCopy_calm
    | with_reducible apply ite_calm

theorem execFaultService_keeps (die : Nat) (k : Nat) (answer : Option (BitVec 64 × Bytes)) (s : State) : Keeps s (execFaultService die k answer s) := by
  have h₀ := Calm.refl s
  unfold execFaultService
  try dsimp only
  repeat' first
    | with_reducible assumption
    | with_reducible apply releaseHeld_calm
    | with_reducible apply modDie_calm
    | with_reducible apply unserviced_calm
    | with_reducible apply mapPage_calm
    | with_reducible apply foldl_calm
    | with_reducible apply next_keeps
    | (intro w h; exact h)
    | (intro u x _; have := Calm.refl u)
    | split
    | with_reducible apply set_calm

end Sys2Proof.Machine
end

