-- ==== Sys2Proof/Laws/KeptPreempt.lean ====
section
/-!
SUPPORT. What the operations of Machine/Preempt.lean keep.
-/

namespace Sys2Proof.Machine

theorem execPreempt_keeps (bi : Nat) (gang : Bool) (s : State) : Keeps s (execPreempt bi gang s) := by
  have h₀ := Calm.refl s
  unfold execPreempt
  try dsimp only
  repeat' first
    | with_reducible assumption
    | with_reducible apply modBlock_calm
    | with_reducible apply ite_calm
    | with_reducible apply next_keeps
    | (intro w h; exact h)
    | split

theorem execDrainTimeout_keeps (bi : Nat) (s : State) : Keeps s (execDrainTimeout bi s) := by
  have h₀ := Calm.refl s
  unfold execDrainTimeout
  try dsimp only
  repeat' first
    | with_reducible assumption
    | with_reducible apply modBlock_calm
    | with_reducible apply ite_calm
    | with_reducible apply next_keeps
    | (intro w h; exact h)
    | split

theorem withdraw_calm {s₀ s : State} (h₀ : Calm s₀ s) {ai : Nat} : Calm s₀ (withdraw s ai) := by
  unfold withdraw
  try dsimp only
  repeat' first | with_reducible assumption | with_reducible apply countDown_calm | with_reducible apply modAcc_calm

theorem withdrawAll_calm {s₀ s : State} (h₀ : Calm s₀ s) {p : Nat → Bool} : Calm s₀ (withdrawAll s p) := by
  unfold withdrawAll
  try dsimp only
  repeat' first
    | with_reducible assumption
    | with_reducible apply withdraw_calm
    | with_reducible apply ite_calm
    | with_reducible apply foldl_calm
    | (intro u x _; have := Calm.refl u)

theorem shadowNow_calm {s₀ s : State} (h₀ : Calm s₀ s) {die : Nat} {lines : LineKey → Bool} {waves : List Nat} :
    Calm s₀ (shadowNow s die lines waves) := by
  unfold shadowNow
  apply foldl_calm
  · exact foldl_calm h₀ fun u _ _ => drainAt_calm (.refl u)
  · intro u wi _
    dsimp only
    split
    · exact .refl u
    · rename_i h
      simp only [State.endedWave, Bool.not_eq_true] at h
      apply shadowWrite_calm (.refl u)
      · intro m x hx
        injection hx with hx; subst hx
        exact m.wave wi
      · intro m x hx
        injection hx with hx; subst hx
        exact m.wave h

theorem saveWave_calm {s₀ s : State} (h₀ : Calm s₀ s) {wi : Nat} : Calm s₀ (saveWave s wi) := by
  unfold saveWave
  try dsimp only
  repeat' first
    | with_reducible assumption
    | with_reducible apply dropClaims_calm
    | with_reducible apply leaveSlot_calm
    | with_reducible apply flushBr_calm
    | with_reducible apply post_calm
    | with_reducible apply modWave_calm
    | with_reducible apply ite_calm
    | (intro w h; exact h)

theorem saveBlock_calm {s₀ s : State} (h₀ : Calm s₀ s) {bi : Nat} : Calm s₀ (saveBlock s bi) := by
  unfold saveBlock
  try dsimp only
  repeat' first
    | with_reducible assumption
    | with_reducible apply withdrawAll_calm
    | with_reducible apply shadowNow_calm
    | with_reducible apply saveWave_calm
    | with_reducible apply modBlock_calm
    | with_reducible apply foldl_calm
    | (intro w h; exact h)
    | (intro u x _; have := Calm.refl u)

theorem execSave_keeps (bi : Nat) (s : State) : Keeps s (execSave bi s) := by
  have h₀ := Calm.refl s
  unfold execSave
  try dsimp only
  repeat' first
    | with_reducible assumption
    | with_reducible apply saveBlock_calm
    | with_reducible apply ite_calm
    | with_reducible apply next_keeps

theorem discardWave_calm {s₀ s : State} (h₀ : Calm s₀ s) {wi : Nat} : Calm s₀ (discardWave s wi) := by
  unfold discardWave
  try dsimp only
  repeat' first
    | with_reducible assumption
    | with_reducible apply dropClaims_calm
    | with_reducible apply leaveSlot_calm
    | with_reducible apply traceStop_calm
    | with_reducible apply modPart_calm
    | with_reducible apply modWave_calm
    | with_reducible apply ite_calm
    | with_reducible apply foldl_calm
    | (intro w h; exact h)
    | (intro u x _; have := Calm.refl u)
    | split
    | with_reducible apply set_calm

theorem discardBlock_calm {s₀ s : State} (h₀ : Calm s₀ s) {bi : Nat} {st : BlockState} : Calm s₀ (discardBlock s bi st) := by
  unfold discardBlock
  try dsimp only
  repeat' first
    | with_reducible assumption
    | with_reducible apply modBlock_calm
    | with_reducible apply discardWave_calm
    | with_reducible apply foldl_calm
    | (intro w h; exact Memory.wf_nil)
    | (intro u x _; have := Calm.refl u)

theorem execFlushAndRestart_keeps (bi : Nat) (s : State) : Keeps s (execFlushAndRestart bi s) := by
  have h₀ := Calm.refl s
  unfold execFlushAndRestart
  try dsimp only
  repeat' first
    | with_reducible assumption
    | with_reducible apply discardBlock_calm
    | with_reducible apply ite_calm
    | with_reducible apply next_keeps

theorem discardCancelled_calm {s₀ s : State} (h₀ : Calm s₀ s) {li : Nat} : Calm s₀ (discardCancelled s li) := by
  unfold discardCancelled
  try dsimp only
  repeat' first
    | with_reducible assumption
    | with_reducible apply discardBlock_calm
    | with_reducible apply ite_calm
    | with_reducible apply foldl_calm
    | (intro u x _; have := Calm.refl u)

theorem finishCancel_calm {s₀ s : State} (h₀ : Calm s₀ s) {li : Nat} : Calm s₀ (finishCancel s li) := by
  unfold finishCancel
  try dsimp only
  repeat' first
    | with_reducible assumption
    | with_reducible apply discardCancelled_calm
    | with_reducible apply launchOver_calm
    | with_reducible apply ite_calm

theorem cancelBlock_calm {s₀ s : State} (h₀ : Calm s₀ s) {bi : Nat} : Calm s₀ (cancelBlock s bi) := by
  unfold cancelBlock
  try dsimp only
  repeat' first
    | with_reducible assumption
    | with_reducible apply modBlock_calm
    | with_reducible apply discardBlock_calm
    | (intro w h; exact h)
    | split

theorem cancelLaunch_calm {s₀ s : State} (h₀ : Calm s₀ s) {li : Nat} : Calm s₀ (cancelLaunch s li) := by
  unfold cancelLaunch
  try dsimp only
  repeat' first
    | with_reducible assumption
    | with_reducible apply modBlock_calm
    | with_reducible apply modLaunch_calm
    | with_reducible apply finishCancel_calm
    | with_reducible apply cancelBlock_calm
    | with_reducible apply ite_calm
    | with_reducible apply foldl_calm
    | (intro w h; exact h)
    | (intro u x _; have := Calm.refl u)

theorem takeDue_calm {s₀ s : State} (h₀ : Calm s₀ s) {bi : Nat} : Calm s₀ (takeDue s bi) := by
  unfold takeDue
  try dsimp only
  repeat' first
    | with_reducible assumption
    | with_reducible apply cancelLaunch_calm
    | with_reducible apply modBlock_calm
    | with_reducible apply ite_calm
    | (intro w h; exact h)
    | split

theorem execComplete_keeps (ci : Nat) (s : State) : Keeps s (execComplete ci s) := by
  have h₀ := Calm.refl s
  unfold execComplete
  try dsimp only
  repeat' first
    | with_reducible assumption
    | with_reducible apply completeCopy_calm
    | with_reducible apply finishCancel_calm
    | with_reducible apply ite_calm
    | with_reducible apply next_keeps

theorem migrateHome_calm {s₀ s : State} (h₀ : Calm s₀ s) {bi : Nat} : Calm s₀ (migrateHome s bi) := by
  unfold migrateHome
  try dsimp only
  repeat' first
    | with_reducible assumption
    | with_reducible apply takeDue_calm
    | with_reducible apply restoreAt_calm
    | with_reducible apply ite_calm
    | split
    | with_reducible refine takeTag_calm_of ?_ (by assumption)

theorem coolMark_calm {s₀ s : State} (h₀ : Calm s₀ s) {bi : Nat} : Calm s₀ (coolMark s bi) := by
  unfold coolMark
  try dsimp only
  repeat' first
    | with_reducible assumption
    | with_reducible apply takeDue_calm
    | with_reducible apply modBlock_calm
    | (intro w h; exact h)

theorem coolMarks_calm {s₀ s : State} (h₀ : Calm s₀ s)  : Calm s₀ (coolMarks s) := by
  unfold coolMarks
  try dsimp only
  repeat' first
    | with_reducible assumption
    | with_reducible apply coolMark_calm
    | with_reducible apply ite_calm
    | with_reducible apply foldl_calm
    | (intro u x _; have := Calm.refl u)

theorem execMigration_keeps (bi : Nat) (cluster : Nat) (cores : List Nat) (s : State) : Keeps s (execMigration bi cluster cores s) := by
  have h₀ := Calm.refl s
  unfold execMigration
  try dsimp only
  repeat' first
    | with_reducible assumption
    | with_reducible apply modBlock_calm
    | with_reducible apply migrateHome_calm
    | with_reducible apply coolMark_calm
    | with_reducible apply saveBlock_calm
    | with_reducible apply ite_calm
    | with_reducible apply next_keeps
    | (intro w h; exact h)
    | split

theorem execManagedPowerGating_keeps (die : Nat) (core : Nat) (s : State) : Keeps s (execManagedPowerGating die core s) := by
  have h₀ := Calm.refl s
  unfold execManagedPowerGating
  try dsimp only
  repeat' first
    | with_reducible assumption
    | with_reducible apply modCore_calm
    | with_reducible apply withdrawAll_calm
    | with_reducible apply ite_calm
    | with_reducible apply next_keeps

theorem dropRecs_calm {s₀ s : State} (h₀ : Calm s₀ s) {die : Nat} {core : Nat} : Calm s₀ (dropRecs s die core) := by
  unfold dropRecs
  try dsimp only
  repeat' first
    | with_reducible assumption
    | with_reducible apply modBlock_calm
    | with_reducible apply foldl_calm
    | (intro w h; exact h)
    | (intro u x _; have := Calm.refl u)

theorem execGatingCut_keeps (die : Nat) (core : Nat) (s : State) : Keeps s (execGatingCut die core s) := by
  have h₀ := Calm.refl s
  unfold execGatingCut
  try dsimp only
  repeat' first
    | with_reducible assumption
    | with_reducible apply withdrawAll_calm
    | with_reducible apply modWave_calm
    | with_reducible apply dropRecs_calm
    | with_reducible apply shadowNow_calm
    | with_reducible apply modCore_calm
    | with_reducible apply ite_calm
    | with_reducible apply foldl_calm
    | with_reducible apply next_keeps
    | (intro w h; first | exact h | exact ⟨h.1, h.2.1, h.2.2.1, Nat.zero_le _⟩)
    | (intro u x _; have := Calm.refl u)

theorem ungateWave_calm {s₀ s : State} (h₀ : Calm s₀ s) {wi : Nat} : Calm s₀ (ungateWave s wi) := by
  unfold ungateWave
  try dsimp only
  repeat' first
    | with_reducible assumption
    | with_reducible apply modWave_calm
    | with_reducible apply reenter_calm
    | with_reducible apply dueTrap_calm
    | with_reducible apply retestBar_calm
    | with_reducible apply retest_calm
    | with_reducible apply takeHeld_calm
    | with_reducible apply ite_calm
    | (intro w h; exact h)
    | split

theorem execGatingRestore_keeps (die : Nat) (core : Nat) (s : State) : Keeps s (execGatingRestore die core s) := by
  have h₀ := Calm.refl s
  unfold execGatingRestore
  try dsimp only
  repeat' first
    | with_reducible assumption
    | with_reducible apply ungateWave_calm
    | with_reducible apply modCore_calm
    | with_reducible apply ite_calm
    | with_reducible apply foldl_calm
    | with_reducible apply next_keeps
    | (intro u x _; have := Calm.refl u)

end Sys2Proof.Machine
end

