-- ==== Sys2Proof/Laws/KeptLanes.lean ====
section
/-!
SUPPORT. What the operations of Machine/Lanes.lean keep.
-/

namespace Sys2Proof.Machine

theorem cmpInstr_keeps (s : State) (i : Instr) (r : Rel) (k : BitVec 4) (a : BitVec 7) (b : BitVec 7) : Keeps s (cmpInstr s i r k a b) := by
  have h₀ := Calm.refl s
  unfold cmpInstr
  try dsimp only
  repeat' (with_reducible apply typedInstr_keeps)

theorem execCmpEq_keeps (m : BitVec 4) (a : BitVec 7) (b : BitVec 7) (s : State) : Keeps s (execCmpEq m a b s) := by
  have h₀ := Calm.refl s
  unfold execCmpEq
  try dsimp only
  repeat' (with_reducible apply cmpInstr_keeps)

theorem execCmpNe_keeps (m : BitVec 4) (a : BitVec 7) (b : BitVec 7) (s : State) : Keeps s (execCmpNe m a b s) := by
  have h₀ := Calm.refl s
  unfold execCmpNe
  try dsimp only
  repeat' (with_reducible apply cmpInstr_keeps)

theorem execCmpLt_keeps (m : BitVec 4) (a : BitVec 7) (b : BitVec 7) (s : State) : Keeps s (execCmpLt m a b s) := by
  have h₀ := Calm.refl s
  unfold execCmpLt
  try dsimp only
  repeat' (with_reducible apply cmpInstr_keeps)

theorem execCmpLe_keeps (m : BitVec 4) (a : BitVec 7) (b : BitVec 7) (s : State) : Keeps s (execCmpLe m a b s) := by
  have h₀ := Calm.refl s
  unfold execCmpLe
  try dsimp only
  repeat' (with_reducible apply cmpInstr_keeps)

theorem execCmpGt_keeps (m : BitVec 4) (a : BitVec 7) (b : BitVec 7) (s : State) : Keeps s (execCmpGt m a b s) := by
  have h₀ := Calm.refl s
  unfold execCmpGt
  try dsimp only
  repeat' (with_reducible apply cmpInstr_keeps)

theorem execCmpGe_keeps (m : BitVec 4) (a : BitVec 7) (b : BitVec 7) (s : State) : Keeps s (execCmpGe m a b s) := by
  have h₀ := Calm.refl s
  unfold execCmpGe
  try dsimp only
  repeat' (with_reducible apply cmpInstr_keeps)

theorem execCmpOrd_keeps (m : BitVec 4) (a : BitVec 7) (b : BitVec 7) (s : State) : Keeps s (execCmpOrd m a b s) := by
  have h₀ := Calm.refl s
  unfold execCmpOrd
  try dsimp only
  repeat' (with_reducible apply cmpInstr_keeps)

theorem execCmpEqU_keeps (m : BitVec 4) (a : BitVec 7) (b : BitVec 7) (s : State) : Keeps s (execCmpEqU m a b s) := by
  have h₀ := Calm.refl s
  unfold execCmpEqU
  try dsimp only
  repeat' (with_reducible apply cmpInstr_keeps)

theorem execCmpNeU_keeps (m : BitVec 4) (a : BitVec 7) (b : BitVec 7) (s : State) : Keeps s (execCmpNeU m a b s) := by
  have h₀ := Calm.refl s
  unfold execCmpNeU
  try dsimp only
  repeat' (with_reducible apply cmpInstr_keeps)

theorem execCmpLtU_keeps (m : BitVec 4) (a : BitVec 7) (b : BitVec 7) (s : State) : Keeps s (execCmpLtU m a b s) := by
  have h₀ := Calm.refl s
  unfold execCmpLtU
  try dsimp only
  repeat' (with_reducible apply cmpInstr_keeps)

theorem execCmpLeU_keeps (m : BitVec 4) (a : BitVec 7) (b : BitVec 7) (s : State) : Keeps s (execCmpLeU m a b s) := by
  have h₀ := Calm.refl s
  unfold execCmpLeU
  try dsimp only
  repeat' (with_reducible apply cmpInstr_keeps)

theorem execCmpGtU_keeps (m : BitVec 4) (a : BitVec 7) (b : BitVec 7) (s : State) : Keeps s (execCmpGtU m a b s) := by
  have h₀ := Calm.refl s
  unfold execCmpGtU
  try dsimp only
  repeat' (with_reducible apply cmpInstr_keeps)

theorem execCmpGeU_keeps (m : BitVec 4) (a : BitVec 7) (b : BitVec 7) (s : State) : Keeps s (execCmpGeU m a b s) := by
  have h₀ := Calm.refl s
  unfold execCmpGeU
  try dsimp only
  repeat' (with_reducible apply cmpInstr_keeps)

theorem execCmpUno_keeps (m : BitVec 4) (a : BitVec 7) (b : BitVec 7) (s : State) : Keeps s (execCmpUno m a b s) := by
  have h₀ := Calm.refl s
  unfold execCmpUno
  try dsimp only
  repeat' (with_reducible apply cmpInstr_keeps)

theorem maskInstr_keeps (s : State) (i : Instr) (k : BitVec 4) (f : Wave → Word) : Keeps s (maskInstr s i k f) := by
  have h₀ := Calm.refl s
  unfold maskInstr
  try dsimp only
  repeat' (with_reducible apply laneFree_keeps)

theorem execKand_keeps (d : BitVec 4) (a : BitVec 4) (b : BitVec 4) (s : State) : Keeps s (execKand d a b s) := by
  have h₀ := Calm.refl s
  unfold execKand
  try dsimp only
  repeat' (with_reducible apply maskInstr_keeps)

theorem execKor_keeps (d : BitVec 4) (a : BitVec 4) (b : BitVec 4) (s : State) : Keeps s (execKor d a b s) := by
  have h₀ := Calm.refl s
  unfold execKor
  try dsimp only
  repeat' (with_reducible apply maskInstr_keeps)

theorem execKxor_keeps (d : BitVec 4) (a : BitVec 4) (b : BitVec 4) (s : State) : Keeps s (execKxor d a b s) := by
  have h₀ := Calm.refl s
  unfold execKxor
  try dsimp only
  repeat' (with_reducible apply maskInstr_keeps)

theorem execKandn_keeps (d : BitVec 4) (a : BitVec 4) (b : BitVec 4) (s : State) : Keeps s (execKandn d a b s) := by
  have h₀ := Calm.refl s
  unfold execKandn
  try dsimp only
  repeat' (with_reducible apply maskInstr_keeps)

theorem execKnot_keeps (d : BitVec 4) (a : BitVec 4) (s : State) : Keeps s (execKnot d a s) := by
  have h₀ := Calm.refl s
  unfold execKnot
  try dsimp only
  repeat' (with_reducible apply maskInstr_keeps)

theorem execKmov_keeps (d : BitVec 4) (a : BitVec 4) (s : State) : Keeps s (execKmov d a s) := by
  have h₀ := Calm.refl s
  unfold execKmov
  try dsimp only
  repeat' (with_reducible apply maskInstr_keeps)

theorem execKset_keeps (d : BitVec 4) (v : BitVec 7) (s : State) : Keeps s (execKset d v s) := by
  have h₀ := Calm.refl s
  unfold execKset
  try dsimp only
  repeat' (with_reducible apply laneFree_keeps)

theorem execKget_keeps (v : BitVec 7) (a : BitVec 4) (s : State) : Keeps s (execKget v a s) := by
  have h₀ := Calm.refl s
  unfold execKget
  try dsimp only
  repeat' (with_reducible apply laneFree_keeps)

theorem execKpop_keeps (v : BitVec 7) (a : BitVec 4) (s : State) : Keeps s (execKpop v a s) := by
  have h₀ := Calm.refl s
  unfold execKpop
  try dsimp only
  repeat' (with_reducible apply laneFree_keeps)

theorem execKfirst_keeps (v : BitVec 7) (a : BitVec 4) (s : State) : Keeps s (execKfirst v a s) := by
  have h₀ := Calm.refl s
  unfold execKfirst
  try dsimp only
  repeat' (with_reducible apply laneFree_keeps)

theorem execKtest_keeps (a : BitVec 4) (b : BitVec 4) (s : State) : Keeps s (execKtest a b s) := by
  have h₀ := Calm.refl s
  unfold execKtest
  try dsimp only
  repeat' (with_reducible apply laneFree_keeps)

theorem execShape_keeps (d : BitVec 7) (a : BitVec 7) (s : State) : Keeps s (execShape d a s) := by
  have h₀ := Calm.refl s
  unfold execShape
  try dsimp only
  repeat' (with_reducible apply laneFree_keeps)

theorem execSassert_keeps (a : BitVec 7) (n : BitVec 3) (s : State) : Keeps s (execSassert a n s) := by
  have h₀ := Calm.refl s
  unfold execSassert
  try dsimp only
  repeat' first
    | with_reducible assumption
    | with_reducible apply begin__keeps
    | with_reducible apply stall_calm
    | with_reducible apply issueTrap_calm
    | with_reducible apply laneEffect_calm
    | with_reducible apply ite_calm
    | intro wi

theorem execSforce_keeps (d : BitVec 7) (s : State) : Keeps s (execSforce d s) := by
  have h₀ := Calm.refl s
  unfold execSforce
  try dsimp only
  repeat' (with_reducible apply laneFree_keeps)

theorem execScompact_keeps (d : BitVec 7) (s : State) : Keeps s (execScompact d s) := by
  have h₀ := Calm.refl s
  unfold execScompact
  try dsimp only
  repeat' (with_reducible apply laneFree_keeps)

theorem execLane_keeps (d : BitVec 7) (s : State) : Keeps s (execLane d s) := by
  have h₀ := Calm.refl s
  unfold execLane
  try dsimp only
  repeat' (with_reducible apply laneFree_keeps)

theorem permInstr_keeps (s : State) (i : Instr) (d : BitVec 7) (a : BitVec 7) (b : BitVec 7) (src : Nat → Word → Nat) : Keeps s (permInstr s i d a b src) := by
  have h₀ := Calm.refl s
  unfold permInstr
  try dsimp only
  repeat' (with_reducible apply laneFree_keeps)

theorem execPerm_keeps (d : BitVec 7) (a : BitVec 7) (b : BitVec 7) (s : State) : Keeps s (execPerm d a b s) := by
  have h₀ := Calm.refl s
  unfold execPerm
  try dsimp only
  repeat' (with_reducible apply permInstr_keeps)

theorem execLmoveLo_keeps (d : BitVec 7) (a : BitVec 7) (b : BitVec 7) (s : State) : Keeps s (execLmoveLo d a b s) := by
  have h₀ := Calm.refl s
  unfold execLmoveLo
  try dsimp only
  repeat' (with_reducible apply permInstr_keeps)

theorem execLmoveHi_keeps (d : BitVec 7) (a : BitVec 7) (b : BitVec 7) (s : State) : Keeps s (execLmoveHi d a b s) := by
  have h₀ := Calm.refl s
  unfold execLmoveHi
  try dsimp only
  repeat' (with_reducible apply permInstr_keeps)

theorem execLmoveFlip_keeps (d : BitVec 7) (a : BitVec 7) (b : BitVec 7) (s : State) : Keeps s (execLmoveFlip d a b s) := by
  have h₀ := Calm.refl s
  unfold execLmoveFlip
  try dsimp only
  repeat' (with_reducible apply permInstr_keeps)

theorem execLmoveRot_keeps (d : BitVec 7) (a : BitVec 7) (b : BitVec 7) (s : State) : Keeps s (execLmoveRot d a b s) := by
  have h₀ := Calm.refl s
  unfold execLmoveRot
  try dsimp only
  repeat' (with_reducible apply permInstr_keeps)

theorem execBcast_keeps (d : BitVec 7) (a : BitVec 7) (b : BitVec 7) (s : State) : Keeps s (execBcast d a b s) := by
  have h₀ := Calm.refl s
  unfold execBcast
  try dsimp only
  repeat' (with_reducible apply laneFree_keeps)

theorem quadInstr_keeps (s : State) (i : Instr) (d : BitVec 7) (a : BitVec 7) (x : Nat) : Keeps s (quadInstr s i d a x) := by
  have h₀ := Calm.refl s
  unfold quadInstr
  try dsimp only
  repeat' (with_reducible apply laneFree_keeps)

theorem execQswapH_keeps (d : BitVec 7) (a : BitVec 7) (s : State) : Keeps s (execQswapH d a s) := by
  have h₀ := Calm.refl s
  unfold execQswapH
  try dsimp only
  repeat' (with_reducible apply quadInstr_keeps)

theorem execQswapV_keeps (d : BitVec 7) (a : BitVec 7) (s : State) : Keeps s (execQswapV d a s) := by
  have h₀ := Calm.refl s
  unfold execQswapV
  try dsimp only
  repeat' (with_reducible apply quadInstr_keeps)

theorem execQswapD_keeps (d : BitVec 7) (a : BitVec 7) (s : State) : Keeps s (execQswapD d a s) := by
  have h₀ := Calm.refl s
  unfold execQswapD
  try dsimp only
  repeat' (with_reducible apply quadInstr_keeps)

theorem execHelper_keeps (a : BitVec 4) (s : State) : Keeps s (execHelper a s) := by
  have h₀ := Calm.refl s
  unfold execHelper
  try dsimp only
  repeat' (with_reducible apply laneFree_keeps)

theorem reduxSum_keeps (s : State) (i : Instr) (d : BitVec 7) (a : BitVec 7) (n : Nat) : Keeps s (reduxSum s i d a n) := by
  have h₀ := Calm.refl s
  unfold reduxSum
  try dsimp only
  repeat' (with_reducible apply laneInstr_keeps)

theorem execReduxAdd_keeps (d : BitVec 7) (a : BitVec 7) (s : State) : Keeps s (execReduxAdd d a s) := by
  have h₀ := Calm.refl s
  unfold execReduxAdd
  try dsimp only
  repeat' (with_reducible apply reduxSum_keeps)

theorem reduxPickInstr_keeps (s : State) (i : Instr) (mx : Bool) (d : BitVec 7) (a : BitVec 7) : Keeps s (reduxPickInstr s i mx d a) := by
  have h₀ := Calm.refl s
  unfold reduxPickInstr
  try dsimp only
  repeat' (with_reducible apply laneInstr_keeps)

theorem execReduxMin_keeps (d : BitVec 7) (a : BitVec 7) (s : State) : Keeps s (execReduxMin d a s) := by
  have h₀ := Calm.refl s
  unfold execReduxMin
  try dsimp only
  repeat' (with_reducible apply reduxPickInstr_keeps)

theorem execReduxMax_keeps (d : BitVec 7) (a : BitVec 7) (s : State) : Keeps s (execReduxMax d a s) := by
  have h₀ := Calm.refl s
  unfold execReduxMax
  try dsimp only
  repeat' (with_reducible apply reduxPickInstr_keeps)

theorem execReduxAddn_keeps (d : BitVec 7) (a : BitVec 7) (n : BitVec 3) (s : State) : Keeps s (execReduxAddn d a n s) := by
  have h₀ := Calm.refl s
  unfold execReduxAddn
  try dsimp only
  repeat' (with_reducible apply reduxSum_keeps)

theorem scanSum_keeps (s : State) (i : Instr) (d : BitVec 7) (a : BitVec 7) (n : Nat) : Keeps s (scanSum s i d a n) := by
  have h₀ := Calm.refl s
  unfold scanSum
  try dsimp only
  repeat' (with_reducible apply laneInstr_keeps)

theorem execScanAdd_keeps (d : BitVec 7) (a : BitVec 7) (s : State) : Keeps s (execScanAdd d a s) := by
  have h₀ := Calm.refl s
  unfold execScanAdd
  try dsimp only
  repeat' (with_reducible apply scanSum_keeps)

theorem execScanAddn_keeps (d : BitVec 7) (a : BitVec 7) (n : BitVec 3) (s : State) : Keeps s (execScanAddn d a n s) := by
  have h₀ := Calm.refl s
  unfold execScanAddn
  try dsimp only
  repeat' (with_reducible apply scanSum_keeps)

end Sys2Proof.Machine
end

