-- ==== Sys2Proof/Laws/KeptBundle.lean ====
section
/-!
SUPPORT. What the operations of Machine/Bundle.lean keep.
-/

namespace Sys2Proof.Machine

theorem placeCode_calm {s₀ s : State} (h₀ : Calm s₀ s) {h : Nat} {b : Bundle} {die : Nat} : Calm s₀ (placeCode s h b die) := by
  unfold placeCode
  try dsimp only
  repeat' first
    | with_reducible assumption
    | with_reducible apply hbmWrite_calm
    | with_reducible apply modDie_calm
    | (intro w h; exact h)

theorem placeTemplates_calm {s₀ s : State} (h₀ : Calm s₀ s) {die : Nat} {idx : List Nat} {ts : List Template} : Calm s₀ (placeTemplates s die idx ts) := by
  unfold placeTemplates
  try dsimp only
  repeat' first | with_reducible assumption | with_reducible apply modDie_calm | (intro w h; exact h)

theorem placeImage_calm {s₀ s : State} (h₀ : Calm s₀ s) {vi : Nat} {die : Nat} {addr : Nat} {cut : Bool} {bs : Bytes} : Calm s₀ (placeImage s vi die addr cut bs) := by
  unfold placeImage
  try dsimp only
  repeat' first
    | with_reducible assumption
    | with_reducible apply append_calm
    | with_reducible apply setWatermark_calm
    | with_reducible apply setPresent_calm
    | with_reducible apply foldl_calm
    | (intro u x _; have := Calm.refl u)

theorem placeBundle_calm {s₀ s : State} (h₀ : Calm s₀ s) {c : Call} {win : Nat} {bs : Bytes} {l : Loading} : Calm s₀ (placeBundle s c win bs l) := by
  unfold placeBundle
  try dsimp only
  repeat' first
    | with_reducible assumption
    | with_reducible apply placeTemplates_calm
    | with_reducible apply placeCode_calm
    | with_reducible apply placeImage_calm
    | with_reducible apply foldl_calm
    | (intro u x _; have := Calm.refl u)
    | with_reducible apply set_calm

theorem execBundleLoad_keeps (core : Nat) (s : State) : Keeps s (execBundleLoad core s) := by
  have h₀ := Calm.refl s
  unfold execBundleLoad
  try dsimp only
  repeat' first
    | with_reducible assumption
    | with_reducible apply sysCall_keeps
    | with_reducible apply ret_calm
    | with_reducible apply placeBundle_calm
    | intro wi
    | split
    | with_reducible refine procRead_calm_of ?_ (by assumption)

theorem execBundleUnload_keeps (core : Nat) (s : State) : Keeps s (execBundleUnload core s) := by
  have h₀ := Calm.refl s
  unfold execBundleUnload
  try dsimp only
  repeat' first
    | with_reducible assumption
    | with_reducible apply sysCall_keeps
    | with_reducible apply ret_calm
    | with_reducible apply modDie_calm
    | with_reducible apply dropTlb_calm
    | with_reducible apply ite_calm
    | with_reducible apply foldl_calm
    | (intro w h; exact h)
    | (intro u x _; have := Calm.refl u)
    | intro wi
    | split
    | with_reducible apply set_calm

theorem procName_calm {s₀ s : State} (h₀ : Calm s₀ s) {pi n va : Nat} : Calm s₀ (procName s pi n va).1 := by
  induction n generalizing s va with
  | zero => exact h₀
  | succ n ih =>
    unfold procName
    have h := procRead_calm h₀ (pi := pi) (va := va) (n := 1)
    split
    · rename_i e; rw [e] at h
      split
      · exact h
      · have k := ih (va := va + 1) h
        split <;> (rename_i e; rw [e] at k; exact k)
    · rename_i e; rw [e] at h; exact h

theorem procName_calm_of {s₀ s : State} (h₀ : Calm s₀ s) {pi n va : Nat} {t : State} {x}
    (h : procName s pi n va = (t, x)) : Calm s₀ t := by
  have := procName_calm h₀ (pi := pi) (n := n) (va := va); rw [h] at this; exact this

theorem execKernelFind_keeps (core : Nat) (s : State) : Keeps s (execKernelFind core s) := by
  have h₀ := Calm.refl s
  unfold execKernelFind
  try dsimp only
  repeat' first
    | with_reducible assumption
    | with_reducible apply sysCall_keeps
    | with_reducible apply ret_calm
    | intro wi
    | split
    | with_reducible refine procName_calm_of ?_ (by assumption)

end Sys2Proof.Machine
end

