-- ==== Sys2Proof/Laws/KeptCalls.lean ====
section
/-!
SUPPORT. What the operations of Machine/Calls.lean keep.
-/

namespace Sys2Proof.Machine

theorem execLaunchSystemCall_keeps (core : Nat) (s : State) : Keeps s (execLaunchSystemCall core s) := by
  have h₀ := Calm.refl s
  unfold execLaunchSystemCall
  try dsimp only
  repeat' first
    | with_reducible assumption
    | with_reducible apply sysCall_keeps
    | with_reducible apply ret_calm
    | with_reducible apply ite_calm
    | intro wi
    | split
    | with_reducible refine procRead_calm_of ?_ (by assumption)
    | with_reducible refine queueRecord_calm_of ?_ (by assumption)

theorem execLaunchWait_keeps (core : Nat) (s : State) : Keeps s (execLaunchWait core s) := by
  have h₀ := Calm.refl s
  unfold execLaunchWait
  try dsimp only
  repeat' first
    | with_reducible assumption
    | with_reducible apply sysCall_keeps
    | with_reducible apply ret_calm
    | with_reducible apply modThread_calm
    | with_reducible apply ite_calm
    | intro wi
    | split
    | with_reducible apply set_calm

theorem execLaunchWaitTimeout_keeps (thread : Nat) (s : State) : Keeps s (execLaunchWaitTimeout thread s) := by
  have h₀ := Calm.refl s
  unfold execLaunchWaitTimeout
  try dsimp only
  repeat' first
    | with_reducible assumption
    | with_reducible apply ret_calm
    | with_reducible apply next_keeps
    | split
    | with_reducible apply set_calm

theorem execLaunchCancel_keeps (core : Nat) (s : State) : Keeps s (execLaunchCancel core s) := by
  have h₀ := Calm.refl s
  unfold execLaunchCancel
  try dsimp only
  repeat' first
    | with_reducible assumption
    | with_reducible apply sysCall_keeps
    | with_reducible apply ret_calm
    | with_reducible apply cancelLaunch_calm
    | with_reducible apply ite_calm
    | intro wi
    | split

theorem execLaunchTime_keeps (core : Nat) (s : State) : Keeps s (execLaunchTime core s) := by
  have h₀ := Calm.refl s
  unfold execLaunchTime
  try dsimp only
  repeat' first
    | with_reducible assumption
    | with_reducible apply sysCall_keeps
    | with_reducible apply ret_calm
    | with_reducible apply ite_calm
    | intro wi
    | split
    | with_reducible refine procWrite_calm_of ?_ (by assumption)

theorem execQueueOpen_keeps (core : Nat) (s : State) : Keeps s (execQueueOpen core s) := by
  have h₀ := Calm.refl s
  unfold execQueueOpen
  try dsimp only
  repeat' first
    | with_reducible assumption
    | with_reducible apply sysCall_keeps
    | with_reducible apply ret_calm
    | with_reducible apply modVi_calm
    | with_reducible apply ite_calm
    | (intro w h; exact h)
    | intro wi
    | split

theorem execQueueClose_keeps (core : Nat) (s : State) : Keeps s (execQueueClose core s) := by
  have h₀ := Calm.refl s
  unfold execQueueClose
  try dsimp only
  repeat' first
    | with_reducible assumption
    | with_reducible apply sysCall_keeps
    | with_reducible apply ret_calm
    | with_reducible apply modVi_calm
    | with_reducible apply ite_calm
    | (intro w h; exact h)
    | intro wi

theorem execRaceConfig_keeps (core : Nat) (s : State) : Keeps s (execRaceConfig core s) := by
  have h₀ := Calm.refl s
  unfold execRaceConfig
  try dsimp only
  repeat' first
    | with_reducible assumption
    | with_reducible apply sysCall_keeps
    | with_reducible apply ret_calm
    | with_reducible apply modVi_calm
    | with_reducible apply ite_calm
    | (intro w h; exact h)
    | intro wi

theorem clearRuns_wf (f : Nat → Nat × Nat) (l : List Nat) {m : Memory} (h : m.wf = true) :
    (l.foldl (fun m j => m.clear (f j).1 (f j).2) m).wf = true := by
  induction l generalizing m with
  | nil => exact h
  | cons a l ih => exact ih (Memory.wf_clear _ _ _ h)

theorem clearBuffers_calm {s₀ s : State} (h₀ : Calm s₀ s) {vi base tbsize : Nat} : Calm s₀ (clearBuffers s vi base tbsize) := by
  unfold clearBuffers
  refine foldl_calm h₀ fun u d _ => foldl_calm (.refl u) fun v c _ => ?_
  refine modCore_calm (modDie_calm (.refl v) (fun x h => ⟨?_, h.2⟩) fun _ h => h)
  generalize List.range 128 = l
  generalize v.scratchPhys vi d = g
  generalize (v.owned vi d).idxOf c = j
  exact clearRuns_wf (fun slot => (g (base + tbsize * (128 * j + slot)), g (base + tbsize * (128 * j + slot)) + 16)) _ h.1

theorem execTraceConfig_keeps (core : Nat) (s : State) : Keeps s (execTraceConfig core s) := by
  have h₀ := Calm.refl s
  unfold execTraceConfig
  try dsimp only
  repeat' first
    | with_reducible assumption
    | with_reducible apply sysCall_keeps
    | with_reducible apply ret_calm
    | with_reducible apply modVi_calm
    | with_reducible apply clearBuffers_calm
    | with_reducible apply ite_calm
    | (intro w h; exact h)
    | intro wi

theorem execRequeue_keeps (core : Nat) (s : State) : Keeps s (execRequeue core s) := by
  have h₀ := Calm.refl s
  unfold execRequeue
  try dsimp only
  repeat' first
    | with_reducible assumption
    | with_reducible apply sysCall_keeps
    | with_reducible apply ret_calm
    | with_reducible apply modBlock_calm
    | (intro w h; exact h)
    | intro wi
    | split

theorem reply_calm {s₀ s : State} (h₀ : Calm s₀ s) {vi : Nat} {status : Int} {more : Bytes} : Calm s₀ (reply s vi status more) := by
  unfold reply
  try dsimp only
  repeat' first
    | with_reducible assumption
    | with_reducible apply post_calm
    | with_reducible apply modVi_calm
    | (intro w h; exact h)

theorem postMessage_calm {s₀ s : State} (h₀ : Calm s₀ s) {vi : Nat} {i : Instr} {typ : Nat} {fields : Bytes} {early : Bool} {serve : State → State}
    (hs : ∀ t, Calm t (serve t)) : Calm s₀ (postMessage s vi i typ fields early serve) := by
  unfold postMessage
  dsimp only
  repeat' (first
    | (with_reducible assumption)
    | (with_reducible apply ite_calm)
    | (with_reducible apply modVi_calm)
    | (intro w h; exact h)
    | (refine Calm.trans ?_ (hs _)))

theorem segmentMem_wf (l : List Segment) : (segmentMem l).wf = true := by
  suffices ∀ m : Memory, m.wf = true → (l.foldl (fun m g => m.writeN g.va (g.bytes.take g.size)) m).wf = true from
    this [] Memory.wf_nil
  induction l with
  | nil => exact fun _ h => h
  | cons a l ih => exact fun m h => ih _ (Memory.wf_writeN _ _ _ h)

theorem serveStart_calm {s₀ s : State} (h₀ : Calm s₀ s) {vi addr len asid : Nat} : Calm s₀ (serveStart vi addr len asid s) := by
  unfold serveStart
  dsimp only
  generalize (parseBundle (s.hostMem.readN addr len)).filter BundleImage.headerOk = o
  generalize s.hostMem.readN addr len = bs
  cases o with
  | none => exact reply_calm h₀
  | some b =>
    have h := pushProc_calm (p := { vi := vi, asid := asid, bundle := bs, mem := segmentMem b.segments }) h₀
      (segmentMem_wf _)
    dsimp only
    refine ite_calm (reply_calm h₀) (ite_calm (reply_calm h₀) (reply_calm ?_))
    exact spawnThread_calm h

theorem serveSignal_calm {s₀ s : State} (h₀ : Calm s₀ s) {vi proc sig : Nat} : Calm s₀ (serveSignal vi proc sig s) := by
  unfold serveSignal
  split
  · exact reply_calm h₀
  · refine reply_calm (modProc_calm h₀ ?_)
    exact fun _ h => h

theorem serveStatus_calm {s₀ s : State} (h₀ : Calm s₀ s) {vi : Nat} {proc : Nat} : Calm s₀ (serveStatus vi proc s) := by
  unfold serveStatus
  try dsimp only
  repeat' first | with_reducible assumption | with_reducible apply reply_calm | split

theorem serveAttest_calm {s₀ s : State} (h₀ : Calm s₀ s) {vi : Nat} {target : Nat} {nonce : Bytes} : Calm s₀ (serveAttest vi target nonce s) := by
  unfold serveAttest
  try dsimp only
  repeat' first
    | with_reducible assumption
    | with_reducible apply reply_calm
    | with_reducible apply ite_calm
    | (with_reducible refine setLeaf_calm ?_ (by rw [Kept.write_value]; exact Nat.le_succ _))

theorem serveRecovered_calm {s₀ s : State} (h₀ : Calm s₀ s) {vi : Nat} : Calm s₀ (serveRecovered vi s) := by
  unfold serveRecovered
  try dsimp only
  repeat' first | with_reducible assumption | with_reducible apply reply_calm

theorem execStart_keeps (vi : Nat) (addr : Nat) (len : Nat) (asid : Nat) (s : State) : Keeps s (execStart vi addr len asid s) := by
  have h₀ := Calm.refl s
  unfold execStart
  try dsimp only
  repeat' first
    | with_reducible assumption
    | with_reducible apply Calm.refl
    | with_reducible apply postMessage_calm
    | with_reducible apply serveStart_calm
    | with_reducible apply next_keeps
    | intro wi

theorem execSignal_keeps (vi : Nat) (proc : Nat) (sig : Nat) (s : State) : Keeps s (execSignal vi proc sig s) := by
  have h₀ := Calm.refl s
  unfold execSignal
  try dsimp only
  repeat' first
    | with_reducible assumption
    | with_reducible apply Calm.refl
    | with_reducible apply postMessage_calm
    | with_reducible apply serveSignal_calm
    | with_reducible apply next_keeps
    | intro wi

theorem execStatus_keeps (vi : Nat) (proc : Nat) (s : State) : Keeps s (execStatus vi proc s) := by
  have h₀ := Calm.refl s
  unfold execStatus
  try dsimp only
  repeat' first
    | with_reducible assumption
    | with_reducible apply Calm.refl
    | with_reducible apply postMessage_calm
    | with_reducible apply serveStatus_calm
    | with_reducible apply next_keeps
    | intro wi

theorem execAttest_keeps (vi : Nat) (target : Nat) (nonce : Bytes) (s : State) : Keeps s (execAttest vi target nonce s) := by
  have h₀ := Calm.refl s
  unfold execAttest
  try dsimp only
  repeat' first
    | with_reducible assumption
    | with_reducible apply Calm.refl
    | with_reducible apply postMessage_calm
    | with_reducible apply serveAttest_calm
    | with_reducible apply next_keeps
    | intro wi

theorem execRecovered_keeps (vi : Nat) (s : State) : Keeps s (execRecovered vi s) := by
  have h₀ := Calm.refl s
  unfold execRecovered
  try dsimp only
  repeat' first
    | with_reducible assumption
    | with_reducible apply Calm.refl
    | with_reducible apply postMessage_calm
    | with_reducible apply serveRecovered_calm
    | with_reducible apply next_keeps
    | intro wi

theorem serveWaiting_calm {s₀ s : State} (h₀ : Calm s₀ s) {vi : Nat} : Calm s₀ (serveWaiting s vi) := by
  unfold serveWaiting
  try dsimp only
  repeat' first
    | with_reducible assumption
    | with_reducible apply serveStart_calm
    | with_reducible apply serveSignal_calm
    | with_reducible apply serveStatus_calm
    | with_reducible apply serveAttest_calm
    | with_reducible apply serveRecovered_calm
    | split

theorem serveEarly_calm {s₀ s : State} (h₀ : Calm s₀ s)  : Calm s₀ (serveEarly s) := by
  unfold serveEarly
  try dsimp only
  repeat' first | with_reducible assumption | with_reducible apply serveWaiting_calm | split

theorem execResourceDescriptorRequest_keeps (vi : Nat) (desc : ViDesc) (s : State) : Keeps s (execResourceDescriptorRequest vi desc s) := by
  have h₀ := Calm.refl s
  unfold execResourceDescriptorRequest
  try dsimp only
  repeat' first
    | with_reducible assumption
    | with_reducible apply modVi_calm
    | with_reducible apply ite_calm
    | with_reducible apply next_keeps
    | (intro w h; exact h)

end Sys2Proof.Machine
end

