-- ==== Sys2Proof/Laws/KeptOutside.lean ====
section
/-!
SUPPORT. What the operations of Machine/Outside.lean keep.
-/

namespace Sys2Proof.Machine

theorem setRaf_calm {s₀ s : State} (h₀ : Calm s₀ s) {die : Nat} {win : Nat} {asid : Nat} {e : Option (BitVec 128)} : Calm s₀ (setRaf s die win asid e) := by
  unfold setRaf
  try dsimp only
  repeat' first
    | with_reducible assumption
    | with_reducible apply modDie_calm
    | with_reducible apply dropTlb_calm
    | (intro w h; exact h)

theorem execMap_keeps (core : Nat) (s : State) : Keeps s (execMap core s) := by
  have h₀ := Calm.refl s
  unfold execMap
  try dsimp only
  repeat' first
    | with_reducible assumption
    | with_reducible apply sysCall_keeps
    | with_reducible apply ret_calm
    | with_reducible apply setRaf_calm
    | with_reducible apply ite_calm
    | intro wi

theorem execUnmap_keeps (core : Nat) (s : State) : Keeps s (execUnmap core s) := by
  have h₀ := Calm.refl s
  unfold execUnmap
  try dsimp only
  repeat' first
    | with_reducible assumption
    | with_reducible apply sysCall_keeps
    | with_reducible apply ret_calm
    | with_reducible apply setRaf_calm
    | with_reducible apply ite_calm
    | intro wi

theorem discardPage_calm {s₀ s : State} (h₀ : Calm s₀ s) {die : Nat} {asid : Nat} {page : Nat} : Calm s₀ (discardPage s die asid page) := by
  unfold discardPage
  try dsimp only
  repeat' first
    | with_reducible assumption
    | with_reducible apply modDie_calm
    | with_reducible apply dropTlb_calm
    | with_reducible apply ite_calm
    | (intro w h; first | exact h | exact ⟨h.1, Memory.wf_writeN _ _ _ h.2.1, h.2.2⟩)
    | split
    | with_reducible apply set_calm

theorem execDiscard_keeps (core : Nat) (s : State) : Keeps s (execDiscard core s) := by
  have h₀ := Calm.refl s
  unfold execDiscard
  try dsimp only
  repeat' first
    | with_reducible assumption
    | with_reducible apply sysCall_keeps
    | with_reducible apply ret_calm
    | with_reducible apply discardPage_calm
    | with_reducible apply ite_calm
    | with_reducible apply foldl_calm
    | (intro u x _; have := Calm.refl u)
    | intro wi
    | split

theorem evictPage_calm {s₀ s : State} (h₀ : Calm s₀ s) {die asid : Nat} {p : Nat × Nat × Nat} :
    Calm s₀ (evictPage s die asid p) := by
  have h : ∀ bs, Calm s₀ ((dropTlb s die asid fun t => t.leaf == p.2.2).modDie die fun d =>
      { d with hbm := d.hbm.writeN p.2.2 bs }) := fun bs =>
    modDie_calm (dropTlb_calm h₀) (fun _ h => ⟨h.1, Memory.wf_writeN _ _ _ h.2.1, h.2.2⟩) (fun _ h => h)
  unfold evictPage
  exact setHost_calm (h _) fun m => Memory.wf_writeN _ _ _ (Memory.wf_clear _ _ _ m.host)

theorem execEviction_keeps (die : Nat) (s : State) : Keeps s (execEviction die s) := by
  have h₀ := Calm.refl s
  unfold execEviction
  try dsimp only
  repeat' first
    | with_reducible assumption
    | with_reducible apply evictPage_calm
    | with_reducible apply ite_calm
    | with_reducible apply foldl_calm
    | with_reducible apply next_keeps
    | (intro u x _; have := Calm.refl u)
    | split

theorem execTlbInvalidate_keeps (die : Nat) (site : Nat) (k : Nat) (s : State) : Keeps s (execTlbInvalidate die site k s) := by
  have h₀ := Calm.refl s
  unfold execTlbInvalidate
  try dsimp only
  repeat' first
    | with_reducible assumption
    | with_reducible apply modDie_calm
    | with_reducible apply ite_calm
    | with_reducible apply next_keeps
    | (intro w h; exact h)
    | split

theorem execLinkDown_keeps (port : Nat) (s : State) : Keeps s (execLinkDown port s) := by
  have h₀ := Calm.refl s
  unfold execLinkDown
  try dsimp only
  repeat' first | with_reducible assumption | with_reducible apply next_keeps | with_reducible apply set_calm

theorem atOwner_calm {s₀ s : State} (h₀ : Calm s₀ s) {asid va : Nat} {want : Want}
    {f : State → Nat → Nat → Bool → State} (hf : ∀ t d p b, Calm t (f t d p b)) : Calm s₀ (atOwner s asid va want f) := by
  unfold atOwner
  dsimp only
  apply ite_calm h₀
  split
  · exact (translate_calm_of h₀ (by assumption)).trans (hf ..)
  · exact post_calm (translate_calm_of h₀ (by assumption))
  · exact post_calm (translate_calm_of h₀ (by assumption))
  · exact post_calm (postFault_calm (translate_calm_of h₀ (by assumption)))

theorem peerRead_calm {s₀ s : State} (h₀ : Calm s₀ s) {die : Nat} {asid : Nat} {pa : Nat} {n : Nat} {dsc : Bool} : Calm s₀ (peerRead s die asid pa n dsc).1 := by
  unfold peerRead
  try dsimp only
  repeat' first | with_reducible assumption | with_reducible apply mainRead_calm | split

theorem peerRead_calm_of {s₀ s : State} (h₀ : Calm s₀ s) {die : Nat} {asid : Nat} {pa : Nat} {n : Nat} {dsc : Bool} {t : State} {x} (h : peerRead s die asid pa n dsc = (t, x)) : Calm s₀ t := by
  have := peerRead_calm h₀ (die := die) (asid := asid) (pa := pa) (n := n) (dsc := dsc); rw [h] at this; exact this

theorem deliverPeer_calm {s₀ s : State} (h₀ : Calm s₀ s) {die : Nat} {vi : Nat} {a : Nat} {bs : Bytes} : Calm s₀ (deliverPeer s die vi a bs) := by
  unfold deliverPeer
  try dsimp only
  repeat' first
    | with_reducible assumption
    | with_reducible apply receive_calm
    | with_reducible apply wroteLine_calm
    | with_reducible apply appendLine_calm
    | split

theorem contribute_calm {s₀ s : State} (h₀ : Calm s₀ s) {peer : Nat} {tmpl : Nat} {n : Nat} {ws : List Word} : Calm s₀ (contribute s peer tmpl n ws) := by
  unfold contribute
  try dsimp only
  repeat' first | with_reducible assumption | with_reducible apply set_calm

theorem acceptPeer_calm {s₀ s : State} (h₀ : Calm s₀ s) {peer : Nat} {tmpl : Nat} {n : Nat} : Calm s₀ (acceptPeer s peer tmpl n) := by
  unfold acceptPeer
  try dsimp only
  repeat' first | with_reducible assumption | with_reducible apply set_calm

theorem execFabricRequest_keeps (r : FabReq) (s : State) : Keeps s (execFabricRequest r s) := by
  have h₀ := Calm.refl s
  unfold execFabricRequest
  try dsimp only
  repeat' first
    | with_reducible assumption
    | with_reducible apply atOwner_calm
    | with_reducible apply post_calm
    | with_reducible apply mainWrite_calm
    | with_reducible apply peerRead_calm
    | with_reducible apply countMain_calm
    | with_reducible apply acceptPeer_calm
    | with_reducible apply deliverPeer_calm
    | with_reducible apply contribute_calm
    | with_reducible apply ite_calm
    | with_reducible apply next_keeps
    | (intro u x _; have := Calm.refl u)
    | intro wi
    | split

theorem execCxlMemRequest_keeps (vi : Nat) (off : Nat) (data : Option Bytes) (n : Nat) (s : State) : Keeps s (execCxlMemRequest vi off data n s) := by
  have h₀ := Calm.refl s
  unfold execCxlMemRequest
  try dsimp only
  repeat' first
    | with_reducible assumption
    | with_reducible apply modVi_calm
    | with_reducible apply post_calm
    | with_reducible apply ite_calm
    | with_reducible apply next_keeps
    | (intro w h; exact Memory.wf_writeN _ _ _ h)
    | split

theorem setCmp_calm {s₀ s : State} (h₀ : Calm s₀ s) {die : Nat} {core : Nat} {i : Nat} {f : Comparator → Comparator} : Calm s₀ (setCmp s die core i f) := by
  unfold setCmp
  try dsimp only
  repeat' first | with_reducible assumption | with_reducible apply modCore_calm

theorem setTraceRead_calm {s₀ s : State} (h₀ : Calm s₀ s) {die : Nat} {core : Nat} {slot : Nat} {v : Nat} : Calm s₀ (setTraceRead s die core slot v) := by
  unfold setTraceRead
  try dsimp only
  repeat' first | with_reducible assumption | with_reducible apply scratchPut_calm | split

theorem setMsgState_calm {s₀ s : State} (h₀ : Calm s₀ s) {vi : Nat} {v : Nat} : Calm s₀ (setMsgState s vi v) := by
  unfold setMsgState
  try dsimp only
  repeat' first
    | with_reducible assumption
    | with_reducible apply modVi_calm
    | (intro w h; (split <;> (try split) <;> exact h))

theorem execRegisterWrite_keeps (r : HubReg) (v : Nat) (s : State) : Keeps s (execRegisterWrite r v s) := by
  have h₀ := Calm.refl s
  unfold execRegisterWrite
  try dsimp only
  repeat' first
    | with_reducible assumption
    | with_reducible apply modCluster_calm
    | with_reducible apply setCmp_calm
    | with_reducible apply modVi_calm
    | with_reducible apply setTraceRead_calm
    | with_reducible apply setMsgState_calm
    | with_reducible apply ite_calm
    | with_reducible apply next_keeps
    | (intro w h; first | exact h | exact ⟨h.1, h.2, Nat.min_le_left .., h.4, h.5, h.6⟩ | exact ⟨h.1, h.2, h.3, h.4, h.5, h.6⟩)
    | split
    | with_reducible apply set_calm

theorem markLine_calm {s₀ s : State} (h₀ : Calm s₀ s) {key : LineKey} {code : Nat} : Calm s₀ (markLine s key code) := by
  unfold markLine
  try dsimp only
  repeat' first
    | with_reducible assumption
    | with_reducible apply post_calm
    | with_reducible apply modDie_calm
    | (intro w h; exact h)

theorem breakSlot_calm {s₀ s : State} (h₀ : Calm s₀ s) {key : LineKey} : Calm s₀ (breakSlot s key) := by
  unfold breakSlot
  apply modDie_calm_of h₀
  · intro m d hd
    refine ⟨hd.1, hd.2.1, ?_⟩
    intro l hl
    have k := feltLine_mem m (s.keyDie key) key
    rcases List.mem_cons.1 hl with rfl | hl
    · split
      · exact k
      · split <;> exact k
    · exact hd.2.2 l (List.mem_filter.1 hl).1
  · intro m d hd l hl
    have k := feltLine_wave m (s.keyDie key) key
    rcases List.mem_cons.1 hl with rfl | hl
    · split
      · exact k
      · split <;> exact k
    · exact hd l (List.mem_filter.1 hl).1

theorem loseWatermark_calm {s₀ s : State} (h₀ : Calm s₀ s) {key : LineKey} : Calm s₀ (loseWatermark s key) := by
  unfold loseWatermark
  try dsimp only
  repeat' first | with_reducible assumption | with_reducible apply setWatermark_calm | split

theorem execUncorrectableError_keeps (t : ErrTarget) (s : State) : Keeps s (execUncorrectableError t s) := by
  have h₀ := Calm.refl s
  unfold execUncorrectableError
  try dsimp only
  repeat' first
    | with_reducible assumption
    | with_reducible apply modWave_calm
    | with_reducible apply markLine_calm
    | with_reducible apply breakSlot_calm
    | with_reducible apply loseWatermark_calm
    | with_reducible apply ite_calm
    | with_reducible apply next_keeps
    | (intro w h; exact h)
    | split

theorem execSelectSlot_keeps (slot : Nat) (s : State) : Keeps s (execSelectSlot slot s) := by
  have h₀ := Calm.refl s
  unfold execSelectSlot
  try dsimp only
  repeat' first | with_reducible assumption | with_reducible apply next_keeps | with_reducible apply set_calm

theorem execRaiseRollbackMinimum_keeps (v : Nat) (s : State) : Keeps s (execRaiseRollbackMinimum v s) := by
  have h₀ := Calm.refl s
  unfold execRaiseRollbackMinimum
  try dsimp only
  repeat' first
    | with_reducible assumption
    | with_reducible apply next_keeps
    | with_reducible refine setRoll_calm ?_ (Nat.le_max_left ..)

end Sys2Proof.Machine
end

