-- ==== Sys2Proof/Laws/KeptPower.lean ====
section
/-!
SUPPORT. What the operations of Machine/Power.lean keep.
-/

namespace Sys2Proof.Machine

/-! ### Settings of a cluster -/

theorem ClusterState.ok.clockReady {c : ClusterState} (h : c.ok) : c.clockReady.ok := by
  unfold ClusterState.clockReady
  split
  · rename_i f e
    split
    · exact ⟨h.1, h.2, h.3, h.4, fun g hg => h.want g (e ▸ hg), by simp⟩
    · exact h
  · exact h

theorem ClusterState.ok.newWeights {c : ClusterState} (h : c.ok) : c.newWeights.ok := ⟨h.1, h.2, h.3, h.4, h.5, h.6⟩

theorem ClusterState.ok.lower {c : ClusterState} (h : c.ok) : c.lower.1.ok := by
  unfold ClusterState.lower
  split
  · rename_i hp
    exact ⟨h.1, Nat.max_le.2 ⟨hp, h.floor⟩, h.3, h.4, h.5, h.6⟩
  · split
    · exact h
    · split
      · exact ⟨h.1, h.2, h.3, h.4, h.5, h.6⟩
      · split
        · rename_i hs
          refine ⟨h.1, h.2, h.3, h.4, ?_, h.6⟩
          intro f hf
          injection hf with hf
          have := h.clock.2
          exact ⟨by omega, by omega⟩
        · exact h

theorem ClusterState.ok.restore {c : ClusterState} (h : c.ok) : c.restore.ok := by
  unfold ClusterState.restore
  split
  · rename_i hc
    have hs : c.step < 20 := by simp at hc; exact hc.1
    have hw : ∀ f, some (c.step + 1) = some f → clockOk f := by
      intro f hf
      injection hf with hf
      have := h.clock.1
      exact ⟨by omega, by omega⟩
    apply ClusterState.ok.clockReady
    dsimp only
    split <;> exact ⟨h.1, h.2, h.3, h.4, h.5, hw⟩
  · split
    · exact ⟨h.1, Nat.le_trans (Nat.sub_le ..) h.2, h.3, h.4, h.5, h.6⟩
    · exact h

theorem ClusterState.ok.railStep {c : ClusterState} (h : c.ok) : c.railStep.ok := by
  unfold ClusterState.railStep
  split
  · exact ⟨Nat.min_le_left .., h.2, h.3, h.4, h.5, h.6⟩
  · split
    · exact ⟨Nat.min_le_left .., h.2, h.3, h.4, h.5, h.6⟩
    · split
      · exact ⟨Nat.le_trans (Nat.sub_le ..) h.1, h.2, h.3, h.4, h.5, h.6⟩
      · exact h

theorem execBellowsWindow_keeps (cl : Nat) (s : State) : Keeps s (execBellowsWindow cl s) := by
  have h₀ := Calm.refl s
  unfold execBellowsWindow
  dsimp only
  apply next_keeps
  apply ite_calm h₀
  have h : Calm s (s.modCluster cl fun _ =>
      { (if s.overBudget cl then (s.cluster cl).lower.1 else if s.underBudget cl then (s.cluster cl).restore
          else s.cluster cl).newWeights with
        winClk := (s.cluster cl).winClk + 64, isOver := s.overBudget cl && (s.cluster cl).lower.2
        passWas := (s.cluster cl).pass, passAt := s.clk cl }) := by
    apply modCluster_calm_of h₀
    intro p c _
    have k := p.cluster cl
    have : ClusterState.ok (if s.overBudget cl then (s.cluster cl).lower.1 else if s.underBudget cl then (s.cluster cl).restore
          else s.cluster cl) := by
      split
      · exact k.lower
      · split
        · exact k.restore
        · exact k
    exact ⟨this.1, this.2, this.3, this.4, this.5, this.6⟩
  exact ite_calm (post_calm h) h

theorem execRailStep_keeps (cl : Nat) (s : State) : Keeps s (execRailStep cl s) :=
  next_keeps (modCluster_calm (.refl s) fun _ h => h.railStep.clockReady)

theorem execClockStep_keeps (cl : Nat) (s : State) : Keeps s (execClockStep cl s) := by
  refine next_keeps (modCluster_calm (.refl s) fun c h => ?_)
  split
  · exact ⟨h.1, h.2, h.3, h.next _ (by assumption), by simp, h.6⟩
  · exact h

theorem execGuardRelease_keeps (cl : Nat) (s : State) : Keeps s (execGuardRelease cl s) := by
  have h₀ := Calm.refl s
  unfold execGuardRelease
  try dsimp only
  repeat' first
    | with_reducible assumption
    | with_reducible apply modCluster_calm
    | with_reducible apply ite_calm
    | with_reducible apply next_keeps
    | (intro w h; exact ⟨h.1, h.2, h.3, h.4, h.5, h.6⟩)

theorem execBudgetLease_keeps (lease : Bytes) (s : State) : Keeps s (execBudgetLease lease s) := by
  have h₀ := Calm.refl s
  unfold execBudgetLease
  try dsimp only
  repeat' first
    | with_reducible assumption
    | with_reducible apply ite_calm
    | with_reducible apply next_keeps
    | with_reducible apply set_calm

theorem execLeaseExpiry_keeps (s : State) : Keeps s (execLeaseExpiry s) := by
  have h₀ := Calm.refl s
  unfold execLeaseExpiry
  try dsimp only
  repeat' first | with_reducible assumption | with_reducible apply next_keeps | with_reducible apply set_calm

theorem execHbmSensorRead_keeps (stack : Nat) (centi : Int) (s : State) : Keeps s (execHbmSensorRead stack centi s) := by
  have h₀ := Calm.refl s
  unfold execHbmSensorRead
  try dsimp only
  repeat' first | with_reducible assumption | with_reducible apply next_keeps | with_reducible apply setStacks_calm

theorem execTallowUpdate_keeps (die : Nat) (core : Nat) (allow : BitVec 16) (s : State) : Keeps s (execTallowUpdate die core allow s) := by
  have h₀ := Calm.refl s
  unfold execTallowUpdate
  try dsimp only
  repeat' first
    | with_reducible assumption
    | with_reducible apply coolMarks_calm
    | with_reducible apply modCore_calm
    | with_reducible apply next_keeps

end Sys2Proof.Machine
end

