-- ==== Sys2Proof/Laws/KeptRecover.lean ====
section
/-!
SUPPORT. What the operations of Machine/Recover.lean keep.
-/

namespace Sys2Proof.Machine

theorem tornSlot_calm {s₀ s : State} (h₀ : Calm s₀ s) {key : LineKey} {bs : Bytes} : Calm s₀ (tornSlot s key bs) := by
  unfold tornSlot
  try dsimp only
  repeat' first
    | with_reducible assumption
    | with_reducible apply commit_calm
    | with_reducible apply ckptState_calm
    | with_reducible apply drainAt_calm
    | with_reducible apply ite_calm
    | split

theorem tornWrite_calm {s₀ s : State} (h₀ : Calm s₀ s) {x : Torn} : Calm s₀ (tornWrite s x) := by
  cases x with
  | felt key slot => exact tornSlot_calm h₀
  | leaf => exact setLeaf_calm h₀ (Nat.le_of_eq (Kept.cutOff_value ..).symm)
  | select slot => exact set_calm h₀

theorem powerless_calm {s₀ s : State} (h₀ : Calm s₀ s) : Calm s₀ (powerless s) := by
  refine h₀.trans ⟨fun m => ⟨?_, ?_, ?_, ?_, m.host, m.procs⟩, fun m => ⟨?_, ?_⟩, ?_, ?_, Nat.le_refl _, Nat.le_refl _⟩
  · exact forall_mem_map (fun d h => ⟨rfl, rfl, h.2.2⟩) _ m.dies
  · refine forall_mem_map (P := fun b : Block => b.shared.wf = true) (fun b h => ?_) _ m.blocks
    unfold Block.powerless
    split
    · rfl
    · exact h
  · refine forall_mem_map (P := fun w : Wave => w.spill.wf = true) (fun w h => ?_) _ m.waves
    unfold Wave.powerless
    split <;> rfl
  · exact forall_mem_map (P := fun v : ViState => v.hdm.wf = true) (fun v _ => rfl) _ m.vis
  · refine forall_mem_map (fun w h => ?_) _ m.waves
    unfold Wave.powerless
    split
    · exact h
    · exact h
  · exact forall_mem_map (P := fun d : DieState => ∀ l ∈ d.felt, l.waveOk) (f := DieState.powerless) (fun d h => h) _ m.dies
  · intro _ c hc
    rw [List.eq_of_mem_replicate hc]
    exact ⟨by decide, by decide, by decide, ⟨by decide, by decide⟩, by simp, by simp⟩
  · intro m
    obtain ⟨h1, h2, h3, h4, h5, h6⟩ := m
    exact ⟨(List.length_map _).trans h1, List.length_replicate, List.length_replicate, (List.length_map _).trans h4,
      List.length_replicate, List.length_replicate⟩

theorem execAbruptLoss_keeps (torn : Option Torn) (s : State) : Keeps s (execAbruptLoss torn s) := by
  have h₀ := Calm.refl s
  unfold execAbruptLoss
  try dsimp only
  repeat' first
    | with_reducible assumption
    | with_reducible apply powerless_calm
    | with_reducible apply tornWrite_calm
    | with_reducible apply next_keeps
    | split

theorem readRecord_calm {s₀ s : State} (h₀ : Calm s₀ s) {bi : Nat} : Calm s₀ (readRecord s bi) := by
  unfold readRecord
  try dsimp only
  repeat' first
    | with_reducible assumption
    | with_reducible apply modBlock_calm
    | with_reducible apply ite_calm
    | (intro w h; exact h)

theorem recoverLine_calm {s₀ s : State} (h₀ : Calm s₀ s) {die : Nat} {key : LineKey} : Calm s₀ (recoverLine s die key) := by
  unfold recoverLine
  try dsimp only
  repeat' first
    | with_reducible assumption
    | with_reducible apply modDie_calm
    | with_reducible apply modBlock_calm
    | with_reducible apply modWave_calm
    | with_reducible apply ite_calm
    | (intro w h; first | exact h | exact ⟨Memory.wf_writeN _ _ _ h.1, h.2⟩ | exact Memory.wf_writeN _ _ _ h)
    | split

theorem imageBlock_calm {s₀ s : State} (h₀ : Calm s₀ s) {bi : Nat} : Calm s₀ (imageBlock s bi) := by
  unfold imageBlock
  exact ite_calm (modBlock_calm h₀ fun _ _ => imageMemory_wf ..) h₀

theorem recoverDie_calm {s₀ s : State} (h₀ : Calm s₀ s) {die : Nat} : Calm s₀ (recoverDie s die) := by
  unfold recoverDie
  try dsimp only
  repeat' first
    | with_reducible assumption
    | with_reducible apply modDie_calm
    | with_reducible apply recoverLine_calm
    | with_reducible apply foldl_calm
    | (intro w h; exact h)
    | (intro u x _; have := Calm.refl u)

theorem recover_calm {s₀ s : State} (h₀ : Calm s₀ s)  : Calm s₀ (recover s) := by
  unfold recover
  try dsimp only
  repeat' first
    | with_reducible assumption
    | with_reducible apply readRecord_calm
    | with_reducible apply imageBlock_calm
    | with_reducible apply recoverDie_calm
    | with_reducible apply foldl_calm
    | (intro u x _; have := Calm.refl u)

theorem recoveredSnap_wave {s : State} (h : s.wavesOk) {die : Nat} {key : LineKey} {x : Snapshot}
    (e : s.recoveredSnap die key = some x) : x.waveOk := by
  have k := feltLine_wave h die key
  unfold State.recoveredSnap at e
  dsimp only at e
  split at e
  · simp at e
  · split at e
    · exact k.1 x e
    · exact k.2 x e

theorem revived_ok {w : Wave} {x : Option Snapshot} (h : w.ok) (hx : ∀ y, x = some y → y.waveOk) : (revived w x).ok := by
  unfold revived
  split
  · exact hx _ rfl
  · exact ⟨by simp, by simp, by simp, h.2.2.2⟩

theorem revived_spill (w : Wave) (x : Option Snapshot) : (revived w x).spill = w.spill := by
  unfold revived
  split <;> rfl

theorem resumeBlock_calm {s₀ s : State} (h₀ : Calm s₀ s) {bi : Nat} {r : Block} : Calm s₀ (resumeBlock s bi r) := by
  unfold resumeBlock
  dsimp only
  refine modBlock_calm_of (foldl_calm h₀ ?_) ?_
  · intro u wi _
    apply ite_calm
    · apply modWave_calm_of (.refl u)
      · intro _ w h; rw [revived_spill]; exact h
      · intro m w h; exact revived_ok h fun y hy => recoveredSnap_wave m hy
    · exact modWave_calm (.refl u) (fun _ h => h) (fun _ h => h)
  · exact fun _ _ h => h

theorem unmark_calm {s₀ s : State} (h₀ : Calm s₀ s) {bi : Nat} {waves : List Nat} : Calm s₀ (unmark s bi waves) := by
  unfold unmark
  try dsimp only
  repeat' first | with_reducible assumption | with_reducible apply modDie_calm | (intro w h; exact h)

theorem dispose_calm {s₀ s : State} (h₀ : Calm s₀ s) {bi : Nat} : Calm s₀ (dispose s bi) := by
  unfold dispose
  try dsimp only
  repeat' first
    | with_reducible assumption
    | with_reducible apply finishCancel_calm
    | with_reducible apply discardBlock_calm
    | with_reducible apply unmark_calm
    | with_reducible apply resumeBlock_calm
    | with_reducible apply post_calm
    | with_reducible apply ite_calm
    | split

theorem placeAgain_calm {s₀ s : State} (h₀ : Calm s₀ s)  : Calm s₀ (placeAgain s) := by
  unfold placeAgain
  try dsimp only
  repeat' first
    | with_reducible assumption
    | with_reducible apply placeCode_calm
    | with_reducible apply ite_calm
    | with_reducible apply foldl_calm
    | (intro u x _; have := Calm.refl u)
    | split

theorem booted_calm {s₀ s : State} (h₀ : Calm s₀ s) {slot : Nat} : Calm s₀ (State.booted s slot) := by
  unfold State.booted
  try dsimp only
  repeat' first | with_reducible assumption | with_reducible apply set_calm

theorem powerStep_calm {s₀ s : State} (h₀ : Calm s₀ s)  : Calm s₀ (powerStep s) := by
  unfold powerStep
  try dsimp only
  repeat' first
    | with_reducible assumption
    | with_reducible apply booted_calm
    | with_reducible apply modSysCore_calm
    | with_reducible apply post_calm
    | with_reducible apply serveEarly_calm
    | with_reducible apply recover_calm
    | with_reducible apply dispose_calm
    | with_reducible apply placeAgain_calm
    | with_reducible apply serveWaiting_calm
    | with_reducible apply foldl_calm
    | (intro u x _; have := Calm.refl u)
    | split
    | with_reducible apply set_calm

theorem execPowerUp_keeps (s : State) : Keeps s (execPowerUp s) := by
  have h₀ := Calm.refl s
  unfold execPowerUp
  try dsimp only
  repeat' first | with_reducible assumption | with_reducible apply powerStep_calm | with_reducible apply next_keeps

end Sys2Proof.Machine
end

