-- ==== Sys2Proof/Laws/KeptExec.lean ====
section
/-!
SUPPORT. What every instruction and every event keeps.
-/

namespace Sys2Proof.Machine

theorem exec_keeps (i : Instr) (s : State) : Keeps s (exec i s) := by
  cases i with
  | nop => exact execNop_keeps s
  | br cond off => exact execBr_keeps cond off s
  | jmp a => exact execJmp_keeps a s
  | call d off => exact execCall_keeps d off s
  | ret a => exact execRet_keeps a s
  | exit => exact execExit_keeps s
  | trap n => exact execTrap_keeps n s
  | sleep n => exact execSleep_keeps n s
  | mode m => exact execMode_keeps m s
  | sreg d idx => exact execSreg_keeps d idx s
  | sset a idx => exact execSset_keeps a idx s
  | tret => exact execTret_keeps s
  | retry => exact execRetry_keeps s
  | skip => exact execSkip_keeps s
  | trd d n => exact execTrd_keeps d n s
  | add d a b => exact execAdd_keeps d a b s
  | sub d a b => exact execSub_keeps d a b s
  | mul d a b => exact execMul_keeps d a b s
  | mulhi d a b => exact execMulhi_keeps d a b s
  | fma d a b => exact execFma_keeps d a b s
  | fms d a b => exact execFms_keeps d a b s
  | fnma d a b => exact execFnma_keeps d a b s
  | min d a b => exact execMin_keeps d a b s
  | max d a b => exact execMax_keeps d a b s
  | abs d a => exact execAbs_keeps d a s
  | neg d a => exact execNeg_keeps d a s
  | and d a b => exact execAnd_keeps d a b s
  | or d a b => exact execOr_keeps d a b s
  | xor d a b => exact execXor_keeps d a b s
  | andn d a b => exact execAndn_keeps d a b s
  | not d a => exact execNot_keeps d a s
  | shl d a b => exact execShl_keeps d a b s
  | shr d a b => exact execShr_keeps d a b s
  | sra d a b => exact execSra_keeps d a b s
  | rol d a b => exact execRol_keeps d a b s
  | bfe d a b => exact execBfe_keeps d a b s
  | bfi d a b => exact execBfi_keeps d a b s
  | popc d a => exact execPopc_keeps d a s
  | clz d a => exact execClz_keeps d a s
  | addi d a imm => exact execAddi_keeps d a imm s
  | andi d a imm => exact execAndi_keeps d a imm s
  | ori d a imm => exact execOri_keeps d a imm s
  | xori d a imm => exact execXori_keeps d a imm s
  | li d imm => exact execLi_keeps d imm s
  | lih d imm => exact execLih_keeps d imm s
  | shli d a n => exact execShli_keeps d a n s
  | shri d a n => exact execShri_keeps d a n s
  | srai d a n => exact execSrai_keeps d a n s
  | brev d a => exact execBrev_keeps d a s
  | sel d a b km => exact execSel_keeps d a b km s
  | mov d a => exact execMov_keeps d a s
  | cmpEq m a b => exact execCmpEq_keeps m a b s
  | cmpNe m a b => exact execCmpNe_keeps m a b s
  | cmpLt m a b => exact execCmpLt_keeps m a b s
  | cmpLe m a b => exact execCmpLe_keeps m a b s
  | cmpGt m a b => exact execCmpGt_keeps m a b s
  | cmpGe m a b => exact execCmpGe_keeps m a b s
  | cmpOrd m a b => exact execCmpOrd_keeps m a b s
  | cmpEqU m a b => exact execCmpEqU_keeps m a b s
  | cmpNeU m a b => exact execCmpNeU_keeps m a b s
  | cmpLtU m a b => exact execCmpLtU_keeps m a b s
  | cmpLeU m a b => exact execCmpLeU_keeps m a b s
  | cmpGtU m a b => exact execCmpGtU_keeps m a b s
  | cmpGeU m a b => exact execCmpGeU_keeps m a b s
  | cmpUno m a b => exact execCmpUno_keeps m a b s
  | kand d a b => exact execKand_keeps d a b s
  | kor d a b => exact execKor_keeps d a b s
  | kxor d a b => exact execKxor_keeps d a b s
  | knot d a => exact execKnot_keeps d a s
  | kandn d a b => exact execKandn_keeps d a b s
  | kmov d a => exact execKmov_keeps d a s
  | kset d v => exact execKset_keeps d v s
  | kget v a => exact execKget_keeps v a s
  | kpop v a => exact execKpop_keeps v a s
  | kfirst v a => exact execKfirst_keeps v a s
  | ktest a b => exact execKtest_keeps a b s
  | shape d a => exact execShape_keeps d a s
  | sassert a n => exact execSassert_keeps a n s
  | sforce d => exact execSforce_keeps d s
  | scompact d => exact execScompact_keeps d s
  | lane d => exact execLane_keeps d s
  | perm d a b => exact execPerm_keeps d a b s
  | lmoveLo d a b => exact execLmoveLo_keeps d a b s
  | lmoveHi d a b => exact execLmoveHi_keeps d a b s
  | lmoveFlip d a b => exact execLmoveFlip_keeps d a b s
  | lmoveRot d a b => exact execLmoveRot_keeps d a b s
  | bcast d a b => exact execBcast_keeps d a b s
  | qswapH d a => exact execQswapH_keeps d a s
  | qswapV d a => exact execQswapV_keeps d a s
  | qswapD d a => exact execQswapD_keeps d a s
  | helper a => exact execHelper_keeps a s
  | reduxAdd d a => exact execReduxAdd_keeps d a s
  | reduxMin d a => exact execReduxMin_keeps d a s
  | reduxMax d a => exact execReduxMax_keeps d a s
  | reduxAddn d a n => exact execReduxAddn_keeps d a n s
  | scanAdd d a => exact execScanAdd_keeps d a s
  | scanAddn d a n => exact execScanAddn_keeps d a n s
  | rcp d a => exact execRcp_keeps d a s
  | rsq d a => exact execRsq_keeps d a s
  | sqrt d a => exact execSqrt_keeps d a s
  | ex2 d a => exact execEx2_keeps d a s
  | lg2 d a => exact execLg2_keeps d a s
  | sinpi d a => exact execSinpi_keeps d a s
  | cospi d a => exact execCospi_keeps d a s
  | tanh d a => exact execTanh_keeps d a s
  | cvtF32I32 d a => exact execCvtF32I32_keeps d a s
  | cvtF32U32 d a => exact execCvtF32U32_keeps d a s
  | cvtI32F32 d a => exact execCvtI32F32_keeps d a s
  | cvtU32F32 d a => exact execCvtU32F32_keeps d a s
  | cvtF32F16 d a => exact execCvtF32F16_keeps d a s
  | cvtF32F16h d a => exact execCvtF32F16h_keeps d a s
  | cvtF16x2F32 d a b => exact execCvtF16x2F32_keeps d a b s
  | cvtF64F32 d a => exact execCvtF64F32_keeps d a s
  | cvtF32F64 d a => exact execCvtF32F64_keeps d a s
  | cvtF64I32 d a => exact execCvtF64I32_keeps d a s
  | cvtI32F64 d a => exact execCvtI32F64_keeps d a s
  | cvtF64U32 d a => exact execCvtF64U32_keeps d a s
  | cvtU32F64 d a => exact execCvtU32F64_keeps d a s
  | scl d a b q => exact execScl_keeps d a b q s
  | dot4I8 d a b => exact execDot4I8_keeps d a b s
  | dot4U8 d a b => exact execDot4U8_keeps d a b s
  | dot8I4 d a b => exact execDot8I4_keeps d a b s
  | dot4F8 d a b p => exact execDot4F8_keeps d a b p s
  | dot8F4 d a b => exact execDot8F4_keeps d a b s
  | cvtE4m3F32 d a b => exact execCvtE4m3F32_keeps d a b s
  | cvtE5m2F32 d a b => exact execCvtE5m2F32_keeps d a b s
  | cvtE2m1F32 d a b => exact execCvtE2m1F32_keeps d a b s
  | cvtBf16x2F32 d a b => exact execCvtBf16x2F32_keeps d a b s
  | cvtF32E4m3 d a b => exact execCvtF32E4m3_keeps d a b s
  | cvtF32E5m2 d a b => exact execCvtF32E5m2_keeps d a b s
  | cvtF32E2m1 d a b => exact execCvtF32E2m1_keeps d a b s
  | cvtF32Bf16x2 d a b => exact execCvtF32Bf16x2_keeps d a b s
  | t3x d a q => exact execT3x_keeps d a q s
  | t3pk d a q => exact execT3pk_keeps d a q s
  | lds32 d a imm => exact execLds32_keeps d a imm s
  | lds64 d a imm => exact execLds64_keeps d a imm s
  | lds8 d a imm => exact execLds8_keeps d a imm s
  | lds16 d a imm => exact execLds16_keeps d a imm s
  | ldx32 d a imm => exact execLdx32_keeps d a imm s
  | ldx64 d a imm => exact execLdx64_keeps d a imm s
  | ldx8 d a imm => exact execLdx8_keeps d a imm s
  | ldx16 d a imm => exact execLdx16_keeps d a imm s
  | lds128 d a imm => exact execLds128_keeps d a imm s
  | ldx128 d a imm => exact execLdx128_keeps d a imm s
  | sts32 d a imm => exact execSts32_keeps d a imm s
  | sts64 d a imm => exact execSts64_keeps d a imm s
  | sts8 d a imm => exact execSts8_keeps d a imm s
  | sts16 d a imm => exact execSts16_keeps d a imm s
  | stx32 d a imm => exact execStx32_keeps d a imm s
  | stx64 d a imm => exact execStx64_keeps d a imm s
  | stx8 d a imm => exact execStx8_keeps d a imm s
  | stx16 d a imm => exact execStx16_keeps d a imm s
  | sts128 d a imm => exact execSts128_keeps d a imm s
  | stx128 d a imm => exact execStx128_keeps d a imm s
  | spill d n => exact execSpill_keeps d n s
  | fill d n => exact execFill_keeps d n s
  | atomAdd d a b sc => exact execAtomAdd_keeps d a b sc s
  | atomFadd d a b sc => exact execAtomFadd_keeps d a b sc s
  | atomMin d a b sc => exact execAtomMin_keeps d a b sc s
  | atomMax d a b sc => exact execAtomMax_keeps d a b sc s
  | atomAnd d a b sc => exact execAtomAnd_keeps d a b sc s
  | atomOr d a b sc => exact execAtomOr_keeps d a b sc s
  | atomXor d a b sc => exact execAtomXor_keeps d a b sc s
  | atomXchg d a b sc => exact execAtomXchg_keeps d a b sc s
  | atomCas d a b sc => exact execAtomCas_keeps d a b sc s
  | atomInc d a b sc => exact execAtomInc_keeps d a b sc s
  | fence sc => exact execFence_keeps sc s
  | pfence sc => exact execPfence_keeps sc s
  | pckpt => exact execPckpt_keeps s
  | meet nb => exact execMeet_keeps nb s
  | arrive nb => exact execArrive_keeps nb s
  | await nb => exact execAwait_keeps nb s
  | waitc a b sc => exact execWaitc_keeps a b sc s
  | ldsAcq d a w sc => exact execLdsAcq_keeps d a w sc s
  | ldxAcq d a w sc => exact execLdxAcq_keeps d a w sc s
  | wait ql qs qx qt => exact execWait_keeps ql qs qx qt s
  | stsRel w a b sc => exact execStsRel_keeps w a b sc s
  | stxRel w a b sc => exact execStxRel_keeps w a b sc s
  | mmaF8 d a b p => exact execMmaF8_keeps d a b p s
  | mmaI8 d a b g => exact execMmaI8_keeps d a b g s
  | mmaBf16 d a b => exact execMmaBf16_keeps d a b s
  | mmaF16 d a b => exact execMmaF16_keeps d a b s
  | mmaMxf8 d a b xs sel p => exact execMmaMxf8_keeps d a b xs sel p s
  | mmaMxf4 d a b xs sel => exact execMmaMxf4_keeps d a b xs sel s
  | mmz d => exact execMmz_keeps d s
  | gmma d b xs p => exact execGmma_keeps d b xs p s
  | vclaim n => exact execVclaim_keeps n s
  | vrel n => exact execVrel_keeps n s
  | launch d a => exact execLaunch_keeps d a s
  | rcmode m => exact execRcmode_keeps m s
  | iinv => exact execIinv_keeps s
  | brk tag => exact execBrk_keeps tag s
  | trcStop => exact execTrcStop_keeps s
  | trcStart => exact execTrcStart_keeps s
  | trcSync => exact execTrcSync_keeps s
  | rdclk d => exact execRdclk_keeps d s
  | xperm d a b => exact execXperm_keeps d a b s
  | xbcast d a b => exact execXbcast_keeps d a b s
  | xreduxAdd d a => exact execXreduxAdd_keeps d a s
  | xreduxMin d a => exact execXreduxMin_keeps d a s
  | xreduxMax d a => exact execXreduxMax_keeps d a s
  | xscan d a => exact execXscan_keeps d a s
  | xballot d k c => exact execXballot_keeps d k c s
  | xwidth d => exact execXwidth_keeps d s
  | leave acc => exact execLeave_keeps acc s
  | propagate acc => exact execPropagate_keeps acc s
  | load acc => exact execLoad_keeps acc s
  | atomic acc => exact execAtomic_keeps acc s
  | accept acc => exact execAccept_keeps acc s
  | move copy k => exact execMove_keeps copy k s
  | complete copy => exact execComplete_keeps copy s
  | drain die k => exact execDrain_keeps die k s
  | tileComplete tile => exact execTileComplete_keeps tile s
  | placeBlock launch die cluster cores => exact execPlaceBlock_keeps launch die cluster cores s
  | restore blk die cluster cores => exact execRestore_keeps blk die cluster cores s
  | reserveMode launch => exact execReserveMode_keeps launch s
  | gangStarved launch => exact execGangStarved_keeps launch s
  | waveEnd w => exact execWaveEnd_keeps w s
  | endCommit blk => exact execEndCommit_keeps blk s
  | tagSweep die tag => exact execTagSweep_keeps die tag s
  | sleepElapsed w => exact execSleepElapsed_keeps w s
  | claimGrant p => exact execClaimGrant_keeps p s
  | claimDeadlock p blk => exact execClaimDeadlock_keeps p blk s
  | arrival w => exact execArrival_keeps w s
  | checkpoint blk => exact execCheckpoint_keeps blk s
  | preempt blk gang => exact execPreempt_keeps blk gang s
  | drainTimeout blk => exact execDrainTimeout_keeps blk s
  | save blk => exact execSave_keeps blk s
  | flushAndRestart blk => exact execFlushAndRestart_keeps blk s
  | migration blk cluster cores => exact execMigration_keeps blk cluster cores s
  | managedPowerGating die core => exact execManagedPowerGating_keeps die core s
  | gatingCut die core => exact execGatingCut_keeps die core s
  | gatingRestore die core => exact execGatingRestore_keeps die core s
  | abruptLoss torn => exact execAbruptLoss_keeps torn s
  | powerUp => exact execPowerUp_keeps s
  | start vi addr len asid => exact execStart_keeps vi addr len asid s
  | signal vi proc sig => exact execSignal_keeps vi proc sig s
  | status vi proc => exact execStatus_keeps vi proc s
  | attest vi target nonce => exact execAttest_keeps vi target nonce s
  | recovered vi => exact execRecovered_keeps vi s
  | launchSystemCall core => exact execLaunchSystemCall_keeps core s
  | launchWait core => exact execLaunchWait_keeps core s
  | launchCancel core => exact execLaunchCancel_keeps core s
  | launchTime core => exact execLaunchTime_keeps core s
  | queueOpen core => exact execQueueOpen_keeps core s
  | queueClose core => exact execQueueClose_keeps core s
  | bundleLoad core => exact execBundleLoad_keeps core s
  | bundleUnload core => exact execBundleUnload_keeps core s
  | kernelFind core => exact execKernelFind_keeps core s
  | map core => exact execMap_keeps core s
  | unmap core => exact execUnmap_keeps core s
  | discard core => exact execDiscard_keeps core s
  | raceConfig core => exact execRaceConfig_keeps core s
  | traceConfig core => exact execTraceConfig_keeps core s
  | requeue core => exact execRequeue_keeps core s
  | faultService die k answer => exact execFaultService_keeps die k answer s
  | tlbInvalidate die site k => exact execTlbInvalidate_keeps die site k s
  | eviction die => exact execEviction_keeps die s
  | linkDown port => exact execLinkDown_keeps port s
  | bellowsWindow cluster => exact execBellowsWindow_keeps cluster s
  | railStep cluster => exact execRailStep_keeps cluster s
  | clockStep cluster => exact execClockStep_keeps cluster s
  | guardRelease cluster => exact execGuardRelease_keeps cluster s
  | budgetLease lease => exact execBudgetLease_keeps lease s
  | leaseExpiry => exact execLeaseExpiry_keeps s
  | hbmSensorRead stack centi => exact execHbmSensorRead_keeps stack centi s
  | tallowUpdate die core allow => exact execTallowUpdate_keeps die core allow s
  | halt w => exact execHalt_keeps w s
  | resume w skip => exact execResume_keeps w skip s
  | pcComparatorMatch w => exact execPcComparatorMatch_keeps w s
  | singleStep w => exact execSingleStep_keeps w s
  | focusStep w ln => exact execFocusStep_keeps w ln s
  | pendingPathStack w => exact execPendingPathStack_keeps w s
  | barrierPhaseStep blk => exact execBarrierPhaseStep_keeps blk s
  | plainWrite w d => exact execPlainWrite_keeps w d s
  | forcedWrite w d => exact execForcedWrite_keeps w d s
  | traceSyncInterval w => exact execTraceSyncInterval_keeps w s
  | traceLoss w => exact execTraceLoss_keeps w s
  | selectSlot slot => exact execSelectSlot_keeps slot s
  | raiseRollbackMinimum v => exact execRaiseRollbackMinimum_keeps v s
  | registerWrite r v => exact execRegisterWrite_keeps r v s
  | illWord word => exact execIllWord_keeps word s
  | portableOnlyWord word => exact execPortableOnlyWord_keeps word s
  | occupancyEnd p u => exact execOccupancyEnd_keeps p u s
  | uncorrectableError t => exact execUncorrectableError_keeps t s
  | fabricRequest r => exact execFabricRequest_keeps r s
  | systemCoreAccess core act => exact execSystemCoreAccess_keeps core act s
  | cxlMemRequest vi off data n => exact execCxlMemRequest_keeps vi off data n s
  | launchWaitTimeout thread => exact execLaunchWaitTimeout_keeps thread s
  | resourceDescriptorRequest vi desc => exact execResourceDescriptorRequest_keeps vi desc s

end Sys2Proof.Machine
end

