-- ==== Sys2Proof/Laws/KeptIssue.lean ====
section
/-!
SUPPORT. What the turns of Machine/Issue.lean keep.
-/

namespace Sys2Proof.Machine

theorem forall_mem_mapIdx {α : Type} {P : α → Prop} {f : Nat → α → α} (hf : ∀ i x, P x → P (f i x)) (l : List α)
    (h : ∀ x ∈ l, P x) : ∀ x ∈ l.mapIdx f, P x := by
  intro x hx
  obtain ⟨i, hi, rfl⟩ := List.mem_mapIdx.1 hx
  exact hf i _ (h _ (List.getElem_mem hi))

/-- A wait count is no part of what is kept. -/
theorem waitWave_keep {s : State} {cl : List ClusterState} {wi : Nat} {w : Wave} :
    (waitWave s cl wi w).spill = w.spill ∧ (w.ok → (waitWave s cl wi w).ok) := by
  unfold waitWave
  split <;> exact ⟨rfl, id⟩

theorem elapse_calm {s₀ s : State} (h₀ : Calm s₀ s) {dt : Nat} : Calm s₀ (elapse s dt) := by
  unfold elapse
  refine h₀.trans ⟨fun m => { m with waves := ?_ }, fun m => { m with waves := ?_ }, fun m => ?_, fun m => ?_,
    Nat.le_refl _, Nat.le_refl _⟩
  · exact forall_mem_mapIdx (P := fun w : Wave => w.spill.wf = true) (fun i w (h : w.spill.wf = true) => by rw [waitWave_keep.1]; exact h) _ m.waves
  · exact forall_mem_mapIdx (fun i w h => waitWave_keep.2 h) _ m.waves
  · exact forall_mem_map (P := ClusterState.ok) (f := fun c : ClusterState => { c with cyc := c.cyc + dt * c.step })
      (fun _ h => ⟨h.1, h.2, h.3, h.4, h.5, h.6⟩) _ m
  · simpa [State.shapeOk] using m

theorem refreshWave_calm {s₀ s : State} (h₀ : Calm s₀ s) {wi : Nat} : Calm s₀ (refreshWave s wi) := by
  unfold refreshWave
  dsimp only
  repeat' first
    | with_reducible assumption
    | with_reducible apply pcStop_calm
    | with_reducible apply ite_calm
    | with_reducible apply modWave_calm
    | with_reducible apply foldl_calm
    | with_reducible apply retestBar_calm
    | with_reducible apply retest_calm
    | exact fun _ h => h
    | (intro u x _; exact settle_calm (.refl u))

theorem fetchFor_calm {s₀ s : State} (h₀ : Calm s₀ s) {wi : Nat} : Calm s₀ (fetchFor s wi).1 := by
  unfold fetchFor
  dsimp only
  split
  · exact fetchWord_calm h₀
  · split
    · exact fetchWord_calm h₀
    · exact post_calm (modWave_calm (fetchWord_calm h₀) (fun _ h => h) (fun _ h => h))

theorem cur_calm {s₀ s : State} (h₀ : Calm s₀ s) {c : Option Nat} : Calm s₀ { s with cur := c } :=
  Calm.congr (u := s) rfl rfl rfl rfl rfl rfl rfl rfl rfl rfl rfl rfl h₀

theorem runWave_keeps (s : State) (wi : Nat) (i : Instr) : Keeps s (runWave s wi i) :=
  fun t h => (cur_calm (.refl s)).trans (exec_keeps i _ t h)

theorem tryWave_calm {s₀ : State} {acc : State × List (Nat × Instr)} (h₀ : Calm s₀ acc.1) {wi : Nat} :
    Calm s₀ (tryWave acc wi).1 := by
  unfold tryWave
  have hf := fetchFor_calm h₀ (wi := wi)
  split
  · exact h₀
  · split
    · rename_i e; rw [e] at hf; exact hf
    · rename_i e; rw [e] at hf
      have hm := modWave_calm (i := wi) (f := fun w => { w with issued := false }) hf (fun _ h => h) (fun _ h => h)
      dsimp only
      split
      · split
        · exact cur_calm (hm.trans (runWave_keeps _ _ _ _ (by assumption)))
        · exact hm
      · exact hm

theorem afterIssue_calm {s₀ s : State} (h₀ : Calm s₀ s) {wi : Nat} {before : Wave} {i : Instr} :
    Calm s₀ (afterIssue s wi before i) := by
  unfold afterIssue
  dsimp only
  split
  · exact cur_calm h₀
  · apply afterStep_calm
    exact modWave_calm (cur_calm h₀) (fun _ h => h) (fun _ h => h)

theorem installDue_calm {s₀ s : State} (h₀ : Calm s₀ s) {p : PartRef} : Calm s₀ (installDue s p) := by
  unfold installDue
  refine foldl_calm h₀ fun u x _ => ?_
  dsimp only
  split
  · exact installSlice_calm (.refl u)
  · exact .refl u

theorem issueAt_keeps (p : PartRef) (s : State) : Keeps s (issueAt p s) := by
  unfold issueAt
  dsimp only
  split
  · exact next_keeps (.refl s)
  · generalize hq : installDue _ p = q
    have h0 : Calm s q := hq ▸ installDue_calm (tilesDue_calm (modPart_calm (.refl s)))
    have h1 := foldl_calm (f := refreshWave) (l := q.residents p) h0 fun u x _ => refreshWave_calm (.refl u)
    generalize hu : (List.foldl refreshWave _ _) = u at h1 ⊢
    have h2 := foldl_calm_fst (f := tryWave) (l := u.residents p) (u := (u, [])) h1
      fun u x _ => tryWave_calm (.refl u.1)
    generalize hr : (List.foldl tryWave (u, []) _) = r at h2 ⊢
    split
    · exact next_keeps (blockStops_calm h2)
    · rename_i wi i _
      generalize hv : traceDue _ wi = v
      have h3 : Calm s v := hv ▸ traceDue_calm (modWave_calm (f := fun w => { w with unissued := false }) h2
        (fun _ h => h) (fun _ h => h))
      split
      · exact next_keeps (blockStops_calm (afterIssue_calm (h3.trans (runWave_keeps v wi i _ (by assumption)))))
      · exact fun t h => h3.trans (runWave_keeps v wi i t h)

theorem eventAt_keeps (i : Instr) (s : State) : Keeps s (eventAt i s) := by
  unfold eventAt
  split
  · split
    · exact next_keeps (blockStops_calm (exec_keeps i s _ (by assumption)))
    · exact exec_keeps i s
  · exact next_keeps (.refl s)

end Sys2Proof.Machine
end

