-- ==== Sys2Proof/Laws/Lane.lean ====
section
/-!
SUPPORT. Lane instructions: what one that passes its checks leaves, and the value its destination takes in each lane.
-/

namespace Sys2Proof.Machine

/-! ### Updating one wave -/

theorem State.modWave_modWave (s : State) (i : Nat) (f g : Wave → Wave) :
    (s.modWave i f).modWave i g = s.modWave i fun w => g (f w) := by
  simp only [State.modWave, List.modify_modify_eq]; rfl

theorem State.wave_modWave (s : State) (i : Nat) (f : Wave → Wave) (h : i < s.waves.length) :
    (s.modWave i f).wave i = f (s.wave i) := by
  simp [State.modWave, State.wave, List.getD_eq_getElem?_getD, h]

theorem State.wave_modWave_ne (s : State) (i j : Nat) (f : Wave → Wave) (h : j ≠ i) :
    (s.modWave i f).wave j = s.wave j := by
  simp [State.modWave, State.wave, List.getD_eq_getElem?_getD, Ne.symm h]

theorem State.modWave_eq_set (s : State) (i : Nat) (f : Wave → Wave) (h : i < s.waves.length) :
    s.modWave i f = { s with waves := s.waves.set i (f (s.wave i)) } := by
  have : s.waves.modify i f = s.waves.set i (f (s.wave i)) := by
    apply List.ext_getElem?; intro j
    by_cases e : i = j
    · subst e; simp [State.wave, List.getD_eq_getElem?_getD, h]
    · simp [e]
  simp [State.modWave, this]

/-- Whether the holds of a wave have ended depends on its accesses, its place and its trap mode alone. -/
theorem State.holdOver_congr {s t : State} {wi : Nat} (ha : t.accs = s.accs) (ho : t.ops = s.ops) (hd : t.dies = s.dies)
    (hw : ∀ j, (t.wave j).trapMode = (s.wave j).trapMode ∧ (t.wave j).trapOp = (s.wave j).trapOp ∧
      (t.wave j).part = (s.wave j).part ∧ (t.wave j).blk = (s.wave j).blk) (h : Hold) :
    t.holdOver wi h = s.holdOver wi h := by
  have hb : ∀ n a, t.bypassed n a = s.bypassed n a := fun n a => by simp [State.bypassed, (hw a.wave).1, (hw a.wave).2.1]
  have hi : ∀ n, t.issuedBefore wi n = s.issuedBefore wi n := fun n => by simp [State.issuedBefore, ha, hb]
  have hc : ∀ x y, t.covered wi x y = s.covered wi x y := fun x y => by
    simp only [State.covered, hd, (hw wi).2.2.1, (hw wi).2.2.2]
  cases h <;> simp [State.holdOver, hi, hc, State.op, ho]

/-! ### Register writes -/

theorem takeSlot_phys : ∀ (l : List Slot) (d : BitVec 7), (takeSlot l d).map Slot.phys = l.map Slot.phys
  | [], _ => rfl
  | x :: xs, d => by unfold takeSlot; split <;> simp [takeSlot_phys xs d]

theorem freeSlot_phys (l : List Slot) (d : BitVec 7) : (freeSlot l d).map Slot.phys = l.map Slot.phys := by
  simp only [freeSlot, List.map_map]; congr 1; funext x; simp only [Function.comp]; split <;> rfl

theorem mem_takeSlot : ∀ (l : List Slot) (d e : BitVec 7) (x : Slot), x.reg = some e → x ∈ l → x ∈ takeSlot l d
  | [], _, _, _, _, h => h
  | y :: ys, d, e, x, hx, h => by
    unfold takeSlot
    split
    · rcases List.mem_cons.1 h with rfl | h
      · simp_all
      · exact List.mem_cons_of_mem _ h
    · rcases List.mem_cons.1 h with rfl | h
      · exact List.mem_cons_self ..
      · exact List.mem_cons_of_mem _ (mem_takeSlot ys d e x hx h)

theorem mem_freeSlot (l : List Slot) (d e : BitVec 7) (x : Slot) (hx : x.reg = some e) (h : e ≠ d) (hl : x ∈ l) :
    x ∈ freeSlot l d :=
  List.mem_map.2 ⟨x, hl, by simp [hx, h]⟩

theorem Wave.put_slots_phys (w : Wave) (d : BitVec 7) (r : Reg) : (w.put d r).slots.map Slot.phys = w.slots.map Slot.phys := by
  unfold Wave.put; simp only; split
  · split
    · rfl
    · exact takeSlot_phys _ _
  · exact freeSlot_phys _ _

theorem Wave.mem_put_slots (w : Wave) (d e : BitVec 7) (r : Reg) (x : Slot) (hx : x.reg = some e) (h : e ≠ d)
    (hl : x ∈ w.slots) : x ∈ (w.put d r).slots := by
  unfold Wave.put; simp only; split
  · split
    · exact hl
    · exact mem_takeSlot _ _ _ _ hx hl
  · exact mem_freeSlot _ _ _ _ hx h hl

theorem Wave.put_reg_ne (w : Wave) (d e : BitVec 7) (r : Reg) (h : e ≠ d) : (w.put d r).reg e = w.reg e := by
  have : d.toNat ≠ e.toNat := fun x => h (BitVec.eq_of_toNat_eq x.symm)
  simp [Wave.put, Wave.reg, List.getD_eq_getElem?_getD, this]

theorem Wave.put_reg (w : Wave) (d : BitVec 7) (r : Reg) (h : w.regs.length = 128) : (w.put d r).reg d = r := by
  have := d.isLt
  simp only [Wave.put, Wave.reg, List.getD_eq_getElem?_getD]
  rw [List.getElem?_set_self (by omega)]; rfl

/-- Several registers written in turn. -/
def Wave.puts (w : Wave) (ws : List (BitVec 7 × Reg)) : Wave := ws.foldl (fun w x => w.put x.1 x.2) w

theorem putAll_eq (s : State) (wi : Nat) : ∀ ws : List (BitVec 7 × Reg), putAll s wi ws = s.modWave wi fun w => w.puts ws := by
  intro ws
  induction ws generalizing s with
  | nil =>
    have : s.waves.modify wi (fun w => w) = s.waves := by
      apply List.ext_getElem? ; intro j; simp only [List.getElem?_modify]; split <;> simp
    show s = { s with waves := s.waves.modify wi fun w => w }
    rw [this]
  | cons x xs ih =>
    have h := ih (s.modWave wi fun w => w.put x.1 x.2)
    rw [State.modWave_modWave] at h
    exact h

/-- What writing registers leaves of a wave. -/
theorem Wave.puts_keeps (ws : List (BitVec 7 × Reg)) : ∀ w : Wave,
    w.puts ws = { w with regs := (w.puts ws).regs, slots := (w.puts ws).slots, badRegs := (w.puts ws).badRegs } ∧
    (w.puts ws).regs.length = w.regs.length ∧
    (∀ e, e ∉ ws.map Prod.fst → (w.puts ws).reg e = w.reg e) ∧
    (w.puts ws).slots.map Slot.phys = w.slots.map Slot.phys ∧
    (∀ x ∈ w.slots, ∀ e, x.reg = some e → e ∉ ws.map Prod.fst → x ∈ (w.puts ws).slots) ∧
    (∀ x ∈ w.badRegs, x.1 ∉ ws.map Prod.fst → x ∈ (w.puts ws).badRegs) := by
  induction ws with
  | nil => intro w; exact ⟨rfl, rfl, fun _ _ => rfl, rfl, fun _ h _ _ _ => h, fun _ h _ => h⟩
  | cons y ys ih =>
    intro w
    obtain ⟨h1, h2, h3, h4, h5, h6⟩ := ih (w.put y.1 y.2)
    refine ⟨h1, h2.trans (by simp [Wave.put]), fun e he => ?_, h4.trans (w.put_slots_phys _ _), fun x hx e he hn => ?_,
      fun x hx hn => ?_⟩
    · simp only [List.map_cons, List.mem_cons, not_or] at he
      exact (h3 e he.2).trans (w.put_reg_ne _ _ _ he.1)
    · simp only [List.map_cons, List.mem_cons, not_or] at hn
      exact h5 x (w.mem_put_slots _ _ _ _ he hn.1 hx) e he hn.2
    · simp only [List.map_cons, List.mem_cons, not_or] at hn
      refine h6 x ?_ hn.2
      simp [Wave.put, hx, hn.1]

/-! ### Retirement -/

/-- With no hold binding, retirement changes the wave alone. -/
theorem advance_eq (s : State) (wi : Nat) (h : s.unheld wi = true) :
    advance s wi = s.modWave wi Wave.retired := by
  have : ((s.wave wi).holds.filter fun x => !s.holdOver wi x) = [] := by
    simp only [State.unheld, List.all_eq_true] at h
    simp only [List.filter_eq_nil_iff]; intro a ha; simp [h a ha]
  unfold advance; simp only [this]
  rfl

/-! ### The effect of a lane instruction -/

/-- A core update that changes slow passes, and the occupancy of one partition. -/
def busyCore (k : Nat) (b : PartState → List (ExecUnit × Nat)) (n : Nat → Nat) (c : CoreState) : CoreState :=
  { c with slowpass := n c.slowpass, parts := c.parts.modify k fun p => { p with busy := b p } }

theorem onlyBusy_modCore (s : State) (p : PartRef) (b : PartState → List (ExecUnit × Nat)) (n : Nat → Nat) :
    OnlyBusy s (s.modCore p.die p.core (busyCore p.part b n)) p := by
  have hc : (s.modCore p.die p.core (busyCore p.part b n)).core p.die p.core =
      if 96 * p.die + p.core < s.cores.length then busyCore p.part b n (s.core p.die p.core) else s.core p.die p.core := by
    simp only [State.modCore, State.core, List.getD_eq_getElem?_getD]
    split <;> rename_i h
    · simp [h]
    · simp [List.getElem?_eq_none (Nat.le_of_not_lt h)]
  refine ⟨fun m hm => ?_, ?_, fun k hk => ?_, ?_⟩
  · simp only [State.modCore, List.getElem?_modify]; split
    · exact absurd ‹_› (Ne.symm hm)
    · simp
  · rw [hc]; split <;> rfl
  · rw [hc]; split
    · simp only [busyCore, List.getElem?_modify]; split
      · exact absurd ‹_› (Ne.symm hk)
      · simp
    · rfl
  · simp only [State.part, hc]; split
    · simp only [busyCore, List.getD_eq_getElem?_getD, List.getElem?_modify_eq]
      cases (s.core p.die p.core).parts[p.part]? <;> rfl
    · rfl

theorem State.modCore_modCore (s : State) (d c : Nat) (f g : CoreState → CoreState) :
    (s.modCore d c f).modCore d c g = s.modCore d c fun x => g (f x) := by
  simp only [State.modCore, List.modify_modify_eq]; rfl

/-- Only occupancy and slow passes change when a unit is occupied. -/
theorem occupy_eq (s : State) (wi : Nat) (u : ExecUnit) (n : Nat) (slow : Bool) :
    ∃ b k, countSlow (occupy s wi u n) wi slow =
      s.modCore (s.wave wi).part.die (s.wave wi).part.core (busyCore (s.wave wi).part.part b k) := by
  refine ⟨fun p => (u, s.waveClk wi + n) :: p.busy.filter fun x => x.1 != u,
    if slow then fun n => (n + 1) % 2 ^ 64 else id, ?_⟩
  cases slow
  · rfl
  · exact State.modCore_modCore s _ _ _ _

/-- A wave update that leaves what `State.holdOver_congr` asks for. -/
structure SameHolds (f : Wave → Wave) (w : Wave) : Prop where
  part : (f w).part = w.part
  blk : (f w).blk = w.blk
  trapMode : (f w).trapMode = w.trapMode
  trapOp : (f w).trapOp = w.trapOp
  holds : (f w).holds = w.holds

theorem unheld_modWave (s : State) (wi : Nat) (f : Wave → Wave) (hl : wi < s.waves.length) (hf : SameHolds f (s.wave wi))
    (t : State) (hw : t.waves = (s.modWave wi f).waves) (ha : t.accs = s.accs) (ho : t.ops = s.ops)
    (hd : t.dies = s.dies) : t.unheld wi = s.unheld wi := by
  have hj : ∀ j, t.wave j = if j = wi then f (s.wave wi) else s.wave j := by
    intro j
    have e : t.wave j = (s.modWave wi f).wave j := by simp only [State.wave, hw]
    rw [e]; split
    · subst j; exact State.wave_modWave s wi f hl
    · exact State.wave_modWave_ne s wi j f ‹_›
  have hc : ∀ h, t.holdOver wi h = s.holdOver wi h := by
    intro h
    refine State.holdOver_congr ha ho hd (fun j => ?_) h
    rw [hj]; split
    · subst j; exact ⟨hf.trapMode, hf.trapOp, hf.part, hf.blk⟩
    · exact ⟨rfl, rfl, rfl, rfl⟩
  have hh : (t.wave wi).holds = (s.wave wi).holds := by rw [hj]; simpa using hf.holds
  simp only [State.unheld, hh]
  exact List.all_congr rfl hc

/-- Writes, occupancy and retirement of a lane instruction, in one wave update and one core update. -/
theorem occupy_advance (s : State) (wi : Nat) (f : Wave → Wave) (u : ExecUnit) (n : Nat) (slow : Bool)
    (hl : wi < s.waves.length) (hu : s.unheld wi = true) (hf : SameHolds f (s.wave wi)) :
    ∃ b k, advance (countSlow (occupy (s.modWave wi f) wi u n) wi slow) wi =
      ({ s with waves := s.waves.set wi (f (s.wave wi)).retired } : State).modCore (s.wave wi).part.die
        (s.wave wi).part.core (busyCore (s.wave wi).part.part b k) := by
  have hw := State.wave_modWave s wi f hl
  obtain ⟨b, k, e⟩ := occupy_eq (s.modWave wi f) wi u n slow
  rw [hw, hf.part] at e
  refine ⟨b, k, ?_⟩
  have hu' : (countSlow (occupy (s.modWave wi f) wi u n) wi slow).unheld wi = true := by
    rw [e]; exact (unheld_modWave s wi f hl hf _ rfl rfl rfl rfl).trans hu
  rw [advance_eq _ _ hu', e]
  have h1 : (s.modWave wi f).modWave wi Wave.retired = { s with waves := s.waves.set wi (f (s.wave wi)).retired } := by
    rw [State.modWave_modWave, State.modWave_eq_set s wi _ hl]
  rw [← h1]; rfl

/-- What the registers and FSTAT of a wave become. -/
def laneWave (o : LaneOp) (w0 w : Wave) : Wave :=
  { w.puts (o.news w0) with fstat := (w.puts (o.news w0)).fstat ||| BitVec.ofNat 32 (o.fstat w0) }

theorem laneEffect_eq (s : State) (wi : Nat) (o : LaneOp)
    (hm : o.mask = none) (ht : o.test = none) (hc : o.cc = none) (hh : o.hm = none) :
    laneEffect s wi o = advance (countSlow (occupy (s.modWave wi (laneWave o (s.wave wi))) wi (o.place s wi).1
      (o.place s wi).2) wi o.slow) wi := by
  simp only [laneEffect, hm, ht, hc, hh, orFstat, putAll_eq, State.modWave_modWave]; rfl

/-- The registers that a lane instruction writes are its destinations, and none where its guard holds no lane. -/
theorem LaneOp.news_fst (o : LaneOp) (w : Wave) : (o.news w).map Prod.fst = [] ∨ (o.news w).map Prod.fst = o.writes.map Prod.fst := by
  unfold LaneOp.news
  split
  · exact .inl rfl
  · right; simp only [List.map_map]; rfl

theorem LaneOp.news_sub (o : LaneOp) (w : Wave) {e : BitVec 7} (h : e ∉ o.writes.map Prod.fst) :
    e ∉ (o.news w).map Prod.fst := by
  rcases o.news_fst w with x | x <;> simp_all

/-- A lane instruction with no mask and no code to write leaves what `LaneDone` says. -/
theorem laneEffect_done (s : State) (wi : Nat) (o : LaneOp) (hl : wi < s.waves.length) (hu : s.unheld wi = true)
    (hm : o.mask = none) (ht : o.test = none) (hc : o.cc = none) (hh : o.hm = none) :
    LaneDone s (laneEffect s wi o) wi (o.writes.map Prod.fst) ∧
      (∀ e, ((laneEffect s wi o).wave wi).reg e = ((s.wave wi).puts (o.news (s.wave wi))).reg e) ∧
      ((laneEffect s wi o).wave wi).fstat = (s.wave wi).fstat ||| BitVec.ofNat 32 (o.fstat (s.wave wi)) := by
  obtain ⟨k1, _, k3, k4, k5, k6⟩ := Wave.puts_keeps (o.news (s.wave wi)) (s.wave wi)
  replace k3 := fun e he => k3 e (o.news_sub (s.wave wi) he)
  replace k5 := fun x hx e he hn => k5 x hx e he (o.news_sub (s.wave wi) hn)
  replace k6 := fun x hx hn => k6 x hx (o.news_sub (s.wave wi) hn)
  have hf : SameHolds (laneWave o (s.wave wi)) (s.wave wi) := by
    constructor <;> (simp only [laneWave]; rw [k1])
  obtain ⟨b, n, e⟩ := occupy_advance s wi (laneWave o (s.wave wi)) (o.place s wi).1 (o.place s wi).2 o.slow hl hu hf
  rw [← laneEffect_eq s wi o hm ht hc hh] at e
  generalize hw : (s.wave wi).puts (o.news (s.wave wi)) = w1 at k1 k3 k4 k5 k6
  have hl2 : laneWave o (s.wave wi) (s.wave wi) =
      { w1 with fstat := w1.fstat ||| BitVec.ofNat 32 (o.fstat (s.wave wi)) } := by simp only [laneWave, hw]
  rw [hl2] at e
  have hwt : (laneEffect s wi o).wave wi =
      Wave.retired { w1 with fstat := w1.fstat ||| BitVec.ofNat 32 (o.fstat (s.wave wi)) } := by
    rw [e]; simp [State.modCore, State.wave, List.getD_eq_getElem?_getD, hl]
  have hback := onlyBusy_modCore s (s.wave wi).part b n
  refine ⟨⟨?_, ?_, ?_, ?_, ?_, ?_, ?_, ?_, ?_⟩, ?_, ?_⟩
  · rw [hwt, e]; rfl
  · rw [hwt]; rw [k1]; rfl
  · intro x hx; rw [hwt]; exact k3 x hx
  · rw [hwt]; exact k4
  · rw [hwt]; exact k5
  · rw [hwt]; exact k6
  · rw [hwt]; simp only [Wave.retired]; rw [show w1.fstat = (s.wave wi).fstat by rw [k1]]
    ext j; simp
    intro h1; simp [h1]
  · rw [e]; exact ⟨hback.others, hback.core, hback.parts, hback.part⟩
  · have hspill : ∀ j, ((laneEffect s wi o).wave j).spill = (s.wave j).spill := by
      intro j
      by_cases hj : j = wi
      · subst j; rw [hwt]; simp only [Wave.retired]; rw [k1]
      · rw [e]; simp [State.modCore, State.wave, List.getD_eq_getElem?_getD, Ne.symm hj]
    refine ⟨fun h a => ?_, fun d a => ?_, fun a => ?_, fun v a => ?_, fun p a => ?_⟩
    · cases h with
      | spill j => simp only [State.homeRead, hspill]
      | shared j => rw [e]; rfl
      | scratch v d => rw [e]; rfl
    all_goals rw [e]; rfl
  · intro x; rw [hwt, ← hw]; rfl
  · rw [hwt]; simp only [Wave.retired]; rw [k1]

/-! ### From the checks to the effect -/

theorem State.ready_cur {s : State} {wi : Nat} {regs : List (BitVec 7)} (h : s.ready wi regs = true) :
    s.cur = some wi ∧ wi < s.waves.length ∧ s.unheld wi = true ∧
      ∀ d ∈ regs, d ∉ (s.wave wi).pend ∧ ∀ x ∈ (s.wave wi).badRegs, x.1 ≠ d := by
  simp only [State.ready, Bool.and_eq_true, decide_eq_true_eq, List.all_eq_true] at h
  obtain ⟨⟨⟨h1, h2⟩, h3⟩, h4⟩ := h
  refine ⟨by simpa using h1, h2, h3, fun d hd => ?_⟩
  have := h4 d hd
  simp only [Bool.not_eq_true', List.contains_eq_mem, decide_eq_false_iff_not, List.any_eq_false] at this
  exact ⟨this.1, fun x hx => by simpa using this.2 x hx⟩

/-- A wave that is ready begins its instruction. -/
theorem begin_ready {s : State} {wi : Nat} {regs rs : List (BitVec 7)} (f : Nat → State) (h : s.ready wi regs = true)
    (hr : ∀ d ∈ rs, d ∈ regs) : begin_ s rs f = .next (f wi) := by
  obtain ⟨h1, -, h3, h4⟩ := State.ready_cur h
  have : s.mustWait wi rs = false := by
    simp only [State.mustWait, h3, Bool.not_true, Bool.false_or, List.any_eq_false]
    intro d hd; simpa using (h4 d (hr d hd)).1
  simp [begin_, onWave, h1, this]

theorem State.laneReady_parts {s : State} {wi : Nat} {rd wr : List (BitVec 7)} (h : s.laneReady wi rd wr = true) :
    s.ready wi (rd ++ wr) = true ∧ (s.wave wi).room wr = true ∧ (s.wave wi).regs.length = 128 ∧
      (s.wave wi).k.length = 16 ∧ ∀ u, u ≠ ExecUnit.tensor → s.unitFree wi u = true := by
  simp only [State.laneReady, Bool.and_eq_true, beq_iff_eq, List.all_cons, List.all_nil] at h
  refine ⟨h.1.1.1.1, h.1.1.1.2, h.1.1.2, h.1.2, fun u hu => ?_⟩
  cases u <;> simp_all

/-- The wave has room for every register that a write would widen. -/
theorem room_widens (w : Wave) (ws : List (BitVec 7 × Reg)) (h : w.room (ws.map Prod.fst) = true) :
    (w.qw < w.liveV + w.widens ws && w.widens ws ≠ 0) = false := by
  have hle : w.widens ws ≤ ((ws.map Prod.fst).filter fun d => !w.hasSlot d).length := by
    clear h
    induction ws with
    | nil => simp [Wave.widens]
    | cons x xs ih =>
      simp only [Wave.widens, List.map_cons, List.filter_cons] at ih ⊢
      split <;> split <;> simp_all <;> omega
  simp only [Wave.room, Bool.or_eq_true, beq_iff_eq, decide_eq_true_eq] at h
  simp only [Bool.and_eq_false_iff, decide_eq_false_iff_not, Nat.not_lt]
  rcases h with h | h
  · right; omega
  · left; omega

/-- A lane instruction that passes its checks takes its effect. -/
theorem laneOp_ready (s : State) (wi : Nat) (i : Instr) (o : LaneOp) (rd wr : List (BitVec 7))
    (h : s.laneReady wi rd wr = true) (hw : o.writes.map Prod.fst = wr) (hr : ∀ d ∈ o.reads, d ∈ rd)
    (hu : o.unit ≠ .tensor) (hx : modeTrap (s.wave wi).mode = false ∨ o.fstat (s.wave wi) = 0) :
    laneOp s wi i o = laneEffect s wi o := by
  obtain ⟨h1, h2, -, -, h5⟩ := State.laneReady_parts h
  obtain ⟨-, -, -, h4⟩ := State.ready_cur h1
  have hn : (s.wave wi).room ((o.news (s.wave wi)).map Prod.fst) = true := by
    rcases o.news_fst (s.wave wi) with x | x
    · rw [x]; rfl
    · rw [x, hw]; exact h2
  have hq := room_widens (s.wave wi) (o.news (s.wave wi)) hn
  have hf : s.unitFree wi (o.place s wi).1 = true := by
    apply h5; simp only [LaneOp.place]; split
    · simp
    · exact hu
  have hs : (s.wave wi).softReads o.reads = false := by
    simp only [Wave.softReads, List.any_eq_false]
    intro d hd
    simp only [List.any_eq_true, not_exists, not_and]
    intro x hx; simpa using (h4 d (List.mem_append_left _ (hr d hd))).2 x hx
  have ha : (if modeTrap (s.wave wi).mode = true then arithCode (o.fstat (s.wave wi)) else none) = none := by
    rcases hx with hx | hx
    · simp [hx]
    · simp [hx, arithCode]
  simp only [laneOp, hf, hs, ha]
  rw [hq]; simp

/-- The lanes of a guarded write (R39, R40). -/
theorem guardedWrite_lane (w : Wave) (old new : Reg) (l : Nat) (hl : l < 32) :
    (guardedWrite w.pm w.active old new).lane l = if w.takes l then new.lane l else old.lane l := by
  have hv : ∀ f : Nat → Word, (Reg.ofFn f).lane l = f l := by
    intro f; simp [Reg.ofFn, Reg.lane, List.getD_eq_getElem?_getD, hl]
  unfold guardedWrite Wave.takes
  by_cases h1 : w.active = w.pm
  · simp [h1]
  · have hb : (w.active == w.pm) = false := by simpa using h1
    rw [if_neg h1, hb, Bool.false_or]
    split
    · rename_i h0
      have : bit w.active l = false := by simp [bit, h0]
      simp [this]
    · split
      · rename_i x y
        split
        · rename_i e; subst e; simp [Reg.lane]
        · rw [hv]; rfl
      · rw [hv]

/-- A guarded lane instruction with one destination: what it leaves, and its result. -/
theorem laneInstr_one (s : State) (wi : Nat) (i : Instr) (regs rd : List (BitVec 7)) (d : BitVec 7) (r : Reg)
    (f : Wave → Except Nat LaneOp) (o : LaneOp) (h : s.laneReady wi rd [d] = true)
    (hregs : ∀ e ∈ regs, e ∈ rd ++ [d]) (ho : f (s.wave wi) = .ok o) (hw : o.writes = [(d, r)]) (hg : o.guarded = true)
    (hr : ∀ e ∈ o.reads, e ∈ rd) (hu : o.unit ≠ .tensor)
    (hx : modeTrap (s.wave wi).mode = false ∨ o.fstat (s.wave wi) = 0)
    (hm : o.mask = none) (ht : o.test = none) (hc : o.cc = none) (hh : o.hm = none) :
    ∃ t, laneInstr s i regs f = .next t ∧ LaneDone s t wi [d] ∧
      (t.wave wi).fstat = (s.wave wi).fstat ||| BitVec.ofNat 32 (o.fstat (s.wave wi)) ∧ LaneValues s t wi d r.lane := by
  obtain ⟨h1, -, h3, -, -⟩ := State.laneReady_parts h
  obtain ⟨-, hl, hun, -⟩ := State.ready_cur h1
  have hfst : o.writes.map Prod.fst = [d] := by simp [hw]
  obtain ⟨hd, hreg, hfs⟩ := laneEffect_done s wi o hl hun hm ht hc hh
  rw [hfst] at hd
  refine ⟨laneEffect s wi o, ?_, hd, hfs, fun l hl32 => ?_⟩
  · rw [laneInstr, begin_ready _ h1 hregs]
    simp only [ho]
    rw [laneOp_ready s wi i o rd [d] h hfst hr hu hx]
  · rw [hreg]
    by_cases ha : (s.wave wi).active = 0 ∧ (s.wave wi).pm ≠ 0
    · have : (s.wave wi).puts (o.news (s.wave wi)) = s.wave wi := by
        have hc : (decide ((s.wave wi).active = 0) && decide ((s.wave wi).pm ≠ 0)) = true := by
          simp only [decide_eq_true ha.1, decide_eq_true ha.2, Bool.and_self]
        simp only [Wave.puts, LaneOp.news, hg, LaneOp.act, if_true, Bool.true_and, hc]; rfl
      have hb : ((s.wave wi).active == (s.wave wi).pm) = false := by rw [ha.1]; exact beq_false_of_ne (Ne.symm ha.2)
      have hl : bit (s.wave wi).active l = false := by rw [ha.1]; simp [bit]
      rw [this, Wave.takes, hb, hl]; rfl
    · have : (s.wave wi).puts (o.news (s.wave wi)) =
          (s.wave wi).put d (guardedWrite (s.wave wi).pm (s.wave wi).active ((s.wave wi).reg d) r) := by
        have hc : (decide ((s.wave wi).active = 0) && decide ((s.wave wi).pm ≠ 0)) = false := by
          rw [← Bool.decide_and]; exact decide_eq_false ha
        simp only [Wave.puts, LaneOp.news, hw, hg, LaneOp.act, if_true, Bool.true_and, hc]; rfl
      rw [this, Wave.put_reg _ _ _ h3, guardedWrite_lane _ _ _ _ hl32]

/-! ### Lane functions -/

theorem mapR_lane (rs : List Reg) (f : List Word → Word × Nat) (l : Nat) (hl : l < 32) :
    (mapR rs f).reg.lane l = (f (rs.map fun x => x.lane l)).1 := by
  unfold mapR
  split
  · rename_i h
    have : (rs.map fun x => x.lane 0) = rs.map fun x => x.lane l := by
      apply List.map_congr_left
      intro x hx
      have := List.all_eq_true.1 h x hx
      cases x <;> simp_all [Reg.isU, Reg.lane]
    show (f _).1 = (f _).1
    rw [this]
  · simp [Reg.lane, List.getD_eq_getElem?_getD, hl]

theorem LaneOp.fstat_nil (o : LaneOp) (w : Wave) (h : o.flags = []) : o.fstat w = 0 := by
  simp only [LaneOp.fstat, h]
  generalize lanesOf (o.act w) = l
  have : ∀ (l : List Nat) (a : Nat), l.foldl (fun acc i => acc ||| ([] : List Nat).getD i 0) a = a := by
    intro l; induction l with
    | nil => intro a; rfl
    | cons x xs ih => intro a; simp only [List.foldl_cons]; rw [ih]; simp
  exact this l 0

/-- An untyped instruction of whole lanes writes its function of the operands' lanes. -/
theorem laneFree_writes (i : Instr) (regs rd : List (BitVec 7)) (d : BitVec 7) (g : Wave → LaneOp)
    (he : ∀ s, exec i s = laneFree s i regs g) (r : Wave → Reg) (f : Wave → Nat → Word)
    (hregs : ∀ e ∈ regs, e ∈ rd ++ [d]) (hw : ∀ w, (g w).writes = [(d, r w)]) (hg : ∀ w, (g w).guarded = true)
    (hr : ∀ w, ∀ e ∈ (g w).reads, e ∈ rd) (hu : ∀ w, (g w).unit ≠ .tensor) (hx : ∀ w, (g w).flags = [])
    (hm : ∀ w, (g w).mask = none) (ht : ∀ w, (g w).test = none) (hc : ∀ w, (g w).cc = none) (hh : ∀ w, (g w).hm = none)
    (hf : ∀ w l, l < 32 → (r w).lane l = f w l) : WritesLane i rd d f := by
  intro s wi h _
  obtain ⟨t, e, hd, hs, hv⟩ := laneInstr_one s wi i regs rd d (r (s.wave wi)) (fun w => .ok (g w)) (g (s.wave wi)) h
    hregs rfl (hw _) (hg _) (hr _) (hu _) (.inr (LaneOp.fstat_nil _ _ (hx _))) (hm _) (ht _) (hc _) (hh _)
  refine ⟨t, (he s).trans e, hd, ?_, fun l hl => by rw [hv l hl, hf _ l hl]⟩
  rw [hs, LaneOp.fstat_nil _ _ (hx _)]; simp

/-- An untyped function of whole lanes, given as the meanings give it. -/
theorem word_writes (i : Instr) (regs rd : List (BitVec 7)) (d : BitVec 7) (rs : Wave → List Reg) (f : List Word → Word)
    (F : Wave → Nat → Word) (he : ∀ s, exec i s = laneFree s i regs fun w => wordOp d rd (rs w) f)
    (hregs : ∀ e ∈ regs, e ∈ rd ++ [d]) (hF : ∀ w l, f ((rs w).map fun x => x.lane l) = F w l) : WritesLane i rd d F := by
  refine laneFree_writes i regs rd d (fun w => wordOp d rd (rs w) f) he (fun w => (mapR (rs w) fun xs => (f xs, 0)).reg) F
    hregs (fun _ => rfl) (fun _ => rfl) (fun _ _ h => h) (fun _ => ?_) (fun _ => rfl) (fun _ => rfl) (fun _ => rfl)
    (fun _ => rfl) (fun _ => rfl) fun w l hl => ?_
  · simp [wordOp]
  · rw [mapR_lane _ _ _ hl, hF]

/-- An untyped instruction that writes one given result. -/
theorem reg_writes (i : Instr) (regs rd : List (BitVec 7)) (d : BitVec 7) (r : Wave → Reg) (u : ExecUnit)
    (F : Wave → Nat → Word) (he : ∀ s, exec i s = laneFree s i regs fun w => { reads := rd, writes := [(d, r w)], unit := u })
    (hu : u ≠ .tensor) (hregs : ∀ e ∈ regs, e ∈ rd ++ [d]) (hF : ∀ w l, l < 32 → (r w).lane l = F w l) :
    WritesLane i rd d F :=
  laneFree_writes i regs rd d (fun w => { reads := rd, writes := [(d, r w)], unit := u }) he r F hregs (fun _ => rfl)
    (fun _ => rfl) (fun _ _ h => h) (fun _ => hu) (fun _ => rfl) (fun _ => rfl) (fun _ => rfl) (fun _ => rfl) (fun _ => rfl) hF

theorem ofFn_lane (f : Nat → Word) (l : Nat) (h : l < 32) : (Reg.ofFn f).lane l = f l := by
  simp [Reg.ofFn, Reg.lane, List.getD_eq_getElem?_getD, h]

end Sys2Proof.Machine
end

