-- ==== Sys2Proof/Laws/PerInstr.lean ====
section
/-!
SUPPORT. Of each instruction as syntax: it has a word in the encoding tables exactly where its row is one of an
instruction word, and the other rows, which other agents than an issuing wave perform, have none.
-/

namespace Sys2Proof.Laws.Word

/-- The encoder gives a word for the instruction words of the table, and for no other row. -/
def Statement (i : Instr) : Prop := (encode i).isSome = i.hasWord

theorem nop : Statement (.nop) := rfl
theorem br (cond : BitVec 5) (off : BitVec 19) : Statement (.br cond off) := rfl
theorem jmp (a : BitVec 7) : Statement (.jmp a) := rfl
theorem call (d : BitVec 7) (off : BitVec 17) : Statement (.call d off) := rfl
theorem ret (a : BitVec 7) : Statement (.ret a) := rfl
theorem exit : Statement (.exit) := rfl
theorem trap (n : BitVec 8) : Statement (.trap n) := rfl
theorem sleep (n : BitVec 24) : Statement (.sleep n) := rfl
theorem mode (m : BitVec 16) : Statement (.mode m) := rfl
theorem sreg (d : BitVec 7) (idx : BitVec 10) : Statement (.sreg d idx) := rfl
theorem sset (a : BitVec 7) (idx : BitVec 10) : Statement (.sset a idx) := rfl
theorem tret : Statement (.tret) := rfl
theorem retry : Statement (.retry) := rfl
theorem skip : Statement (.skip) := rfl
theorem trd (d : BitVec 7) (n : BitVec 6) : Statement (.trd d n) := rfl
theorem add (d a b : BitVec 7) : Statement (.add d a b) := rfl
theorem sub (d a b : BitVec 7) : Statement (.sub d a b) := rfl
theorem mul (d a b : BitVec 7) : Statement (.mul d a b) := rfl
theorem mulhi (d a b : BitVec 7) : Statement (.mulhi d a b) := rfl
theorem fma (d a b : BitVec 7) : Statement (.fma d a b) := rfl
theorem fms (d a b : BitVec 7) : Statement (.fms d a b) := rfl
theorem fnma (d a b : BitVec 7) : Statement (.fnma d a b) := rfl
theorem min (d a b : BitVec 7) : Statement (.min d a b) := rfl
theorem max (d a b : BitVec 7) : Statement (.max d a b) := rfl
theorem abs (d a : BitVec 7) : Statement (.abs d a) := rfl
theorem neg (d a : BitVec 7) : Statement (.neg d a) := rfl
theorem and (d a b : BitVec 7) : Statement (.and d a b) := rfl
theorem or (d a b : BitVec 7) : Statement (.or d a b) := rfl
theorem xor (d a b : BitVec 7) : Statement (.xor d a b) := rfl
theorem andn (d a b : BitVec 7) : Statement (.andn d a b) := rfl
theorem not (d a : BitVec 7) : Statement (.not d a) := rfl
theorem shl (d a b : BitVec 7) : Statement (.shl d a b) := rfl
theorem shr (d a b : BitVec 7) : Statement (.shr d a b) := rfl
theorem sra (d a b : BitVec 7) : Statement (.sra d a b) := rfl
theorem rol (d a b : BitVec 7) : Statement (.rol d a b) := rfl
theorem bfe (d a b : BitVec 7) : Statement (.bfe d a b) := rfl
theorem bfi (d a b : BitVec 7) : Statement (.bfi d a b) := rfl
theorem popc (d a : BitVec 7) : Statement (.popc d a) := rfl
theorem clz (d a : BitVec 7) : Statement (.clz d a) := rfl
theorem addi (d a : BitVec 7) (imm : BitVec 10) : Statement (.addi d a imm) := rfl
theorem andi (d a : BitVec 7) (imm : BitVec 10) : Statement (.andi d a imm) := rfl
theorem ori (d a : BitVec 7) (imm : BitVec 10) : Statement (.ori d a imm) := rfl
theorem xori (d a : BitVec 7) (imm : BitVec 10) : Statement (.xori d a imm) := rfl
theorem li (d : BitVec 7) (imm : BitVec 17) : Statement (.li d imm) := rfl
theorem lih (d : BitVec 7) (imm : BitVec 16) : Statement (.lih d imm) := rfl
theorem shli (d a : BitVec 7) (n : BitVec 5) : Statement (.shli d a n) := rfl
theorem shri (d a : BitVec 7) (n : BitVec 5) : Statement (.shri d a n) := rfl
theorem srai (d a : BitVec 7) (n : BitVec 5) : Statement (.srai d a n) := rfl
theorem brev (d a : BitVec 7) : Statement (.brev d a) := rfl
theorem sel (d a b : BitVec 7) (km : BitVec 3) : Statement (.sel d a b km) := rfl
theorem mov (d a : BitVec 7) : Statement (.mov d a) := rfl
theorem cmpEq (m : BitVec 4) (a b : BitVec 7) : Statement (.cmpEq m a b) := rfl
theorem cmpNe (m : BitVec 4) (a b : BitVec 7) : Statement (.cmpNe m a b) := rfl
theorem cmpLt (m : BitVec 4) (a b : BitVec 7) : Statement (.cmpLt m a b) := rfl
theorem cmpLe (m : BitVec 4) (a b : BitVec 7) : Statement (.cmpLe m a b) := rfl
theorem cmpGt (m : BitVec 4) (a b : BitVec 7) : Statement (.cmpGt m a b) := rfl
theorem cmpGe (m : BitVec 4) (a b : BitVec 7) : Statement (.cmpGe m a b) := rfl
theorem cmpOrd (m : BitVec 4) (a b : BitVec 7) : Statement (.cmpOrd m a b) := rfl
theorem cmpEqU (m : BitVec 4) (a b : BitVec 7) : Statement (.cmpEqU m a b) := rfl
theorem cmpNeU (m : BitVec 4) (a b : BitVec 7) : Statement (.cmpNeU m a b) := rfl
theorem cmpLtU (m : BitVec 4) (a b : BitVec 7) : Statement (.cmpLtU m a b) := rfl
theorem cmpLeU (m : BitVec 4) (a b : BitVec 7) : Statement (.cmpLeU m a b) := rfl
theorem cmpGtU (m : BitVec 4) (a b : BitVec 7) : Statement (.cmpGtU m a b) := rfl
theorem cmpGeU (m : BitVec 4) (a b : BitVec 7) : Statement (.cmpGeU m a b) := rfl
theorem cmpUno (m : BitVec 4) (a b : BitVec 7) : Statement (.cmpUno m a b) := rfl
theorem kand (d a b : BitVec 4) : Statement (.kand d a b) := rfl
theorem kor (d a b : BitVec 4) : Statement (.kor d a b) := rfl
theorem kxor (d a b : BitVec 4) : Statement (.kxor d a b) := rfl
theorem knot (d a : BitVec 4) : Statement (.knot d a) := rfl
theorem kandn (d a b : BitVec 4) : Statement (.kandn d a b) := rfl
theorem kmov (d a : BitVec 4) : Statement (.kmov d a) := rfl
theorem kset (d : BitVec 4) (v : BitVec 7) : Statement (.kset d v) := rfl
theorem kget (v : BitVec 7) (a : BitVec 4) : Statement (.kget v a) := rfl
theorem kpop (v : BitVec 7) (a : BitVec 4) : Statement (.kpop v a) := rfl
theorem kfirst (v : BitVec 7) (a : BitVec 4) : Statement (.kfirst v a) := rfl
theorem ktest (a b : BitVec 4) : Statement (.ktest a b) := rfl
theorem shape (d a : BitVec 7) : Statement (.shape d a) := rfl
theorem sassert (a : BitVec 7) (n : BitVec 3) : Statement (.sassert a n) := rfl
theorem sforce (d : BitVec 7) : Statement (.sforce d) := rfl
theorem scompact (d : BitVec 7) : Statement (.scompact d) := rfl
theorem lane (d : BitVec 7) : Statement (.lane d) := rfl
theorem perm (d a b : BitVec 7) : Statement (.perm d a b) := rfl
theorem lmoveLo (d a b : BitVec 7) : Statement (.lmoveLo d a b) := rfl
theorem lmoveHi (d a b : BitVec 7) : Statement (.lmoveHi d a b) := rfl
theorem lmoveFlip (d a b : BitVec 7) : Statement (.lmoveFlip d a b) := rfl
theorem lmoveRot (d a b : BitVec 7) : Statement (.lmoveRot d a b) := rfl
theorem bcast (d a b : BitVec 7) : Statement (.bcast d a b) := rfl
theorem qswapH (d a : BitVec 7) : Statement (.qswapH d a) := rfl
theorem qswapV (d a : BitVec 7) : Statement (.qswapV d a) := rfl
theorem qswapD (d a : BitVec 7) : Statement (.qswapD d a) := rfl
theorem helper (a : BitVec 4) : Statement (.helper a) := rfl
theorem reduxAdd (d a : BitVec 7) : Statement (.reduxAdd d a) := rfl
theorem reduxMin (d a : BitVec 7) : Statement (.reduxMin d a) := rfl
theorem reduxMax (d a : BitVec 7) : Statement (.reduxMax d a) := rfl
theorem reduxAddn (d a : BitVec 7) (n : BitVec 3) : Statement (.reduxAddn d a n) := rfl
theorem scanAdd (d a : BitVec 7) : Statement (.scanAdd d a) := rfl
theorem scanAddn (d a : BitVec 7) (n : BitVec 3) : Statement (.scanAddn d a n) := rfl
theorem rcp (d a : BitVec 7) : Statement (.rcp d a) := rfl
theorem rsq (d a : BitVec 7) : Statement (.rsq d a) := rfl
theorem sqrt (d a : BitVec 7) : Statement (.sqrt d a) := rfl
theorem ex2 (d a : BitVec 7) : Statement (.ex2 d a) := rfl
theorem lg2 (d a : BitVec 7) : Statement (.lg2 d a) := rfl
theorem sinpi (d a : BitVec 7) : Statement (.sinpi d a) := rfl
theorem cospi (d a : BitVec 7) : Statement (.cospi d a) := rfl
theorem tanh (d a : BitVec 7) : Statement (.tanh d a) := rfl
theorem cvtF32I32 (d a : BitVec 7) : Statement (.cvtF32I32 d a) := rfl
theorem cvtF32U32 (d a : BitVec 7) : Statement (.cvtF32U32 d a) := rfl
theorem cvtI32F32 (d a : BitVec 7) : Statement (.cvtI32F32 d a) := rfl
theorem cvtU32F32 (d a : BitVec 7) : Statement (.cvtU32F32 d a) := rfl
theorem cvtF32F16 (d a : BitVec 7) : Statement (.cvtF32F16 d a) := rfl
theorem cvtF32F16h (d a : BitVec 7) : Statement (.cvtF32F16h d a) := rfl
theorem cvtF16x2F32 (d a b : BitVec 7) : Statement (.cvtF16x2F32 d a b) := rfl
theorem cvtF64F32 (d a : BitVec 7) : Statement (.cvtF64F32 d a) := rfl
theorem cvtF32F64 (d a : BitVec 7) : Statement (.cvtF32F64 d a) := rfl
theorem cvtF64I32 (d a : BitVec 7) : Statement (.cvtF64I32 d a) := rfl
theorem cvtI32F64 (d a : BitVec 7) : Statement (.cvtI32F64 d a) := rfl
theorem cvtF64U32 (d a : BitVec 7) : Statement (.cvtF64U32 d a) := rfl
theorem cvtU32F64 (d a : BitVec 7) : Statement (.cvtU32F64 d a) := rfl
theorem scl (d a b : BitVec 7) (s : BitVec 2) : Statement (.scl d a b s) := rfl
theorem dot4I8 (d a b : BitVec 7) : Statement (.dot4I8 d a b) := rfl
theorem dot4U8 (d a b : BitVec 7) : Statement (.dot4U8 d a b) := rfl
theorem dot8I4 (d a b : BitVec 7) : Statement (.dot8I4 d a b) := rfl
theorem dot4F8 (d a b : BitVec 7) (p : BitVec 2) : Statement (.dot4F8 d a b p) := rfl
theorem dot8F4 (d a b : BitVec 7) : Statement (.dot8F4 d a b) := rfl
theorem cvtE4m3F32 (d a b : BitVec 7) : Statement (.cvtE4m3F32 d a b) := rfl
theorem cvtE5m2F32 (d a b : BitVec 7) : Statement (.cvtE5m2F32 d a b) := rfl
theorem cvtE2m1F32 (d a b : BitVec 7) : Statement (.cvtE2m1F32 d a b) := rfl
theorem cvtBf16x2F32 (d a b : BitVec 7) : Statement (.cvtBf16x2F32 d a b) := rfl
theorem cvtF32E4m3 (d a b : BitVec 7) : Statement (.cvtF32E4m3 d a b) := rfl
theorem cvtF32E5m2 (d a b : BitVec 7) : Statement (.cvtF32E5m2 d a b) := rfl
theorem cvtF32E2m1 (d a b : BitVec 7) : Statement (.cvtF32E2m1 d a b) := rfl
theorem cvtF32Bf16x2 (d a b : BitVec 7) : Statement (.cvtF32Bf16x2 d a b) := rfl
theorem t3x (d a : BitVec 7) (q : BitVec 3) : Statement (.t3x d a q) := rfl
theorem t3pk (d a : BitVec 7) (q : BitVec 3) : Statement (.t3pk d a q) := rfl
theorem lds32 (d a : BitVec 7) (imm : BitVec 10) : Statement (.lds32 d a imm) := rfl
theorem lds64 (d a : BitVec 7) (imm : BitVec 10) : Statement (.lds64 d a imm) := rfl
theorem lds8 (d a : BitVec 7) (imm : BitVec 10) : Statement (.lds8 d a imm) := rfl
theorem lds16 (d a : BitVec 7) (imm : BitVec 10) : Statement (.lds16 d a imm) := rfl
theorem ldx32 (d a : BitVec 7) (imm : BitVec 10) : Statement (.ldx32 d a imm) := rfl
theorem ldx64 (d a : BitVec 7) (imm : BitVec 10) : Statement (.ldx64 d a imm) := rfl
theorem ldx8 (d a : BitVec 7) (imm : BitVec 10) : Statement (.ldx8 d a imm) := rfl
theorem ldx16 (d a : BitVec 7) (imm : BitVec 10) : Statement (.ldx16 d a imm) := rfl
theorem lds128 (d a : BitVec 7) (imm : BitVec 10) : Statement (.lds128 d a imm) := rfl
theorem ldx128 (d a : BitVec 7) (imm : BitVec 10) : Statement (.ldx128 d a imm) := rfl
theorem sts32 (d a : BitVec 7) (imm : BitVec 10) : Statement (.sts32 d a imm) := rfl
theorem sts64 (d a : BitVec 7) (imm : BitVec 10) : Statement (.sts64 d a imm) := rfl
theorem sts8 (d a : BitVec 7) (imm : BitVec 10) : Statement (.sts8 d a imm) := rfl
theorem sts16 (d a : BitVec 7) (imm : BitVec 10) : Statement (.sts16 d a imm) := rfl
theorem stx32 (d a : BitVec 7) (imm : BitVec 10) : Statement (.stx32 d a imm) := rfl
theorem stx64 (d a : BitVec 7) (imm : BitVec 10) : Statement (.stx64 d a imm) := rfl
theorem stx8 (d a : BitVec 7) (imm : BitVec 10) : Statement (.stx8 d a imm) := rfl
theorem stx16 (d a : BitVec 7) (imm : BitVec 10) : Statement (.stx16 d a imm) := rfl
theorem sts128 (d a : BitVec 7) (imm : BitVec 10) : Statement (.sts128 d a imm) := rfl
theorem stx128 (d a : BitVec 7) (imm : BitVec 10) : Statement (.stx128 d a imm) := rfl
theorem spill (d : BitVec 7) (n : BitVec 9) : Statement (.spill d n) := rfl
theorem fill (d : BitVec 7) (n : BitVec 9) : Statement (.fill d n) := rfl
theorem atomAdd (d a b : BitVec 7) (sc : BitVec 3) : Statement (.atomAdd d a b sc) := rfl
theorem atomFadd (d a b : BitVec 7) (sc : BitVec 3) : Statement (.atomFadd d a b sc) := rfl
theorem atomMin (d a b : BitVec 7) (sc : BitVec 3) : Statement (.atomMin d a b sc) := rfl
theorem atomMax (d a b : BitVec 7) (sc : BitVec 3) : Statement (.atomMax d a b sc) := rfl
theorem atomAnd (d a b : BitVec 7) (sc : BitVec 3) : Statement (.atomAnd d a b sc) := rfl
theorem atomOr (d a b : BitVec 7) (sc : BitVec 3) : Statement (.atomOr d a b sc) := rfl
theorem atomXor (d a b : BitVec 7) (sc : BitVec 3) : Statement (.atomXor d a b sc) := rfl
theorem atomXchg (d a b : BitVec 7) (sc : BitVec 3) : Statement (.atomXchg d a b sc) := rfl
theorem atomCas (d a b : BitVec 7) (sc : BitVec 3) : Statement (.atomCas d a b sc) := rfl
theorem atomInc (d a b : BitVec 7) (sc : BitVec 3) : Statement (.atomInc d a b sc) := rfl
theorem fence (sc : BitVec 3) : Statement (.fence sc) := rfl
theorem pfence (sc : BitVec 3) : Statement (.pfence sc) := rfl
theorem pckpt : Statement (.pckpt) := rfl
theorem meet (nb : BitVec 5) : Statement (.meet nb) := rfl
theorem arrive (nb : BitVec 5) : Statement (.arrive nb) := rfl
theorem await (nb : BitVec 5) : Statement (.await nb) := rfl
theorem waitc (a b : BitVec 7) (sc : BitVec 3) : Statement (.waitc a b sc) := rfl
theorem ldsAcq (d a : BitVec 7) (w sc : BitVec 3) : Statement (.ldsAcq d a w sc) := rfl
theorem ldxAcq (d a : BitVec 7) (w sc : BitVec 3) : Statement (.ldxAcq d a w sc) := rfl
theorem wait (ql qs : BitVec 5) (qx : BitVec 4) (qt : BitVec 3) : Statement (.wait ql qs qx qt) := rfl
theorem stsRel (w : BitVec 3) (a b : BitVec 7) (sc : BitVec 3) : Statement (.stsRel w a b sc) := rfl
theorem stxRel (w : BitVec 3) (a b : BitVec 7) (sc : BitVec 3) : Statement (.stxRel w a b sc) := rfl
theorem mmaF8 (d a b : BitVec 4) (p : BitVec 2) : Statement (.mmaF8 d a b p) := rfl
theorem mmaI8 (d a b : BitVec 4) (g : BitVec 2) : Statement (.mmaI8 d a b g) := rfl
theorem mmaBf16 (d a b : BitVec 4) : Statement (.mmaBf16 d a b) := rfl
theorem mmaF16 (d a b : BitVec 4) : Statement (.mmaF16 d a b) := rfl
theorem mmaMxf8 (d a b : BitVec 4) (xs : BitVec 7) (sel p : BitVec 2) : Statement (.mmaMxf8 d a b xs sel p) := rfl
theorem mmaMxf4 (d a b : BitVec 4) (xs : BitVec 7) (sel : BitVec 2) : Statement (.mmaMxf4 d a b xs sel) := rfl
theorem mmz (d : BitVec 4) : Statement (.mmz d) := rfl
theorem gmma (d b : BitVec 4) (xs : BitVec 7) (p : BitVec 2) : Statement (.gmma d b xs p) := rfl
theorem vclaim (n : BitVec 7) : Statement (.vclaim n) := rfl
theorem vrel (n : BitVec 7) : Statement (.vrel n) := rfl
theorem launch (d a : BitVec 7) : Statement (.launch d a) := rfl
theorem rcmode (m : BitVec 2) : Statement (.rcmode m) := rfl
theorem iinv : Statement (.iinv) := rfl
theorem brk (tag : BitVec 16) : Statement (.brk tag) := rfl
theorem trcStop : Statement (.trcStop) := rfl
theorem trcStart : Statement (.trcStart) := rfl
theorem trcSync : Statement (.trcSync) := rfl
theorem rdclk (d : BitVec 7) : Statement (.rdclk d) := rfl
theorem xperm (d a b : BitVec 7) : Statement (.xperm d a b) := rfl
theorem xbcast (d a b : BitVec 7) : Statement (.xbcast d a b) := rfl
theorem xreduxAdd (d a : BitVec 7) : Statement (.xreduxAdd d a) := rfl
theorem xreduxMin (d a : BitVec 7) : Statement (.xreduxMin d a) := rfl
theorem xreduxMax (d a : BitVec 7) : Statement (.xreduxMax d a) := rfl
theorem xscan (d a : BitVec 7) : Statement (.xscan d a) := rfl
theorem xballot (d : BitVec 7) (k : BitVec 4) (c : BitVec 3) : Statement (.xballot d k c) := rfl
theorem xwidth (d : BitVec 7) : Statement (.xwidth d) := rfl
theorem leave (acc : Nat) : Statement (.leave acc) := rfl
theorem propagate (acc : Nat) : Statement (.propagate acc) := rfl
theorem load (acc : Nat) : Statement (.load acc) := rfl
theorem atomic (acc : Nat) : Statement (.atomic acc) := rfl
theorem accept (acc : Nat) : Statement (.accept acc) := rfl
theorem move (copy k : Nat) : Statement (.move copy k) := rfl
theorem complete (copy : Nat) : Statement (.complete copy) := rfl
theorem drain (die k : Nat) : Statement (.drain die k) := rfl
theorem tileComplete (tile : Nat) : Statement (.tileComplete tile) := rfl
theorem placeBlock (launch die cluster : Nat) (cores : List Nat) : Statement (.placeBlock launch die cluster cores) := rfl
theorem restore (blk die cluster : Nat) (cores : List Nat) : Statement (.restore blk die cluster cores) := rfl
theorem reserveMode (launch : Nat) : Statement (.reserveMode launch) := rfl
theorem gangStarved (launch : Nat) : Statement (.gangStarved launch) := rfl
theorem waveEnd (w : Nat) : Statement (.waveEnd w) := rfl
theorem endCommit (blk : Nat) : Statement (.endCommit blk) := rfl
theorem tagSweep (die tag : Nat) : Statement (.tagSweep die tag) := rfl
theorem sleepElapsed (w : Nat) : Statement (.sleepElapsed w) := rfl
theorem claimGrant (p : PartRef) : Statement (.claimGrant p) := rfl
theorem claimDeadlock (p : PartRef) (blk : Nat) : Statement (.claimDeadlock p blk) := rfl
theorem arrival (w : Nat) : Statement (.arrival w) := rfl
theorem checkpoint (blk : Nat) : Statement (.checkpoint blk) := rfl
theorem preempt (blk : Nat) (gang : Bool) : Statement (.preempt blk gang) := rfl
theorem drainTimeout (blk : Nat) : Statement (.drainTimeout blk) := rfl
theorem save (blk : Nat) : Statement (.save blk) := rfl
theorem flushAndRestart (blk : Nat) : Statement (.flushAndRestart blk) := rfl
theorem migration (blk cluster : Nat) (cores : List Nat) : Statement (.migration blk cluster cores) := rfl
theorem managedPowerGating (die core : Nat) : Statement (.managedPowerGating die core) := rfl
theorem gatingCut (die core : Nat) : Statement (.gatingCut die core) := rfl
theorem gatingRestore (die core : Nat) : Statement (.gatingRestore die core) := rfl
theorem abruptLoss (torn : Option Torn) : Statement (.abruptLoss torn) := rfl
theorem powerUp : Statement (.powerUp) := rfl
theorem start (vi addr len asid : Nat) : Statement (.start vi addr len asid) := rfl
theorem signal (vi proc sig : Nat) : Statement (.signal vi proc sig) := rfl
theorem status (vi proc : Nat) : Statement (.status vi proc) := rfl
theorem attest (vi target : Nat) (nonce : Bytes) : Statement (.attest vi target nonce) := rfl
theorem recovered (vi : Nat) : Statement (.recovered vi) := rfl
theorem launchSystemCall (core : Nat) : Statement (.launchSystemCall core) := rfl
theorem launchWait (core : Nat) : Statement (.launchWait core) := rfl
theorem launchCancel (core : Nat) : Statement (.launchCancel core) := rfl
theorem launchTime (core : Nat) : Statement (.launchTime core) := rfl
theorem queueOpen (core : Nat) : Statement (.queueOpen core) := rfl
theorem queueClose (core : Nat) : Statement (.queueClose core) := rfl
theorem bundleLoad (core : Nat) : Statement (.bundleLoad core) := rfl
theorem bundleUnload (core : Nat) : Statement (.bundleUnload core) := rfl
theorem kernelFind (core : Nat) : Statement (.kernelFind core) := rfl
theorem map (core : Nat) : Statement (.map core) := rfl
theorem unmap (core : Nat) : Statement (.unmap core) := rfl
theorem discard (core : Nat) : Statement (.discard core) := rfl
theorem raceConfig (core : Nat) : Statement (.raceConfig core) := rfl
theorem traceConfig (core : Nat) : Statement (.traceConfig core) := rfl
theorem requeue (core : Nat) : Statement (.requeue core) := rfl
theorem faultService (die k : Nat) (answer : Option (BitVec 64 × Bytes)) : Statement (.faultService die k answer) := rfl
theorem tlbInvalidate (die site k : Nat) : Statement (.tlbInvalidate die site k) := rfl
theorem eviction (die : Nat) : Statement (.eviction die) := rfl
theorem linkDown (port : Nat) : Statement (.linkDown port) := rfl
theorem bellowsWindow (cluster : Nat) : Statement (.bellowsWindow cluster) := rfl
theorem railStep (cluster : Nat) : Statement (.railStep cluster) := rfl
theorem clockStep (cluster : Nat) : Statement (.clockStep cluster) := rfl
theorem guardRelease (cluster : Nat) : Statement (.guardRelease cluster) := rfl
theorem budgetLease (lease : Bytes) : Statement (.budgetLease lease) := rfl
theorem leaseExpiry : Statement (.leaseExpiry) := rfl
theorem hbmSensorRead (stack : Nat) (centi : Int) : Statement (.hbmSensorRead stack centi) := rfl
theorem tallowUpdate (die core : Nat) (allow : BitVec 16) : Statement (.tallowUpdate die core allow) := rfl
theorem halt (w : Nat) : Statement (.halt w) := rfl
theorem resume (w : Nat) (skip : Bool) : Statement (.resume w skip) := rfl
theorem pcComparatorMatch (w : Nat) : Statement (.pcComparatorMatch w) := rfl
theorem singleStep (w : Nat) : Statement (.singleStep w) := rfl
theorem focusStep (w ln : Nat) : Statement (.focusStep w ln) := rfl
theorem pendingPathStack (w : Nat) : Statement (.pendingPathStack w) := rfl
theorem barrierPhaseStep (blk : Nat) : Statement (.barrierPhaseStep blk) := rfl
theorem plainWrite (w : Nat) (d : DbgWrite) : Statement (.plainWrite w d) := rfl
theorem forcedWrite (w : Nat) (d : DbgWrite) : Statement (.forcedWrite w d) := rfl
theorem traceSyncInterval (w : Nat) : Statement (.traceSyncInterval w) := rfl
theorem traceLoss (w : Nat) : Statement (.traceLoss w) := rfl
theorem selectSlot (slot : Nat) : Statement (.selectSlot slot) := rfl
theorem raiseRollbackMinimum (v : Nat) : Statement (.raiseRollbackMinimum v) := rfl
theorem registerWrite (r : HubReg) (v : Nat) : Statement (.registerWrite r v) := rfl
theorem illWord (word : Word) : Statement (.illWord word) := rfl
theorem portableOnlyWord (word : Word) : Statement (.portableOnlyWord word) := rfl
theorem occupancyEnd (p : PartRef) (u : ExecUnit) : Statement (.occupancyEnd p u) := rfl
theorem uncorrectableError (t : ErrTarget) : Statement (.uncorrectableError t) := rfl
theorem fabricRequest (r : FabReq) : Statement (.fabricRequest r) := rfl
theorem systemCoreAccess (core : Nat) (act : SysAct) : Statement (.systemCoreAccess core act) := rfl
theorem cxlMemRequest (vi off : Nat) (data : Option Bytes) (n : Nat) : Statement (.cxlMemRequest vi off data n) := rfl
theorem launchWaitTimeout (thread : Nat) : Statement (.launchWaitTimeout thread) := rfl
theorem resourceDescriptorRequest (vi : Nat) (desc : ViDesc) : Statement (.resourceDescriptorRequest vi desc) := rfl

end Sys2Proof.Laws.Word
end

