-- ==== Sys2Proof/Laws/State.lean ====
section
/-!
SUPPORT. What each update of a record leaves as it was, field by field, and what it makes of the record itself.
-/

namespace Sys2Proof.Machine

variable (s : State)

/-! ### `State.modWave` -/

@[simp] theorem State.modWave_blocks (i : Nat) (f : Wave → Wave) : (s.modWave i f).blocks = s.blocks := rfl
@[simp] theorem State.modWave_launches (i : Nat) (f : Wave → Wave) : (s.modWave i f).launches = s.launches := rfl
@[simp] theorem State.modWave_ops (i : Nat) (f : Wave → Wave) : (s.modWave i f).ops = s.ops := rfl
@[simp] theorem State.modWave_accs (i : Nat) (f : Wave → Wave) : (s.modWave i f).accs = s.accs := rfl
@[simp] theorem State.modWave_tiles (i : Nat) (f : Wave → Wave) : (s.modWave i f).tiles = s.tiles := rfl
@[simp] theorem State.modWave_copies (i : Nat) (f : Wave → Wave) : (s.modWave i f).copies = s.copies := rfl
@[simp] theorem State.modWave_kernels (i : Nat) (f : Wave → Wave) : (s.modWave i f).kernels = s.kernels := rfl
@[simp] theorem State.modWave_bundles (i : Nat) (f : Wave → Wave) : (s.modWave i f).bundles = s.bundles := rfl
@[simp] theorem State.modWave_vis (i : Nat) (f : Wave → Wave) : (s.modWave i f).vis = s.vis := rfl
@[simp] theorem State.modWave_procs (i : Nat) (f : Wave → Wave) : (s.modWave i f).procs = s.procs := rfl
@[simp] theorem State.modWave_threads (i : Nat) (f : Wave → Wave) : (s.modWave i f).threads = s.threads := rfl
@[simp] theorem State.modWave_sysCores (i : Nat) (f : Wave → Wave) : (s.modWave i f).sysCores = s.sysCores := rfl
@[simp] theorem State.modWave_dies (i : Nat) (f : Wave → Wave) : (s.modWave i f).dies = s.dies := rfl
@[simp] theorem State.modWave_cores (i : Nat) (f : Wave → Wave) : (s.modWave i f).cores = s.cores := rfl
@[simp] theorem State.modWave_clusters (i : Nat) (f : Wave → Wave) : (s.modWave i f).clusters = s.clusters := rfl
@[simp] theorem State.modWave_hbmStacks (i : Nat) (f : Wave → Wave) : (s.modWave i f).hbmStacks = s.hbmStacks := rfl
@[simp] theorem State.modWave_now (i : Nat) (f : Wave → Wave) : (s.modWave i f).now = s.now := rfl
@[simp] theorem State.modWave_moduleNo (i : Nat) (f : Wave → Wave) : (s.modWave i f).moduleNo = s.moduleNo := rfl
@[simp] theorem State.modWave_powerLost (i : Nat) (f : Wave → Wave) : (s.modWave i f).powerLost = s.powerLost := rfl
@[simp] theorem State.modWave_boot (i : Nat) (f : Wave → Wave) : (s.modWave i f).boot = s.boot := rfl
@[simp] theorem State.modWave_bootSlot (i : Nat) (f : Wave → Wave) : (s.modWave i f).bootSlot = s.bootSlot := rfl
@[simp] theorem State.modWave_slotSel (i : Nat) (f : Wave → Wave) : (s.modWave i f).slotSel = s.slotSel := rfl
@[simp] theorem State.modWave_flash (i : Nat) (f : Wave → Wave) : (s.modWave i f).flash = s.flash := rfl
@[simp] theorem State.modWave_rollbackMin (i : Nat) (f : Wave → Wave) : (s.modWave i f).rollbackMin = s.rollbackMin := rfl
@[simp] theorem State.modWave_leaf (i : Nat) (f : Wave → Wave) : (s.modWave i f).leaf = s.leaf := rfl
@[simp] theorem State.modWave_lease (i : Nat) (f : Wave → Wave) : (s.modWave i f).lease = s.lease := rfl
@[simp] theorem State.modWave_leaseBad (i : Nat) (f : Wave → Wave) : (s.modWave i f).leaseBad = s.leaseBad := rfl
@[simp] theorem State.modWave_waiters (i : Nat) (f : Wave → Wave) : (s.modWave i f).waiters = s.waiters := rfl
@[simp] theorem State.modWave_posts (i : Nat) (f : Wave → Wave) : (s.modWave i f).posts = s.posts := rfl
@[simp] theorem State.modWave_hostMem (i : Nat) (f : Wave → Wave) : (s.modWave i f).hostMem = s.hostMem := rfl
@[simp] theorem State.modWave_ports (i : Nat) (f : Wave → Wave) : (s.modWave i f).ports = s.ports := rfl
@[simp] theorem State.modWave_evicted (i : Nat) (f : Wave → Wave) : (s.modWave i f).evicted = s.evicted := rfl
@[simp] theorem State.modWave_attached (i : Nat) (f : Wave → Wave) : (s.modWave i f).attached = s.attached := rfl
@[simp] theorem State.modWave_brkGo (i : Nat) (f : Wave → Wave) : (s.modWave i f).brkGo = s.brkGo := rfl
@[simp] theorem State.modWave_brkCount (i : Nat) (f : Wave → Wave) : (s.modWave i f).brkCount = s.brkCount := rfl
@[simp] theorem State.modWave_appends (i : Nat) (f : Wave → Wave) : (s.modWave i f).appends = s.appends := rfl
@[simp] theorem State.modWave_handles (i : Nat) (f : Wave → Wave) : (s.modWave i f).handles = s.handles := rfl
@[simp] theorem State.modWave_peers (i : Nat) (f : Wave → Wave) : (s.modWave i f).peers = s.peers := rfl
@[simp] theorem State.modWave_agenda (i : Nat) (f : Wave → Wave) : (s.modWave i f).agenda = s.agenda := rfl
@[simp] theorem State.modWave_cur (i : Nat) (f : Wave → Wave) : (s.modWave i f).cur = s.cur := rfl
@[simp] theorem State.modWave_steps (i : Nat) (f : Wave → Wave) : (s.modWave i f).steps = s.steps := rfl
@[simp] theorem State.modWave_get_block (i : Nat) (f : Wave → Wave) (j : Nat) : (s.modWave i f).block j = s.block j := rfl
@[simp] theorem State.modWave_get_launch (i : Nat) (f : Wave → Wave) (j : Nat) : (s.modWave i f).launch j = s.launch j := rfl
@[simp] theorem State.modWave_get_op (i : Nat) (f : Wave → Wave) (j : Nat) : (s.modWave i f).op j = s.op j := rfl
@[simp] theorem State.modWave_get_acc (i : Nat) (f : Wave → Wave) (j : Nat) : (s.modWave i f).acc j = s.acc j := rfl
@[simp] theorem State.modWave_get_tile (i : Nat) (f : Wave → Wave) (j : Nat) : (s.modWave i f).tile j = s.tile j := rfl
@[simp] theorem State.modWave_get_copy (i : Nat) (f : Wave → Wave) (j : Nat) : (s.modWave i f).copy j = s.copy j := rfl
@[simp] theorem State.modWave_get_kernel (i : Nat) (f : Wave → Wave) (j : Nat) : (s.modWave i f).kernel j = s.kernel j := rfl
@[simp] theorem State.modWave_get_vi (i : Nat) (f : Wave → Wave) (j : Nat) : (s.modWave i f).vi j = s.vi j := rfl
@[simp] theorem State.modWave_get_die (i : Nat) (f : Wave → Wave) (j : Nat) : (s.modWave i f).die j = s.die j := rfl
@[simp] theorem State.modWave_get_core (i : Nat) (f : Wave → Wave) (e b : Nat) : (s.modWave i f).core e b = s.core e b := rfl
@[simp] theorem State.modWave_get_cluster (i : Nat) (f : Wave → Wave) (j : Nat) : (s.modWave i f).cluster j = s.cluster j := rfl
@[simp] theorem State.modWave_get_proc (i : Nat) (f : Wave → Wave) (j : Nat) : (s.modWave i f).proc j = s.proc j := rfl
@[simp] theorem State.modWave_get_thread (i : Nat) (f : Wave → Wave) (j : Nat) : (s.modWave i f).thread j = s.thread j := rfl
@[simp] theorem State.modWave_get_tick (i : Nat) (f : Wave → Wave)  : (s.modWave i f).tick = s.tick := rfl
@[simp] theorem State.modWave_get_clk (i : Nat) (f : Wave → Wave) (j : Nat) : (s.modWave i f).clk j = s.clk j := rfl
@[simp] theorem State.modWave_get_part (i : Nat) (f : Wave → Wave) (q : PartRef) : (s.modWave i f).part q = s.part q := rfl

/-! ### `State.modBlock` -/

@[simp] theorem State.modBlock_waves (i : Nat) (f : Block → Block) : (s.modBlock i f).waves = s.waves := rfl
@[simp] theorem State.modBlock_launches (i : Nat) (f : Block → Block) : (s.modBlock i f).launches = s.launches := rfl
@[simp] theorem State.modBlock_ops (i : Nat) (f : Block → Block) : (s.modBlock i f).ops = s.ops := rfl
@[simp] theorem State.modBlock_accs (i : Nat) (f : Block → Block) : (s.modBlock i f).accs = s.accs := rfl
@[simp] theorem State.modBlock_tiles (i : Nat) (f : Block → Block) : (s.modBlock i f).tiles = s.tiles := rfl
@[simp] theorem State.modBlock_copies (i : Nat) (f : Block → Block) : (s.modBlock i f).copies = s.copies := rfl
@[simp] theorem State.modBlock_kernels (i : Nat) (f : Block → Block) : (s.modBlock i f).kernels = s.kernels := rfl
@[simp] theorem State.modBlock_bundles (i : Nat) (f : Block → Block) : (s.modBlock i f).bundles = s.bundles := rfl
@[simp] theorem State.modBlock_vis (i : Nat) (f : Block → Block) : (s.modBlock i f).vis = s.vis := rfl
@[simp] theorem State.modBlock_procs (i : Nat) (f : Block → Block) : (s.modBlock i f).procs = s.procs := rfl
@[simp] theorem State.modBlock_threads (i : Nat) (f : Block → Block) : (s.modBlock i f).threads = s.threads := rfl
@[simp] theorem State.modBlock_sysCores (i : Nat) (f : Block → Block) : (s.modBlock i f).sysCores = s.sysCores := rfl
@[simp] theorem State.modBlock_dies (i : Nat) (f : Block → Block) : (s.modBlock i f).dies = s.dies := rfl
@[simp] theorem State.modBlock_cores (i : Nat) (f : Block → Block) : (s.modBlock i f).cores = s.cores := rfl
@[simp] theorem State.modBlock_clusters (i : Nat) (f : Block → Block) : (s.modBlock i f).clusters = s.clusters := rfl
@[simp] theorem State.modBlock_hbmStacks (i : Nat) (f : Block → Block) : (s.modBlock i f).hbmStacks = s.hbmStacks := rfl
@[simp] theorem State.modBlock_now (i : Nat) (f : Block → Block) : (s.modBlock i f).now = s.now := rfl
@[simp] theorem State.modBlock_moduleNo (i : Nat) (f : Block → Block) : (s.modBlock i f).moduleNo = s.moduleNo := rfl
@[simp] theorem State.modBlock_powerLost (i : Nat) (f : Block → Block) : (s.modBlock i f).powerLost = s.powerLost := rfl
@[simp] theorem State.modBlock_boot (i : Nat) (f : Block → Block) : (s.modBlock i f).boot = s.boot := rfl
@[simp] theorem State.modBlock_bootSlot (i : Nat) (f : Block → Block) : (s.modBlock i f).bootSlot = s.bootSlot := rfl
@[simp] theorem State.modBlock_slotSel (i : Nat) (f : Block → Block) : (s.modBlock i f).slotSel = s.slotSel := rfl
@[simp] theorem State.modBlock_flash (i : Nat) (f : Block → Block) : (s.modBlock i f).flash = s.flash := rfl
@[simp] theorem State.modBlock_rollbackMin (i : Nat) (f : Block → Block) : (s.modBlock i f).rollbackMin = s.rollbackMin := rfl
@[simp] theorem State.modBlock_leaf (i : Nat) (f : Block → Block) : (s.modBlock i f).leaf = s.leaf := rfl
@[simp] theorem State.modBlock_lease (i : Nat) (f : Block → Block) : (s.modBlock i f).lease = s.lease := rfl
@[simp] theorem State.modBlock_leaseBad (i : Nat) (f : Block → Block) : (s.modBlock i f).leaseBad = s.leaseBad := rfl
@[simp] theorem State.modBlock_waiters (i : Nat) (f : Block → Block) : (s.modBlock i f).waiters = s.waiters := rfl
@[simp] theorem State.modBlock_posts (i : Nat) (f : Block → Block) : (s.modBlock i f).posts = s.posts := rfl
@[simp] theorem State.modBlock_hostMem (i : Nat) (f : Block → Block) : (s.modBlock i f).hostMem = s.hostMem := rfl
@[simp] theorem State.modBlock_ports (i : Nat) (f : Block → Block) : (s.modBlock i f).ports = s.ports := rfl
@[simp] theorem State.modBlock_evicted (i : Nat) (f : Block → Block) : (s.modBlock i f).evicted = s.evicted := rfl
@[simp] theorem State.modBlock_attached (i : Nat) (f : Block → Block) : (s.modBlock i f).attached = s.attached := rfl
@[simp] theorem State.modBlock_brkGo (i : Nat) (f : Block → Block) : (s.modBlock i f).brkGo = s.brkGo := rfl
@[simp] theorem State.modBlock_brkCount (i : Nat) (f : Block → Block) : (s.modBlock i f).brkCount = s.brkCount := rfl
@[simp] theorem State.modBlock_appends (i : Nat) (f : Block → Block) : (s.modBlock i f).appends = s.appends := rfl
@[simp] theorem State.modBlock_handles (i : Nat) (f : Block → Block) : (s.modBlock i f).handles = s.handles := rfl
@[simp] theorem State.modBlock_peers (i : Nat) (f : Block → Block) : (s.modBlock i f).peers = s.peers := rfl
@[simp] theorem State.modBlock_agenda (i : Nat) (f : Block → Block) : (s.modBlock i f).agenda = s.agenda := rfl
@[simp] theorem State.modBlock_cur (i : Nat) (f : Block → Block) : (s.modBlock i f).cur = s.cur := rfl
@[simp] theorem State.modBlock_steps (i : Nat) (f : Block → Block) : (s.modBlock i f).steps = s.steps := rfl
@[simp] theorem State.modBlock_get_wave (i : Nat) (f : Block → Block) (j : Nat) : (s.modBlock i f).wave j = s.wave j := rfl
@[simp] theorem State.modBlock_get_launch (i : Nat) (f : Block → Block) (j : Nat) : (s.modBlock i f).launch j = s.launch j := rfl
@[simp] theorem State.modBlock_get_op (i : Nat) (f : Block → Block) (j : Nat) : (s.modBlock i f).op j = s.op j := rfl
@[simp] theorem State.modBlock_get_acc (i : Nat) (f : Block → Block) (j : Nat) : (s.modBlock i f).acc j = s.acc j := rfl
@[simp] theorem State.modBlock_get_tile (i : Nat) (f : Block → Block) (j : Nat) : (s.modBlock i f).tile j = s.tile j := rfl
@[simp] theorem State.modBlock_get_copy (i : Nat) (f : Block → Block) (j : Nat) : (s.modBlock i f).copy j = s.copy j := rfl
@[simp] theorem State.modBlock_get_kernel (i : Nat) (f : Block → Block) (j : Nat) : (s.modBlock i f).kernel j = s.kernel j := rfl
@[simp] theorem State.modBlock_get_vi (i : Nat) (f : Block → Block) (j : Nat) : (s.modBlock i f).vi j = s.vi j := rfl
@[simp] theorem State.modBlock_get_die (i : Nat) (f : Block → Block) (j : Nat) : (s.modBlock i f).die j = s.die j := rfl
@[simp] theorem State.modBlock_get_core (i : Nat) (f : Block → Block) (e b : Nat) : (s.modBlock i f).core e b = s.core e b := rfl
@[simp] theorem State.modBlock_get_cluster (i : Nat) (f : Block → Block) (j : Nat) : (s.modBlock i f).cluster j = s.cluster j := rfl
@[simp] theorem State.modBlock_get_proc (i : Nat) (f : Block → Block) (j : Nat) : (s.modBlock i f).proc j = s.proc j := rfl
@[simp] theorem State.modBlock_get_thread (i : Nat) (f : Block → Block) (j : Nat) : (s.modBlock i f).thread j = s.thread j := rfl
@[simp] theorem State.modBlock_get_tick (i : Nat) (f : Block → Block)  : (s.modBlock i f).tick = s.tick := rfl
@[simp] theorem State.modBlock_get_clk (i : Nat) (f : Block → Block) (j : Nat) : (s.modBlock i f).clk j = s.clk j := rfl
@[simp] theorem State.modBlock_get_part (i : Nat) (f : Block → Block) (q : PartRef) : (s.modBlock i f).part q = s.part q := rfl

/-! ### `State.modLaunch` -/

@[simp] theorem State.modLaunch_waves (i : Nat) (f : Launch → Launch) : (s.modLaunch i f).waves = s.waves := rfl
@[simp] theorem State.modLaunch_blocks (i : Nat) (f : Launch → Launch) : (s.modLaunch i f).blocks = s.blocks := rfl
@[simp] theorem State.modLaunch_ops (i : Nat) (f : Launch → Launch) : (s.modLaunch i f).ops = s.ops := rfl
@[simp] theorem State.modLaunch_accs (i : Nat) (f : Launch → Launch) : (s.modLaunch i f).accs = s.accs := rfl
@[simp] theorem State.modLaunch_tiles (i : Nat) (f : Launch → Launch) : (s.modLaunch i f).tiles = s.tiles := rfl
@[simp] theorem State.modLaunch_copies (i : Nat) (f : Launch → Launch) : (s.modLaunch i f).copies = s.copies := rfl
@[simp] theorem State.modLaunch_kernels (i : Nat) (f : Launch → Launch) : (s.modLaunch i f).kernels = s.kernels := rfl
@[simp] theorem State.modLaunch_bundles (i : Nat) (f : Launch → Launch) : (s.modLaunch i f).bundles = s.bundles := rfl
@[simp] theorem State.modLaunch_vis (i : Nat) (f : Launch → Launch) : (s.modLaunch i f).vis = s.vis := rfl
@[simp] theorem State.modLaunch_procs (i : Nat) (f : Launch → Launch) : (s.modLaunch i f).procs = s.procs := rfl
@[simp] theorem State.modLaunch_threads (i : Nat) (f : Launch → Launch) : (s.modLaunch i f).threads = s.threads := rfl
@[simp] theorem State.modLaunch_sysCores (i : Nat) (f : Launch → Launch) : (s.modLaunch i f).sysCores = s.sysCores := rfl
@[simp] theorem State.modLaunch_dies (i : Nat) (f : Launch → Launch) : (s.modLaunch i f).dies = s.dies := rfl
@[simp] theorem State.modLaunch_cores (i : Nat) (f : Launch → Launch) : (s.modLaunch i f).cores = s.cores := rfl
@[simp] theorem State.modLaunch_clusters (i : Nat) (f : Launch → Launch) : (s.modLaunch i f).clusters = s.clusters := rfl
@[simp] theorem State.modLaunch_hbmStacks (i : Nat) (f : Launch → Launch) : (s.modLaunch i f).hbmStacks = s.hbmStacks := rfl
@[simp] theorem State.modLaunch_now (i : Nat) (f : Launch → Launch) : (s.modLaunch i f).now = s.now := rfl
@[simp] theorem State.modLaunch_moduleNo (i : Nat) (f : Launch → Launch) : (s.modLaunch i f).moduleNo = s.moduleNo := rfl
@[simp] theorem State.modLaunch_powerLost (i : Nat) (f : Launch → Launch) : (s.modLaunch i f).powerLost = s.powerLost := rfl
@[simp] theorem State.modLaunch_boot (i : Nat) (f : Launch → Launch) : (s.modLaunch i f).boot = s.boot := rfl
@[simp] theorem State.modLaunch_bootSlot (i : Nat) (f : Launch → Launch) : (s.modLaunch i f).bootSlot = s.bootSlot := rfl
@[simp] theorem State.modLaunch_slotSel (i : Nat) (f : Launch → Launch) : (s.modLaunch i f).slotSel = s.slotSel := rfl
@[simp] theorem State.modLaunch_flash (i : Nat) (f : Launch → Launch) : (s.modLaunch i f).flash = s.flash := rfl
@[simp] theorem State.modLaunch_rollbackMin (i : Nat) (f : Launch → Launch) : (s.modLaunch i f).rollbackMin = s.rollbackMin := rfl
@[simp] theorem State.modLaunch_leaf (i : Nat) (f : Launch → Launch) : (s.modLaunch i f).leaf = s.leaf := rfl
@[simp] theorem State.modLaunch_lease (i : Nat) (f : Launch → Launch) : (s.modLaunch i f).lease = s.lease := rfl
@[simp] theorem State.modLaunch_leaseBad (i : Nat) (f : Launch → Launch) : (s.modLaunch i f).leaseBad = s.leaseBad := rfl
@[simp] theorem State.modLaunch_waiters (i : Nat) (f : Launch → Launch) : (s.modLaunch i f).waiters = s.waiters := rfl
@[simp] theorem State.modLaunch_posts (i : Nat) (f : Launch → Launch) : (s.modLaunch i f).posts = s.posts := rfl
@[simp] theorem State.modLaunch_hostMem (i : Nat) (f : Launch → Launch) : (s.modLaunch i f).hostMem = s.hostMem := rfl
@[simp] theorem State.modLaunch_ports (i : Nat) (f : Launch → Launch) : (s.modLaunch i f).ports = s.ports := rfl
@[simp] theorem State.modLaunch_evicted (i : Nat) (f : Launch → Launch) : (s.modLaunch i f).evicted = s.evicted := rfl
@[simp] theorem State.modLaunch_attached (i : Nat) (f : Launch → Launch) : (s.modLaunch i f).attached = s.attached := rfl
@[simp] theorem State.modLaunch_brkGo (i : Nat) (f : Launch → Launch) : (s.modLaunch i f).brkGo = s.brkGo := rfl
@[simp] theorem State.modLaunch_brkCount (i : Nat) (f : Launch → Launch) : (s.modLaunch i f).brkCount = s.brkCount := rfl
@[simp] theorem State.modLaunch_appends (i : Nat) (f : Launch → Launch) : (s.modLaunch i f).appends = s.appends := rfl
@[simp] theorem State.modLaunch_handles (i : Nat) (f : Launch → Launch) : (s.modLaunch i f).handles = s.handles := rfl
@[simp] theorem State.modLaunch_peers (i : Nat) (f : Launch → Launch) : (s.modLaunch i f).peers = s.peers := rfl
@[simp] theorem State.modLaunch_agenda (i : Nat) (f : Launch → Launch) : (s.modLaunch i f).agenda = s.agenda := rfl
@[simp] theorem State.modLaunch_cur (i : Nat) (f : Launch → Launch) : (s.modLaunch i f).cur = s.cur := rfl
@[simp] theorem State.modLaunch_steps (i : Nat) (f : Launch → Launch) : (s.modLaunch i f).steps = s.steps := rfl
@[simp] theorem State.modLaunch_get_wave (i : Nat) (f : Launch → Launch) (j : Nat) : (s.modLaunch i f).wave j = s.wave j := rfl
@[simp] theorem State.modLaunch_get_block (i : Nat) (f : Launch → Launch) (j : Nat) : (s.modLaunch i f).block j = s.block j := rfl
@[simp] theorem State.modLaunch_get_op (i : Nat) (f : Launch → Launch) (j : Nat) : (s.modLaunch i f).op j = s.op j := rfl
@[simp] theorem State.modLaunch_get_acc (i : Nat) (f : Launch → Launch) (j : Nat) : (s.modLaunch i f).acc j = s.acc j := rfl
@[simp] theorem State.modLaunch_get_tile (i : Nat) (f : Launch → Launch) (j : Nat) : (s.modLaunch i f).tile j = s.tile j := rfl
@[simp] theorem State.modLaunch_get_copy (i : Nat) (f : Launch → Launch) (j : Nat) : (s.modLaunch i f).copy j = s.copy j := rfl
@[simp] theorem State.modLaunch_get_kernel (i : Nat) (f : Launch → Launch) (j : Nat) : (s.modLaunch i f).kernel j = s.kernel j := rfl
@[simp] theorem State.modLaunch_get_vi (i : Nat) (f : Launch → Launch) (j : Nat) : (s.modLaunch i f).vi j = s.vi j := rfl
@[simp] theorem State.modLaunch_get_die (i : Nat) (f : Launch → Launch) (j : Nat) : (s.modLaunch i f).die j = s.die j := rfl
@[simp] theorem State.modLaunch_get_core (i : Nat) (f : Launch → Launch) (e b : Nat) : (s.modLaunch i f).core e b = s.core e b := rfl
@[simp] theorem State.modLaunch_get_cluster (i : Nat) (f : Launch → Launch) (j : Nat) : (s.modLaunch i f).cluster j = s.cluster j := rfl
@[simp] theorem State.modLaunch_get_proc (i : Nat) (f : Launch → Launch) (j : Nat) : (s.modLaunch i f).proc j = s.proc j := rfl
@[simp] theorem State.modLaunch_get_thread (i : Nat) (f : Launch → Launch) (j : Nat) : (s.modLaunch i f).thread j = s.thread j := rfl
@[simp] theorem State.modLaunch_get_tick (i : Nat) (f : Launch → Launch)  : (s.modLaunch i f).tick = s.tick := rfl
@[simp] theorem State.modLaunch_get_clk (i : Nat) (f : Launch → Launch) (j : Nat) : (s.modLaunch i f).clk j = s.clk j := rfl
@[simp] theorem State.modLaunch_get_part (i : Nat) (f : Launch → Launch) (q : PartRef) : (s.modLaunch i f).part q = s.part q := rfl

/-! ### `State.modOp` -/

@[simp] theorem State.modOp_waves (i : Nat) (f : MemOp → MemOp) : (s.modOp i f).waves = s.waves := rfl
@[simp] theorem State.modOp_blocks (i : Nat) (f : MemOp → MemOp) : (s.modOp i f).blocks = s.blocks := rfl
@[simp] theorem State.modOp_launches (i : Nat) (f : MemOp → MemOp) : (s.modOp i f).launches = s.launches := rfl
@[simp] theorem State.modOp_accs (i : Nat) (f : MemOp → MemOp) : (s.modOp i f).accs = s.accs := rfl
@[simp] theorem State.modOp_tiles (i : Nat) (f : MemOp → MemOp) : (s.modOp i f).tiles = s.tiles := rfl
@[simp] theorem State.modOp_copies (i : Nat) (f : MemOp → MemOp) : (s.modOp i f).copies = s.copies := rfl
@[simp] theorem State.modOp_kernels (i : Nat) (f : MemOp → MemOp) : (s.modOp i f).kernels = s.kernels := rfl
@[simp] theorem State.modOp_bundles (i : Nat) (f : MemOp → MemOp) : (s.modOp i f).bundles = s.bundles := rfl
@[simp] theorem State.modOp_vis (i : Nat) (f : MemOp → MemOp) : (s.modOp i f).vis = s.vis := rfl
@[simp] theorem State.modOp_procs (i : Nat) (f : MemOp → MemOp) : (s.modOp i f).procs = s.procs := rfl
@[simp] theorem State.modOp_threads (i : Nat) (f : MemOp → MemOp) : (s.modOp i f).threads = s.threads := rfl
@[simp] theorem State.modOp_sysCores (i : Nat) (f : MemOp → MemOp) : (s.modOp i f).sysCores = s.sysCores := rfl
@[simp] theorem State.modOp_dies (i : Nat) (f : MemOp → MemOp) : (s.modOp i f).dies = s.dies := rfl
@[simp] theorem State.modOp_cores (i : Nat) (f : MemOp → MemOp) : (s.modOp i f).cores = s.cores := rfl
@[simp] theorem State.modOp_clusters (i : Nat) (f : MemOp → MemOp) : (s.modOp i f).clusters = s.clusters := rfl
@[simp] theorem State.modOp_hbmStacks (i : Nat) (f : MemOp → MemOp) : (s.modOp i f).hbmStacks = s.hbmStacks := rfl
@[simp] theorem State.modOp_now (i : Nat) (f : MemOp → MemOp) : (s.modOp i f).now = s.now := rfl
@[simp] theorem State.modOp_moduleNo (i : Nat) (f : MemOp → MemOp) : (s.modOp i f).moduleNo = s.moduleNo := rfl
@[simp] theorem State.modOp_powerLost (i : Nat) (f : MemOp → MemOp) : (s.modOp i f).powerLost = s.powerLost := rfl
@[simp] theorem State.modOp_boot (i : Nat) (f : MemOp → MemOp) : (s.modOp i f).boot = s.boot := rfl
@[simp] theorem State.modOp_bootSlot (i : Nat) (f : MemOp → MemOp) : (s.modOp i f).bootSlot = s.bootSlot := rfl
@[simp] theorem State.modOp_slotSel (i : Nat) (f : MemOp → MemOp) : (s.modOp i f).slotSel = s.slotSel := rfl
@[simp] theorem State.modOp_flash (i : Nat) (f : MemOp → MemOp) : (s.modOp i f).flash = s.flash := rfl
@[simp] theorem State.modOp_rollbackMin (i : Nat) (f : MemOp → MemOp) : (s.modOp i f).rollbackMin = s.rollbackMin := rfl
@[simp] theorem State.modOp_leaf (i : Nat) (f : MemOp → MemOp) : (s.modOp i f).leaf = s.leaf := rfl
@[simp] theorem State.modOp_lease (i : Nat) (f : MemOp → MemOp) : (s.modOp i f).lease = s.lease := rfl
@[simp] theorem State.modOp_leaseBad (i : Nat) (f : MemOp → MemOp) : (s.modOp i f).leaseBad = s.leaseBad := rfl
@[simp] theorem State.modOp_waiters (i : Nat) (f : MemOp → MemOp) : (s.modOp i f).waiters = s.waiters := rfl
@[simp] theorem State.modOp_posts (i : Nat) (f : MemOp → MemOp) : (s.modOp i f).posts = s.posts := rfl
@[simp] theorem State.modOp_hostMem (i : Nat) (f : MemOp → MemOp) : (s.modOp i f).hostMem = s.hostMem := rfl
@[simp] theorem State.modOp_ports (i : Nat) (f : MemOp → MemOp) : (s.modOp i f).ports = s.ports := rfl
@[simp] theorem State.modOp_evicted (i : Nat) (f : MemOp → MemOp) : (s.modOp i f).evicted = s.evicted := rfl
@[simp] theorem State.modOp_attached (i : Nat) (f : MemOp → MemOp) : (s.modOp i f).attached = s.attached := rfl
@[simp] theorem State.modOp_brkGo (i : Nat) (f : MemOp → MemOp) : (s.modOp i f).brkGo = s.brkGo := rfl
@[simp] theorem State.modOp_brkCount (i : Nat) (f : MemOp → MemOp) : (s.modOp i f).brkCount = s.brkCount := rfl
@[simp] theorem State.modOp_appends (i : Nat) (f : MemOp → MemOp) : (s.modOp i f).appends = s.appends := rfl
@[simp] theorem State.modOp_handles (i : Nat) (f : MemOp → MemOp) : (s.modOp i f).handles = s.handles := rfl
@[simp] theorem State.modOp_peers (i : Nat) (f : MemOp → MemOp) : (s.modOp i f).peers = s.peers := rfl
@[simp] theorem State.modOp_agenda (i : Nat) (f : MemOp → MemOp) : (s.modOp i f).agenda = s.agenda := rfl
@[simp] theorem State.modOp_cur (i : Nat) (f : MemOp → MemOp) : (s.modOp i f).cur = s.cur := rfl
@[simp] theorem State.modOp_steps (i : Nat) (f : MemOp → MemOp) : (s.modOp i f).steps = s.steps := rfl
@[simp] theorem State.modOp_get_wave (i : Nat) (f : MemOp → MemOp) (j : Nat) : (s.modOp i f).wave j = s.wave j := rfl
@[simp] theorem State.modOp_get_block (i : Nat) (f : MemOp → MemOp) (j : Nat) : (s.modOp i f).block j = s.block j := rfl
@[simp] theorem State.modOp_get_launch (i : Nat) (f : MemOp → MemOp) (j : Nat) : (s.modOp i f).launch j = s.launch j := rfl
@[simp] theorem State.modOp_get_acc (i : Nat) (f : MemOp → MemOp) (j : Nat) : (s.modOp i f).acc j = s.acc j := rfl
@[simp] theorem State.modOp_get_tile (i : Nat) (f : MemOp → MemOp) (j : Nat) : (s.modOp i f).tile j = s.tile j := rfl
@[simp] theorem State.modOp_get_copy (i : Nat) (f : MemOp → MemOp) (j : Nat) : (s.modOp i f).copy j = s.copy j := rfl
@[simp] theorem State.modOp_get_kernel (i : Nat) (f : MemOp → MemOp) (j : Nat) : (s.modOp i f).kernel j = s.kernel j := rfl
@[simp] theorem State.modOp_get_vi (i : Nat) (f : MemOp → MemOp) (j : Nat) : (s.modOp i f).vi j = s.vi j := rfl
@[simp] theorem State.modOp_get_die (i : Nat) (f : MemOp → MemOp) (j : Nat) : (s.modOp i f).die j = s.die j := rfl
@[simp] theorem State.modOp_get_core (i : Nat) (f : MemOp → MemOp) (e b : Nat) : (s.modOp i f).core e b = s.core e b := rfl
@[simp] theorem State.modOp_get_cluster (i : Nat) (f : MemOp → MemOp) (j : Nat) : (s.modOp i f).cluster j = s.cluster j := rfl
@[simp] theorem State.modOp_get_proc (i : Nat) (f : MemOp → MemOp) (j : Nat) : (s.modOp i f).proc j = s.proc j := rfl
@[simp] theorem State.modOp_get_thread (i : Nat) (f : MemOp → MemOp) (j : Nat) : (s.modOp i f).thread j = s.thread j := rfl
@[simp] theorem State.modOp_get_tick (i : Nat) (f : MemOp → MemOp)  : (s.modOp i f).tick = s.tick := rfl
@[simp] theorem State.modOp_get_clk (i : Nat) (f : MemOp → MemOp) (j : Nat) : (s.modOp i f).clk j = s.clk j := rfl
@[simp] theorem State.modOp_get_part (i : Nat) (f : MemOp → MemOp) (q : PartRef) : (s.modOp i f).part q = s.part q := rfl

/-! ### `State.modAcc` -/

@[simp] theorem State.modAcc_waves (i : Nat) (f : Acc → Acc) : (s.modAcc i f).waves = s.waves := rfl
@[simp] theorem State.modAcc_blocks (i : Nat) (f : Acc → Acc) : (s.modAcc i f).blocks = s.blocks := rfl
@[simp] theorem State.modAcc_launches (i : Nat) (f : Acc → Acc) : (s.modAcc i f).launches = s.launches := rfl
@[simp] theorem State.modAcc_ops (i : Nat) (f : Acc → Acc) : (s.modAcc i f).ops = s.ops := rfl
@[simp] theorem State.modAcc_tiles (i : Nat) (f : Acc → Acc) : (s.modAcc i f).tiles = s.tiles := rfl
@[simp] theorem State.modAcc_copies (i : Nat) (f : Acc → Acc) : (s.modAcc i f).copies = s.copies := rfl
@[simp] theorem State.modAcc_kernels (i : Nat) (f : Acc → Acc) : (s.modAcc i f).kernels = s.kernels := rfl
@[simp] theorem State.modAcc_bundles (i : Nat) (f : Acc → Acc) : (s.modAcc i f).bundles = s.bundles := rfl
@[simp] theorem State.modAcc_vis (i : Nat) (f : Acc → Acc) : (s.modAcc i f).vis = s.vis := rfl
@[simp] theorem State.modAcc_procs (i : Nat) (f : Acc → Acc) : (s.modAcc i f).procs = s.procs := rfl
@[simp] theorem State.modAcc_threads (i : Nat) (f : Acc → Acc) : (s.modAcc i f).threads = s.threads := rfl
@[simp] theorem State.modAcc_sysCores (i : Nat) (f : Acc → Acc) : (s.modAcc i f).sysCores = s.sysCores := rfl
@[simp] theorem State.modAcc_dies (i : Nat) (f : Acc → Acc) : (s.modAcc i f).dies = s.dies := rfl
@[simp] theorem State.modAcc_cores (i : Nat) (f : Acc → Acc) : (s.modAcc i f).cores = s.cores := rfl
@[simp] theorem State.modAcc_clusters (i : Nat) (f : Acc → Acc) : (s.modAcc i f).clusters = s.clusters := rfl
@[simp] theorem State.modAcc_hbmStacks (i : Nat) (f : Acc → Acc) : (s.modAcc i f).hbmStacks = s.hbmStacks := rfl
@[simp] theorem State.modAcc_now (i : Nat) (f : Acc → Acc) : (s.modAcc i f).now = s.now := rfl
@[simp] theorem State.modAcc_moduleNo (i : Nat) (f : Acc → Acc) : (s.modAcc i f).moduleNo = s.moduleNo := rfl
@[simp] theorem State.modAcc_powerLost (i : Nat) (f : Acc → Acc) : (s.modAcc i f).powerLost = s.powerLost := rfl
@[simp] theorem State.modAcc_boot (i : Nat) (f : Acc → Acc) : (s.modAcc i f).boot = s.boot := rfl
@[simp] theorem State.modAcc_bootSlot (i : Nat) (f : Acc → Acc) : (s.modAcc i f).bootSlot = s.bootSlot := rfl
@[simp] theorem State.modAcc_slotSel (i : Nat) (f : Acc → Acc) : (s.modAcc i f).slotSel = s.slotSel := rfl
@[simp] theorem State.modAcc_flash (i : Nat) (f : Acc → Acc) : (s.modAcc i f).flash = s.flash := rfl
@[simp] theorem State.modAcc_rollbackMin (i : Nat) (f : Acc → Acc) : (s.modAcc i f).rollbackMin = s.rollbackMin := rfl
@[simp] theorem State.modAcc_leaf (i : Nat) (f : Acc → Acc) : (s.modAcc i f).leaf = s.leaf := rfl
@[simp] theorem State.modAcc_lease (i : Nat) (f : Acc → Acc) : (s.modAcc i f).lease = s.lease := rfl
@[simp] theorem State.modAcc_leaseBad (i : Nat) (f : Acc → Acc) : (s.modAcc i f).leaseBad = s.leaseBad := rfl
@[simp] theorem State.modAcc_waiters (i : Nat) (f : Acc → Acc) : (s.modAcc i f).waiters = s.waiters := rfl
@[simp] theorem State.modAcc_posts (i : Nat) (f : Acc → Acc) : (s.modAcc i f).posts = s.posts := rfl
@[simp] theorem State.modAcc_hostMem (i : Nat) (f : Acc → Acc) : (s.modAcc i f).hostMem = s.hostMem := rfl
@[simp] theorem State.modAcc_ports (i : Nat) (f : Acc → Acc) : (s.modAcc i f).ports = s.ports := rfl
@[simp] theorem State.modAcc_evicted (i : Nat) (f : Acc → Acc) : (s.modAcc i f).evicted = s.evicted := rfl
@[simp] theorem State.modAcc_attached (i : Nat) (f : Acc → Acc) : (s.modAcc i f).attached = s.attached := rfl
@[simp] theorem State.modAcc_brkGo (i : Nat) (f : Acc → Acc) : (s.modAcc i f).brkGo = s.brkGo := rfl
@[simp] theorem State.modAcc_brkCount (i : Nat) (f : Acc → Acc) : (s.modAcc i f).brkCount = s.brkCount := rfl
@[simp] theorem State.modAcc_appends (i : Nat) (f : Acc → Acc) : (s.modAcc i f).appends = s.appends := rfl
@[simp] theorem State.modAcc_handles (i : Nat) (f : Acc → Acc) : (s.modAcc i f).handles = s.handles := rfl
@[simp] theorem State.modAcc_peers (i : Nat) (f : Acc → Acc) : (s.modAcc i f).peers = s.peers := rfl
@[simp] theorem State.modAcc_agenda (i : Nat) (f : Acc → Acc) : (s.modAcc i f).agenda = s.agenda := rfl
@[simp] theorem State.modAcc_cur (i : Nat) (f : Acc → Acc) : (s.modAcc i f).cur = s.cur := rfl
@[simp] theorem State.modAcc_steps (i : Nat) (f : Acc → Acc) : (s.modAcc i f).steps = s.steps := rfl
@[simp] theorem State.modAcc_get_wave (i : Nat) (f : Acc → Acc) (j : Nat) : (s.modAcc i f).wave j = s.wave j := rfl
@[simp] theorem State.modAcc_get_block (i : Nat) (f : Acc → Acc) (j : Nat) : (s.modAcc i f).block j = s.block j := rfl
@[simp] theorem State.modAcc_get_launch (i : Nat) (f : Acc → Acc) (j : Nat) : (s.modAcc i f).launch j = s.launch j := rfl
@[simp] theorem State.modAcc_get_op (i : Nat) (f : Acc → Acc) (j : Nat) : (s.modAcc i f).op j = s.op j := rfl
@[simp] theorem State.modAcc_get_tile (i : Nat) (f : Acc → Acc) (j : Nat) : (s.modAcc i f).tile j = s.tile j := rfl
@[simp] theorem State.modAcc_get_copy (i : Nat) (f : Acc → Acc) (j : Nat) : (s.modAcc i f).copy j = s.copy j := rfl
@[simp] theorem State.modAcc_get_kernel (i : Nat) (f : Acc → Acc) (j : Nat) : (s.modAcc i f).kernel j = s.kernel j := rfl
@[simp] theorem State.modAcc_get_vi (i : Nat) (f : Acc → Acc) (j : Nat) : (s.modAcc i f).vi j = s.vi j := rfl
@[simp] theorem State.modAcc_get_die (i : Nat) (f : Acc → Acc) (j : Nat) : (s.modAcc i f).die j = s.die j := rfl
@[simp] theorem State.modAcc_get_core (i : Nat) (f : Acc → Acc) (e b : Nat) : (s.modAcc i f).core e b = s.core e b := rfl
@[simp] theorem State.modAcc_get_cluster (i : Nat) (f : Acc → Acc) (j : Nat) : (s.modAcc i f).cluster j = s.cluster j := rfl
@[simp] theorem State.modAcc_get_proc (i : Nat) (f : Acc → Acc) (j : Nat) : (s.modAcc i f).proc j = s.proc j := rfl
@[simp] theorem State.modAcc_get_thread (i : Nat) (f : Acc → Acc) (j : Nat) : (s.modAcc i f).thread j = s.thread j := rfl
@[simp] theorem State.modAcc_get_tick (i : Nat) (f : Acc → Acc)  : (s.modAcc i f).tick = s.tick := rfl
@[simp] theorem State.modAcc_get_clk (i : Nat) (f : Acc → Acc) (j : Nat) : (s.modAcc i f).clk j = s.clk j := rfl
@[simp] theorem State.modAcc_get_part (i : Nat) (f : Acc → Acc) (q : PartRef) : (s.modAcc i f).part q = s.part q := rfl

/-! ### `State.modTile` -/

@[simp] theorem State.modTile_waves (i : Nat) (f : Tile → Tile) : (s.modTile i f).waves = s.waves := rfl
@[simp] theorem State.modTile_blocks (i : Nat) (f : Tile → Tile) : (s.modTile i f).blocks = s.blocks := rfl
@[simp] theorem State.modTile_launches (i : Nat) (f : Tile → Tile) : (s.modTile i f).launches = s.launches := rfl
@[simp] theorem State.modTile_ops (i : Nat) (f : Tile → Tile) : (s.modTile i f).ops = s.ops := rfl
@[simp] theorem State.modTile_accs (i : Nat) (f : Tile → Tile) : (s.modTile i f).accs = s.accs := rfl
@[simp] theorem State.modTile_copies (i : Nat) (f : Tile → Tile) : (s.modTile i f).copies = s.copies := rfl
@[simp] theorem State.modTile_kernels (i : Nat) (f : Tile → Tile) : (s.modTile i f).kernels = s.kernels := rfl
@[simp] theorem State.modTile_bundles (i : Nat) (f : Tile → Tile) : (s.modTile i f).bundles = s.bundles := rfl
@[simp] theorem State.modTile_vis (i : Nat) (f : Tile → Tile) : (s.modTile i f).vis = s.vis := rfl
@[simp] theorem State.modTile_procs (i : Nat) (f : Tile → Tile) : (s.modTile i f).procs = s.procs := rfl
@[simp] theorem State.modTile_threads (i : Nat) (f : Tile → Tile) : (s.modTile i f).threads = s.threads := rfl
@[simp] theorem State.modTile_sysCores (i : Nat) (f : Tile → Tile) : (s.modTile i f).sysCores = s.sysCores := rfl
@[simp] theorem State.modTile_dies (i : Nat) (f : Tile → Tile) : (s.modTile i f).dies = s.dies := rfl
@[simp] theorem State.modTile_cores (i : Nat) (f : Tile → Tile) : (s.modTile i f).cores = s.cores := rfl
@[simp] theorem State.modTile_clusters (i : Nat) (f : Tile → Tile) : (s.modTile i f).clusters = s.clusters := rfl
@[simp] theorem State.modTile_hbmStacks (i : Nat) (f : Tile → Tile) : (s.modTile i f).hbmStacks = s.hbmStacks := rfl
@[simp] theorem State.modTile_now (i : Nat) (f : Tile → Tile) : (s.modTile i f).now = s.now := rfl
@[simp] theorem State.modTile_moduleNo (i : Nat) (f : Tile → Tile) : (s.modTile i f).moduleNo = s.moduleNo := rfl
@[simp] theorem State.modTile_powerLost (i : Nat) (f : Tile → Tile) : (s.modTile i f).powerLost = s.powerLost := rfl
@[simp] theorem State.modTile_boot (i : Nat) (f : Tile → Tile) : (s.modTile i f).boot = s.boot := rfl
@[simp] theorem State.modTile_bootSlot (i : Nat) (f : Tile → Tile) : (s.modTile i f).bootSlot = s.bootSlot := rfl
@[simp] theorem State.modTile_slotSel (i : Nat) (f : Tile → Tile) : (s.modTile i f).slotSel = s.slotSel := rfl
@[simp] theorem State.modTile_flash (i : Nat) (f : Tile → Tile) : (s.modTile i f).flash = s.flash := rfl
@[simp] theorem State.modTile_rollbackMin (i : Nat) (f : Tile → Tile) : (s.modTile i f).rollbackMin = s.rollbackMin := rfl
@[simp] theorem State.modTile_leaf (i : Nat) (f : Tile → Tile) : (s.modTile i f).leaf = s.leaf := rfl
@[simp] theorem State.modTile_lease (i : Nat) (f : Tile → Tile) : (s.modTile i f).lease = s.lease := rfl
@[simp] theorem State.modTile_leaseBad (i : Nat) (f : Tile → Tile) : (s.modTile i f).leaseBad = s.leaseBad := rfl
@[simp] theorem State.modTile_waiters (i : Nat) (f : Tile → Tile) : (s.modTile i f).waiters = s.waiters := rfl
@[simp] theorem State.modTile_posts (i : Nat) (f : Tile → Tile) : (s.modTile i f).posts = s.posts := rfl
@[simp] theorem State.modTile_hostMem (i : Nat) (f : Tile → Tile) : (s.modTile i f).hostMem = s.hostMem := rfl
@[simp] theorem State.modTile_ports (i : Nat) (f : Tile → Tile) : (s.modTile i f).ports = s.ports := rfl
@[simp] theorem State.modTile_evicted (i : Nat) (f : Tile → Tile) : (s.modTile i f).evicted = s.evicted := rfl
@[simp] theorem State.modTile_attached (i : Nat) (f : Tile → Tile) : (s.modTile i f).attached = s.attached := rfl
@[simp] theorem State.modTile_brkGo (i : Nat) (f : Tile → Tile) : (s.modTile i f).brkGo = s.brkGo := rfl
@[simp] theorem State.modTile_brkCount (i : Nat) (f : Tile → Tile) : (s.modTile i f).brkCount = s.brkCount := rfl
@[simp] theorem State.modTile_appends (i : Nat) (f : Tile → Tile) : (s.modTile i f).appends = s.appends := rfl
@[simp] theorem State.modTile_handles (i : Nat) (f : Tile → Tile) : (s.modTile i f).handles = s.handles := rfl
@[simp] theorem State.modTile_peers (i : Nat) (f : Tile → Tile) : (s.modTile i f).peers = s.peers := rfl
@[simp] theorem State.modTile_agenda (i : Nat) (f : Tile → Tile) : (s.modTile i f).agenda = s.agenda := rfl
@[simp] theorem State.modTile_cur (i : Nat) (f : Tile → Tile) : (s.modTile i f).cur = s.cur := rfl
@[simp] theorem State.modTile_steps (i : Nat) (f : Tile → Tile) : (s.modTile i f).steps = s.steps := rfl
@[simp] theorem State.modTile_get_wave (i : Nat) (f : Tile → Tile) (j : Nat) : (s.modTile i f).wave j = s.wave j := rfl
@[simp] theorem State.modTile_get_block (i : Nat) (f : Tile → Tile) (j : Nat) : (s.modTile i f).block j = s.block j := rfl
@[simp] theorem State.modTile_get_launch (i : Nat) (f : Tile → Tile) (j : Nat) : (s.modTile i f).launch j = s.launch j := rfl
@[simp] theorem State.modTile_get_op (i : Nat) (f : Tile → Tile) (j : Nat) : (s.modTile i f).op j = s.op j := rfl
@[simp] theorem State.modTile_get_acc (i : Nat) (f : Tile → Tile) (j : Nat) : (s.modTile i f).acc j = s.acc j := rfl
@[simp] theorem State.modTile_get_copy (i : Nat) (f : Tile → Tile) (j : Nat) : (s.modTile i f).copy j = s.copy j := rfl
@[simp] theorem State.modTile_get_kernel (i : Nat) (f : Tile → Tile) (j : Nat) : (s.modTile i f).kernel j = s.kernel j := rfl
@[simp] theorem State.modTile_get_vi (i : Nat) (f : Tile → Tile) (j : Nat) : (s.modTile i f).vi j = s.vi j := rfl
@[simp] theorem State.modTile_get_die (i : Nat) (f : Tile → Tile) (j : Nat) : (s.modTile i f).die j = s.die j := rfl
@[simp] theorem State.modTile_get_core (i : Nat) (f : Tile → Tile) (e b : Nat) : (s.modTile i f).core e b = s.core e b := rfl
@[simp] theorem State.modTile_get_cluster (i : Nat) (f : Tile → Tile) (j : Nat) : (s.modTile i f).cluster j = s.cluster j := rfl
@[simp] theorem State.modTile_get_proc (i : Nat) (f : Tile → Tile) (j : Nat) : (s.modTile i f).proc j = s.proc j := rfl
@[simp] theorem State.modTile_get_thread (i : Nat) (f : Tile → Tile) (j : Nat) : (s.modTile i f).thread j = s.thread j := rfl
@[simp] theorem State.modTile_get_tick (i : Nat) (f : Tile → Tile)  : (s.modTile i f).tick = s.tick := rfl
@[simp] theorem State.modTile_get_clk (i : Nat) (f : Tile → Tile) (j : Nat) : (s.modTile i f).clk j = s.clk j := rfl
@[simp] theorem State.modTile_get_part (i : Nat) (f : Tile → Tile) (q : PartRef) : (s.modTile i f).part q = s.part q := rfl

/-! ### `State.modCopy` -/

@[simp] theorem State.modCopy_waves (i : Nat) (f : Copy → Copy) : (s.modCopy i f).waves = s.waves := rfl
@[simp] theorem State.modCopy_blocks (i : Nat) (f : Copy → Copy) : (s.modCopy i f).blocks = s.blocks := rfl
@[simp] theorem State.modCopy_launches (i : Nat) (f : Copy → Copy) : (s.modCopy i f).launches = s.launches := rfl
@[simp] theorem State.modCopy_ops (i : Nat) (f : Copy → Copy) : (s.modCopy i f).ops = s.ops := rfl
@[simp] theorem State.modCopy_accs (i : Nat) (f : Copy → Copy) : (s.modCopy i f).accs = s.accs := rfl
@[simp] theorem State.modCopy_tiles (i : Nat) (f : Copy → Copy) : (s.modCopy i f).tiles = s.tiles := rfl
@[simp] theorem State.modCopy_kernels (i : Nat) (f : Copy → Copy) : (s.modCopy i f).kernels = s.kernels := rfl
@[simp] theorem State.modCopy_bundles (i : Nat) (f : Copy → Copy) : (s.modCopy i f).bundles = s.bundles := rfl
@[simp] theorem State.modCopy_vis (i : Nat) (f : Copy → Copy) : (s.modCopy i f).vis = s.vis := rfl
@[simp] theorem State.modCopy_procs (i : Nat) (f : Copy → Copy) : (s.modCopy i f).procs = s.procs := rfl
@[simp] theorem State.modCopy_threads (i : Nat) (f : Copy → Copy) : (s.modCopy i f).threads = s.threads := rfl
@[simp] theorem State.modCopy_sysCores (i : Nat) (f : Copy → Copy) : (s.modCopy i f).sysCores = s.sysCores := rfl
@[simp] theorem State.modCopy_dies (i : Nat) (f : Copy → Copy) : (s.modCopy i f).dies = s.dies := rfl
@[simp] theorem State.modCopy_cores (i : Nat) (f : Copy → Copy) : (s.modCopy i f).cores = s.cores := rfl
@[simp] theorem State.modCopy_clusters (i : Nat) (f : Copy → Copy) : (s.modCopy i f).clusters = s.clusters := rfl
@[simp] theorem State.modCopy_hbmStacks (i : Nat) (f : Copy → Copy) : (s.modCopy i f).hbmStacks = s.hbmStacks := rfl
@[simp] theorem State.modCopy_now (i : Nat) (f : Copy → Copy) : (s.modCopy i f).now = s.now := rfl
@[simp] theorem State.modCopy_moduleNo (i : Nat) (f : Copy → Copy) : (s.modCopy i f).moduleNo = s.moduleNo := rfl
@[simp] theorem State.modCopy_powerLost (i : Nat) (f : Copy → Copy) : (s.modCopy i f).powerLost = s.powerLost := rfl
@[simp] theorem State.modCopy_boot (i : Nat) (f : Copy → Copy) : (s.modCopy i f).boot = s.boot := rfl
@[simp] theorem State.modCopy_bootSlot (i : Nat) (f : Copy → Copy) : (s.modCopy i f).bootSlot = s.bootSlot := rfl
@[simp] theorem State.modCopy_slotSel (i : Nat) (f : Copy → Copy) : (s.modCopy i f).slotSel = s.slotSel := rfl
@[simp] theorem State.modCopy_flash (i : Nat) (f : Copy → Copy) : (s.modCopy i f).flash = s.flash := rfl
@[simp] theorem State.modCopy_rollbackMin (i : Nat) (f : Copy → Copy) : (s.modCopy i f).rollbackMin = s.rollbackMin := rfl
@[simp] theorem State.modCopy_leaf (i : Nat) (f : Copy → Copy) : (s.modCopy i f).leaf = s.leaf := rfl
@[simp] theorem State.modCopy_lease (i : Nat) (f : Copy → Copy) : (s.modCopy i f).lease = s.lease := rfl
@[simp] theorem State.modCopy_leaseBad (i : Nat) (f : Copy → Copy) : (s.modCopy i f).leaseBad = s.leaseBad := rfl
@[simp] theorem State.modCopy_waiters (i : Nat) (f : Copy → Copy) : (s.modCopy i f).waiters = s.waiters := rfl
@[simp] theorem State.modCopy_posts (i : Nat) (f : Copy → Copy) : (s.modCopy i f).posts = s.posts := rfl
@[simp] theorem State.modCopy_hostMem (i : Nat) (f : Copy → Copy) : (s.modCopy i f).hostMem = s.hostMem := rfl
@[simp] theorem State.modCopy_ports (i : Nat) (f : Copy → Copy) : (s.modCopy i f).ports = s.ports := rfl
@[simp] theorem State.modCopy_evicted (i : Nat) (f : Copy → Copy) : (s.modCopy i f).evicted = s.evicted := rfl
@[simp] theorem State.modCopy_attached (i : Nat) (f : Copy → Copy) : (s.modCopy i f).attached = s.attached := rfl
@[simp] theorem State.modCopy_brkGo (i : Nat) (f : Copy → Copy) : (s.modCopy i f).brkGo = s.brkGo := rfl
@[simp] theorem State.modCopy_brkCount (i : Nat) (f : Copy → Copy) : (s.modCopy i f).brkCount = s.brkCount := rfl
@[simp] theorem State.modCopy_appends (i : Nat) (f : Copy → Copy) : (s.modCopy i f).appends = s.appends := rfl
@[simp] theorem State.modCopy_handles (i : Nat) (f : Copy → Copy) : (s.modCopy i f).handles = s.handles := rfl
@[simp] theorem State.modCopy_peers (i : Nat) (f : Copy → Copy) : (s.modCopy i f).peers = s.peers := rfl
@[simp] theorem State.modCopy_agenda (i : Nat) (f : Copy → Copy) : (s.modCopy i f).agenda = s.agenda := rfl
@[simp] theorem State.modCopy_cur (i : Nat) (f : Copy → Copy) : (s.modCopy i f).cur = s.cur := rfl
@[simp] theorem State.modCopy_steps (i : Nat) (f : Copy → Copy) : (s.modCopy i f).steps = s.steps := rfl
@[simp] theorem State.modCopy_get_wave (i : Nat) (f : Copy → Copy) (j : Nat) : (s.modCopy i f).wave j = s.wave j := rfl
@[simp] theorem State.modCopy_get_block (i : Nat) (f : Copy → Copy) (j : Nat) : (s.modCopy i f).block j = s.block j := rfl
@[simp] theorem State.modCopy_get_launch (i : Nat) (f : Copy → Copy) (j : Nat) : (s.modCopy i f).launch j = s.launch j := rfl
@[simp] theorem State.modCopy_get_op (i : Nat) (f : Copy → Copy) (j : Nat) : (s.modCopy i f).op j = s.op j := rfl
@[simp] theorem State.modCopy_get_acc (i : Nat) (f : Copy → Copy) (j : Nat) : (s.modCopy i f).acc j = s.acc j := rfl
@[simp] theorem State.modCopy_get_tile (i : Nat) (f : Copy → Copy) (j : Nat) : (s.modCopy i f).tile j = s.tile j := rfl
@[simp] theorem State.modCopy_get_kernel (i : Nat) (f : Copy → Copy) (j : Nat) : (s.modCopy i f).kernel j = s.kernel j := rfl
@[simp] theorem State.modCopy_get_vi (i : Nat) (f : Copy → Copy) (j : Nat) : (s.modCopy i f).vi j = s.vi j := rfl
@[simp] theorem State.modCopy_get_die (i : Nat) (f : Copy → Copy) (j : Nat) : (s.modCopy i f).die j = s.die j := rfl
@[simp] theorem State.modCopy_get_core (i : Nat) (f : Copy → Copy) (e b : Nat) : (s.modCopy i f).core e b = s.core e b := rfl
@[simp] theorem State.modCopy_get_cluster (i : Nat) (f : Copy → Copy) (j : Nat) : (s.modCopy i f).cluster j = s.cluster j := rfl
@[simp] theorem State.modCopy_get_proc (i : Nat) (f : Copy → Copy) (j : Nat) : (s.modCopy i f).proc j = s.proc j := rfl
@[simp] theorem State.modCopy_get_thread (i : Nat) (f : Copy → Copy) (j : Nat) : (s.modCopy i f).thread j = s.thread j := rfl
@[simp] theorem State.modCopy_get_tick (i : Nat) (f : Copy → Copy)  : (s.modCopy i f).tick = s.tick := rfl
@[simp] theorem State.modCopy_get_clk (i : Nat) (f : Copy → Copy) (j : Nat) : (s.modCopy i f).clk j = s.clk j := rfl
@[simp] theorem State.modCopy_get_part (i : Nat) (f : Copy → Copy) (q : PartRef) : (s.modCopy i f).part q = s.part q := rfl

/-! ### `State.modVi` -/

@[simp] theorem State.modVi_waves (i : Nat) (f : ViState → ViState) : (s.modVi i f).waves = s.waves := rfl
@[simp] theorem State.modVi_blocks (i : Nat) (f : ViState → ViState) : (s.modVi i f).blocks = s.blocks := rfl
@[simp] theorem State.modVi_launches (i : Nat) (f : ViState → ViState) : (s.modVi i f).launches = s.launches := rfl
@[simp] theorem State.modVi_ops (i : Nat) (f : ViState → ViState) : (s.modVi i f).ops = s.ops := rfl
@[simp] theorem State.modVi_accs (i : Nat) (f : ViState → ViState) : (s.modVi i f).accs = s.accs := rfl
@[simp] theorem State.modVi_tiles (i : Nat) (f : ViState → ViState) : (s.modVi i f).tiles = s.tiles := rfl
@[simp] theorem State.modVi_copies (i : Nat) (f : ViState → ViState) : (s.modVi i f).copies = s.copies := rfl
@[simp] theorem State.modVi_kernels (i : Nat) (f : ViState → ViState) : (s.modVi i f).kernels = s.kernels := rfl
@[simp] theorem State.modVi_bundles (i : Nat) (f : ViState → ViState) : (s.modVi i f).bundles = s.bundles := rfl
@[simp] theorem State.modVi_procs (i : Nat) (f : ViState → ViState) : (s.modVi i f).procs = s.procs := rfl
@[simp] theorem State.modVi_threads (i : Nat) (f : ViState → ViState) : (s.modVi i f).threads = s.threads := rfl
@[simp] theorem State.modVi_sysCores (i : Nat) (f : ViState → ViState) : (s.modVi i f).sysCores = s.sysCores := rfl
@[simp] theorem State.modVi_dies (i : Nat) (f : ViState → ViState) : (s.modVi i f).dies = s.dies := rfl
@[simp] theorem State.modVi_cores (i : Nat) (f : ViState → ViState) : (s.modVi i f).cores = s.cores := rfl
@[simp] theorem State.modVi_clusters (i : Nat) (f : ViState → ViState) : (s.modVi i f).clusters = s.clusters := rfl
@[simp] theorem State.modVi_hbmStacks (i : Nat) (f : ViState → ViState) : (s.modVi i f).hbmStacks = s.hbmStacks := rfl
@[simp] theorem State.modVi_now (i : Nat) (f : ViState → ViState) : (s.modVi i f).now = s.now := rfl
@[simp] theorem State.modVi_moduleNo (i : Nat) (f : ViState → ViState) : (s.modVi i f).moduleNo = s.moduleNo := rfl
@[simp] theorem State.modVi_powerLost (i : Nat) (f : ViState → ViState) : (s.modVi i f).powerLost = s.powerLost := rfl
@[simp] theorem State.modVi_boot (i : Nat) (f : ViState → ViState) : (s.modVi i f).boot = s.boot := rfl
@[simp] theorem State.modVi_bootSlot (i : Nat) (f : ViState → ViState) : (s.modVi i f).bootSlot = s.bootSlot := rfl
@[simp] theorem State.modVi_slotSel (i : Nat) (f : ViState → ViState) : (s.modVi i f).slotSel = s.slotSel := rfl
@[simp] theorem State.modVi_flash (i : Nat) (f : ViState → ViState) : (s.modVi i f).flash = s.flash := rfl
@[simp] theorem State.modVi_rollbackMin (i : Nat) (f : ViState → ViState) : (s.modVi i f).rollbackMin = s.rollbackMin := rfl
@[simp] theorem State.modVi_leaf (i : Nat) (f : ViState → ViState) : (s.modVi i f).leaf = s.leaf := rfl
@[simp] theorem State.modVi_lease (i : Nat) (f : ViState → ViState) : (s.modVi i f).lease = s.lease := rfl
@[simp] theorem State.modVi_leaseBad (i : Nat) (f : ViState → ViState) : (s.modVi i f).leaseBad = s.leaseBad := rfl
@[simp] theorem State.modVi_waiters (i : Nat) (f : ViState → ViState) : (s.modVi i f).waiters = s.waiters := rfl
@[simp] theorem State.modVi_posts (i : Nat) (f : ViState → ViState) : (s.modVi i f).posts = s.posts := rfl
@[simp] theorem State.modVi_hostMem (i : Nat) (f : ViState → ViState) : (s.modVi i f).hostMem = s.hostMem := rfl
@[simp] theorem State.modVi_ports (i : Nat) (f : ViState → ViState) : (s.modVi i f).ports = s.ports := rfl
@[simp] theorem State.modVi_evicted (i : Nat) (f : ViState → ViState) : (s.modVi i f).evicted = s.evicted := rfl
@[simp] theorem State.modVi_attached (i : Nat) (f : ViState → ViState) : (s.modVi i f).attached = s.attached := rfl
@[simp] theorem State.modVi_brkGo (i : Nat) (f : ViState → ViState) : (s.modVi i f).brkGo = s.brkGo := rfl
@[simp] theorem State.modVi_brkCount (i : Nat) (f : ViState → ViState) : (s.modVi i f).brkCount = s.brkCount := rfl
@[simp] theorem State.modVi_appends (i : Nat) (f : ViState → ViState) : (s.modVi i f).appends = s.appends := rfl
@[simp] theorem State.modVi_handles (i : Nat) (f : ViState → ViState) : (s.modVi i f).handles = s.handles := rfl
@[simp] theorem State.modVi_peers (i : Nat) (f : ViState → ViState) : (s.modVi i f).peers = s.peers := rfl
@[simp] theorem State.modVi_agenda (i : Nat) (f : ViState → ViState) : (s.modVi i f).agenda = s.agenda := rfl
@[simp] theorem State.modVi_cur (i : Nat) (f : ViState → ViState) : (s.modVi i f).cur = s.cur := rfl
@[simp] theorem State.modVi_steps (i : Nat) (f : ViState → ViState) : (s.modVi i f).steps = s.steps := rfl
@[simp] theorem State.modVi_get_wave (i : Nat) (f : ViState → ViState) (j : Nat) : (s.modVi i f).wave j = s.wave j := rfl
@[simp] theorem State.modVi_get_block (i : Nat) (f : ViState → ViState) (j : Nat) : (s.modVi i f).block j = s.block j := rfl
@[simp] theorem State.modVi_get_launch (i : Nat) (f : ViState → ViState) (j : Nat) : (s.modVi i f).launch j = s.launch j := rfl
@[simp] theorem State.modVi_get_op (i : Nat) (f : ViState → ViState) (j : Nat) : (s.modVi i f).op j = s.op j := rfl
@[simp] theorem State.modVi_get_acc (i : Nat) (f : ViState → ViState) (j : Nat) : (s.modVi i f).acc j = s.acc j := rfl
@[simp] theorem State.modVi_get_tile (i : Nat) (f : ViState → ViState) (j : Nat) : (s.modVi i f).tile j = s.tile j := rfl
@[simp] theorem State.modVi_get_copy (i : Nat) (f : ViState → ViState) (j : Nat) : (s.modVi i f).copy j = s.copy j := rfl
@[simp] theorem State.modVi_get_kernel (i : Nat) (f : ViState → ViState) (j : Nat) : (s.modVi i f).kernel j = s.kernel j := rfl
@[simp] theorem State.modVi_get_die (i : Nat) (f : ViState → ViState) (j : Nat) : (s.modVi i f).die j = s.die j := rfl
@[simp] theorem State.modVi_get_core (i : Nat) (f : ViState → ViState) (e b : Nat) : (s.modVi i f).core e b = s.core e b := rfl
@[simp] theorem State.modVi_get_cluster (i : Nat) (f : ViState → ViState) (j : Nat) : (s.modVi i f).cluster j = s.cluster j := rfl
@[simp] theorem State.modVi_get_proc (i : Nat) (f : ViState → ViState) (j : Nat) : (s.modVi i f).proc j = s.proc j := rfl
@[simp] theorem State.modVi_get_thread (i : Nat) (f : ViState → ViState) (j : Nat) : (s.modVi i f).thread j = s.thread j := rfl
@[simp] theorem State.modVi_get_tick (i : Nat) (f : ViState → ViState)  : (s.modVi i f).tick = s.tick := rfl
@[simp] theorem State.modVi_get_clk (i : Nat) (f : ViState → ViState) (j : Nat) : (s.modVi i f).clk j = s.clk j := rfl
@[simp] theorem State.modVi_get_part (i : Nat) (f : ViState → ViState) (q : PartRef) : (s.modVi i f).part q = s.part q := rfl

/-! ### `State.modDie` -/

@[simp] theorem State.modDie_waves (i : Nat) (f : DieState → DieState) : (s.modDie i f).waves = s.waves := rfl
@[simp] theorem State.modDie_blocks (i : Nat) (f : DieState → DieState) : (s.modDie i f).blocks = s.blocks := rfl
@[simp] theorem State.modDie_launches (i : Nat) (f : DieState → DieState) : (s.modDie i f).launches = s.launches := rfl
@[simp] theorem State.modDie_ops (i : Nat) (f : DieState → DieState) : (s.modDie i f).ops = s.ops := rfl
@[simp] theorem State.modDie_accs (i : Nat) (f : DieState → DieState) : (s.modDie i f).accs = s.accs := rfl
@[simp] theorem State.modDie_tiles (i : Nat) (f : DieState → DieState) : (s.modDie i f).tiles = s.tiles := rfl
@[simp] theorem State.modDie_copies (i : Nat) (f : DieState → DieState) : (s.modDie i f).copies = s.copies := rfl
@[simp] theorem State.modDie_kernels (i : Nat) (f : DieState → DieState) : (s.modDie i f).kernels = s.kernels := rfl
@[simp] theorem State.modDie_bundles (i : Nat) (f : DieState → DieState) : (s.modDie i f).bundles = s.bundles := rfl
@[simp] theorem State.modDie_vis (i : Nat) (f : DieState → DieState) : (s.modDie i f).vis = s.vis := rfl
@[simp] theorem State.modDie_procs (i : Nat) (f : DieState → DieState) : (s.modDie i f).procs = s.procs := rfl
@[simp] theorem State.modDie_threads (i : Nat) (f : DieState → DieState) : (s.modDie i f).threads = s.threads := rfl
@[simp] theorem State.modDie_sysCores (i : Nat) (f : DieState → DieState) : (s.modDie i f).sysCores = s.sysCores := rfl
@[simp] theorem State.modDie_cores (i : Nat) (f : DieState → DieState) : (s.modDie i f).cores = s.cores := rfl
@[simp] theorem State.modDie_clusters (i : Nat) (f : DieState → DieState) : (s.modDie i f).clusters = s.clusters := rfl
@[simp] theorem State.modDie_hbmStacks (i : Nat) (f : DieState → DieState) : (s.modDie i f).hbmStacks = s.hbmStacks := rfl
@[simp] theorem State.modDie_now (i : Nat) (f : DieState → DieState) : (s.modDie i f).now = s.now := rfl
@[simp] theorem State.modDie_moduleNo (i : Nat) (f : DieState → DieState) : (s.modDie i f).moduleNo = s.moduleNo := rfl
@[simp] theorem State.modDie_powerLost (i : Nat) (f : DieState → DieState) : (s.modDie i f).powerLost = s.powerLost := rfl
@[simp] theorem State.modDie_boot (i : Nat) (f : DieState → DieState) : (s.modDie i f).boot = s.boot := rfl
@[simp] theorem State.modDie_bootSlot (i : Nat) (f : DieState → DieState) : (s.modDie i f).bootSlot = s.bootSlot := rfl
@[simp] theorem State.modDie_slotSel (i : Nat) (f : DieState → DieState) : (s.modDie i f).slotSel = s.slotSel := rfl
@[simp] theorem State.modDie_flash (i : Nat) (f : DieState → DieState) : (s.modDie i f).flash = s.flash := rfl
@[simp] theorem State.modDie_rollbackMin (i : Nat) (f : DieState → DieState) : (s.modDie i f).rollbackMin = s.rollbackMin := rfl
@[simp] theorem State.modDie_leaf (i : Nat) (f : DieState → DieState) : (s.modDie i f).leaf = s.leaf := rfl
@[simp] theorem State.modDie_lease (i : Nat) (f : DieState → DieState) : (s.modDie i f).lease = s.lease := rfl
@[simp] theorem State.modDie_leaseBad (i : Nat) (f : DieState → DieState) : (s.modDie i f).leaseBad = s.leaseBad := rfl
@[simp] theorem State.modDie_waiters (i : Nat) (f : DieState → DieState) : (s.modDie i f).waiters = s.waiters := rfl
@[simp] theorem State.modDie_posts (i : Nat) (f : DieState → DieState) : (s.modDie i f).posts = s.posts := rfl
@[simp] theorem State.modDie_hostMem (i : Nat) (f : DieState → DieState) : (s.modDie i f).hostMem = s.hostMem := rfl
@[simp] theorem State.modDie_ports (i : Nat) (f : DieState → DieState) : (s.modDie i f).ports = s.ports := rfl
@[simp] theorem State.modDie_evicted (i : Nat) (f : DieState → DieState) : (s.modDie i f).evicted = s.evicted := rfl
@[simp] theorem State.modDie_attached (i : Nat) (f : DieState → DieState) : (s.modDie i f).attached = s.attached := rfl
@[simp] theorem State.modDie_brkGo (i : Nat) (f : DieState → DieState) : (s.modDie i f).brkGo = s.brkGo := rfl
@[simp] theorem State.modDie_brkCount (i : Nat) (f : DieState → DieState) : (s.modDie i f).brkCount = s.brkCount := rfl
@[simp] theorem State.modDie_appends (i : Nat) (f : DieState → DieState) : (s.modDie i f).appends = s.appends := rfl
@[simp] theorem State.modDie_handles (i : Nat) (f : DieState → DieState) : (s.modDie i f).handles = s.handles := rfl
@[simp] theorem State.modDie_peers (i : Nat) (f : DieState → DieState) : (s.modDie i f).peers = s.peers := rfl
@[simp] theorem State.modDie_agenda (i : Nat) (f : DieState → DieState) : (s.modDie i f).agenda = s.agenda := rfl
@[simp] theorem State.modDie_cur (i : Nat) (f : DieState → DieState) : (s.modDie i f).cur = s.cur := rfl
@[simp] theorem State.modDie_steps (i : Nat) (f : DieState → DieState) : (s.modDie i f).steps = s.steps := rfl
@[simp] theorem State.modDie_get_wave (i : Nat) (f : DieState → DieState) (j : Nat) : (s.modDie i f).wave j = s.wave j := rfl
@[simp] theorem State.modDie_get_block (i : Nat) (f : DieState → DieState) (j : Nat) : (s.modDie i f).block j = s.block j := rfl
@[simp] theorem State.modDie_get_launch (i : Nat) (f : DieState → DieState) (j : Nat) : (s.modDie i f).launch j = s.launch j := rfl
@[simp] theorem State.modDie_get_op (i : Nat) (f : DieState → DieState) (j : Nat) : (s.modDie i f).op j = s.op j := rfl
@[simp] theorem State.modDie_get_acc (i : Nat) (f : DieState → DieState) (j : Nat) : (s.modDie i f).acc j = s.acc j := rfl
@[simp] theorem State.modDie_get_tile (i : Nat) (f : DieState → DieState) (j : Nat) : (s.modDie i f).tile j = s.tile j := rfl
@[simp] theorem State.modDie_get_copy (i : Nat) (f : DieState → DieState) (j : Nat) : (s.modDie i f).copy j = s.copy j := rfl
@[simp] theorem State.modDie_get_kernel (i : Nat) (f : DieState → DieState) (j : Nat) : (s.modDie i f).kernel j = s.kernel j := rfl
@[simp] theorem State.modDie_get_vi (i : Nat) (f : DieState → DieState) (j : Nat) : (s.modDie i f).vi j = s.vi j := rfl
@[simp] theorem State.modDie_get_core (i : Nat) (f : DieState → DieState) (e b : Nat) : (s.modDie i f).core e b = s.core e b := rfl
@[simp] theorem State.modDie_get_cluster (i : Nat) (f : DieState → DieState) (j : Nat) : (s.modDie i f).cluster j = s.cluster j := rfl
@[simp] theorem State.modDie_get_proc (i : Nat) (f : DieState → DieState) (j : Nat) : (s.modDie i f).proc j = s.proc j := rfl
@[simp] theorem State.modDie_get_thread (i : Nat) (f : DieState → DieState) (j : Nat) : (s.modDie i f).thread j = s.thread j := rfl
@[simp] theorem State.modDie_get_tick (i : Nat) (f : DieState → DieState)  : (s.modDie i f).tick = s.tick := rfl
@[simp] theorem State.modDie_get_clk (i : Nat) (f : DieState → DieState) (j : Nat) : (s.modDie i f).clk j = s.clk j := rfl
@[simp] theorem State.modDie_get_part (i : Nat) (f : DieState → DieState) (q : PartRef) : (s.modDie i f).part q = s.part q := rfl

/-! ### `State.modCore` -/

@[simp] theorem State.modCore_waves (d c : Nat) (f : CoreState → CoreState) : (s.modCore d c f).waves = s.waves := rfl
@[simp] theorem State.modCore_blocks (d c : Nat) (f : CoreState → CoreState) : (s.modCore d c f).blocks = s.blocks := rfl
@[simp] theorem State.modCore_launches (d c : Nat) (f : CoreState → CoreState) : (s.modCore d c f).launches = s.launches := rfl
@[simp] theorem State.modCore_ops (d c : Nat) (f : CoreState → CoreState) : (s.modCore d c f).ops = s.ops := rfl
@[simp] theorem State.modCore_accs (d c : Nat) (f : CoreState → CoreState) : (s.modCore d c f).accs = s.accs := rfl
@[simp] theorem State.modCore_tiles (d c : Nat) (f : CoreState → CoreState) : (s.modCore d c f).tiles = s.tiles := rfl
@[simp] theorem State.modCore_copies (d c : Nat) (f : CoreState → CoreState) : (s.modCore d c f).copies = s.copies := rfl
@[simp] theorem State.modCore_kernels (d c : Nat) (f : CoreState → CoreState) : (s.modCore d c f).kernels = s.kernels := rfl
@[simp] theorem State.modCore_bundles (d c : Nat) (f : CoreState → CoreState) : (s.modCore d c f).bundles = s.bundles := rfl
@[simp] theorem State.modCore_vis (d c : Nat) (f : CoreState → CoreState) : (s.modCore d c f).vis = s.vis := rfl
@[simp] theorem State.modCore_procs (d c : Nat) (f : CoreState → CoreState) : (s.modCore d c f).procs = s.procs := rfl
@[simp] theorem State.modCore_threads (d c : Nat) (f : CoreState → CoreState) : (s.modCore d c f).threads = s.threads := rfl
@[simp] theorem State.modCore_sysCores (d c : Nat) (f : CoreState → CoreState) : (s.modCore d c f).sysCores = s.sysCores := rfl
@[simp] theorem State.modCore_dies (d c : Nat) (f : CoreState → CoreState) : (s.modCore d c f).dies = s.dies := rfl
@[simp] theorem State.modCore_clusters (d c : Nat) (f : CoreState → CoreState) : (s.modCore d c f).clusters = s.clusters := rfl
@[simp] theorem State.modCore_hbmStacks (d c : Nat) (f : CoreState → CoreState) : (s.modCore d c f).hbmStacks = s.hbmStacks := rfl
@[simp] theorem State.modCore_now (d c : Nat) (f : CoreState → CoreState) : (s.modCore d c f).now = s.now := rfl
@[simp] theorem State.modCore_moduleNo (d c : Nat) (f : CoreState → CoreState) : (s.modCore d c f).moduleNo = s.moduleNo := rfl
@[simp] theorem State.modCore_powerLost (d c : Nat) (f : CoreState → CoreState) : (s.modCore d c f).powerLost = s.powerLost := rfl
@[simp] theorem State.modCore_boot (d c : Nat) (f : CoreState → CoreState) : (s.modCore d c f).boot = s.boot := rfl
@[simp] theorem State.modCore_bootSlot (d c : Nat) (f : CoreState → CoreState) : (s.modCore d c f).bootSlot = s.bootSlot := rfl
@[simp] theorem State.modCore_slotSel (d c : Nat) (f : CoreState → CoreState) : (s.modCore d c f).slotSel = s.slotSel := rfl
@[simp] theorem State.modCore_flash (d c : Nat) (f : CoreState → CoreState) : (s.modCore d c f).flash = s.flash := rfl
@[simp] theorem State.modCore_rollbackMin (d c : Nat) (f : CoreState → CoreState) : (s.modCore d c f).rollbackMin = s.rollbackMin := rfl
@[simp] theorem State.modCore_leaf (d c : Nat) (f : CoreState → CoreState) : (s.modCore d c f).leaf = s.leaf := rfl
@[simp] theorem State.modCore_lease (d c : Nat) (f : CoreState → CoreState) : (s.modCore d c f).lease = s.lease := rfl
@[simp] theorem State.modCore_leaseBad (d c : Nat) (f : CoreState → CoreState) : (s.modCore d c f).leaseBad = s.leaseBad := rfl
@[simp] theorem State.modCore_waiters (d c : Nat) (f : CoreState → CoreState) : (s.modCore d c f).waiters = s.waiters := rfl
@[simp] theorem State.modCore_posts (d c : Nat) (f : CoreState → CoreState) : (s.modCore d c f).posts = s.posts := rfl
@[simp] theorem State.modCore_hostMem (d c : Nat) (f : CoreState → CoreState) : (s.modCore d c f).hostMem = s.hostMem := rfl
@[simp] theorem State.modCore_ports (d c : Nat) (f : CoreState → CoreState) : (s.modCore d c f).ports = s.ports := rfl
@[simp] theorem State.modCore_evicted (d c : Nat) (f : CoreState → CoreState) : (s.modCore d c f).evicted = s.evicted := rfl
@[simp] theorem State.modCore_attached (d c : Nat) (f : CoreState → CoreState) : (s.modCore d c f).attached = s.attached := rfl
@[simp] theorem State.modCore_brkGo (d c : Nat) (f : CoreState → CoreState) : (s.modCore d c f).brkGo = s.brkGo := rfl
@[simp] theorem State.modCore_brkCount (d c : Nat) (f : CoreState → CoreState) : (s.modCore d c f).brkCount = s.brkCount := rfl
@[simp] theorem State.modCore_appends (d c : Nat) (f : CoreState → CoreState) : (s.modCore d c f).appends = s.appends := rfl
@[simp] theorem State.modCore_handles (d c : Nat) (f : CoreState → CoreState) : (s.modCore d c f).handles = s.handles := rfl
@[simp] theorem State.modCore_peers (d c : Nat) (f : CoreState → CoreState) : (s.modCore d c f).peers = s.peers := rfl
@[simp] theorem State.modCore_agenda (d c : Nat) (f : CoreState → CoreState) : (s.modCore d c f).agenda = s.agenda := rfl
@[simp] theorem State.modCore_cur (d c : Nat) (f : CoreState → CoreState) : (s.modCore d c f).cur = s.cur := rfl
@[simp] theorem State.modCore_steps (d c : Nat) (f : CoreState → CoreState) : (s.modCore d c f).steps = s.steps := rfl
@[simp] theorem State.modCore_get_wave (d c : Nat) (f : CoreState → CoreState) (j : Nat) : (s.modCore d c f).wave j = s.wave j := rfl
@[simp] theorem State.modCore_get_block (d c : Nat) (f : CoreState → CoreState) (j : Nat) : (s.modCore d c f).block j = s.block j := rfl
@[simp] theorem State.modCore_get_launch (d c : Nat) (f : CoreState → CoreState) (j : Nat) : (s.modCore d c f).launch j = s.launch j := rfl
@[simp] theorem State.modCore_get_op (d c : Nat) (f : CoreState → CoreState) (j : Nat) : (s.modCore d c f).op j = s.op j := rfl
@[simp] theorem State.modCore_get_acc (d c : Nat) (f : CoreState → CoreState) (j : Nat) : (s.modCore d c f).acc j = s.acc j := rfl
@[simp] theorem State.modCore_get_tile (d c : Nat) (f : CoreState → CoreState) (j : Nat) : (s.modCore d c f).tile j = s.tile j := rfl
@[simp] theorem State.modCore_get_copy (d c : Nat) (f : CoreState → CoreState) (j : Nat) : (s.modCore d c f).copy j = s.copy j := rfl
@[simp] theorem State.modCore_get_kernel (d c : Nat) (f : CoreState → CoreState) (j : Nat) : (s.modCore d c f).kernel j = s.kernel j := rfl
@[simp] theorem State.modCore_get_vi (d c : Nat) (f : CoreState → CoreState) (j : Nat) : (s.modCore d c f).vi j = s.vi j := rfl
@[simp] theorem State.modCore_get_die (d c : Nat) (f : CoreState → CoreState) (j : Nat) : (s.modCore d c f).die j = s.die j := rfl
@[simp] theorem State.modCore_get_cluster (d c : Nat) (f : CoreState → CoreState) (j : Nat) : (s.modCore d c f).cluster j = s.cluster j := rfl
@[simp] theorem State.modCore_get_proc (d c : Nat) (f : CoreState → CoreState) (j : Nat) : (s.modCore d c f).proc j = s.proc j := rfl
@[simp] theorem State.modCore_get_thread (d c : Nat) (f : CoreState → CoreState) (j : Nat) : (s.modCore d c f).thread j = s.thread j := rfl
@[simp] theorem State.modCore_get_tick (d c : Nat) (f : CoreState → CoreState)  : (s.modCore d c f).tick = s.tick := rfl
@[simp] theorem State.modCore_get_clk (d c : Nat) (f : CoreState → CoreState) (j : Nat) : (s.modCore d c f).clk j = s.clk j := rfl

/-! ### `State.modCluster` -/

@[simp] theorem State.modCluster_waves (i : Nat) (f : ClusterState → ClusterState) : (s.modCluster i f).waves = s.waves := rfl
@[simp] theorem State.modCluster_blocks (i : Nat) (f : ClusterState → ClusterState) : (s.modCluster i f).blocks = s.blocks := rfl
@[simp] theorem State.modCluster_launches (i : Nat) (f : ClusterState → ClusterState) : (s.modCluster i f).launches = s.launches := rfl
@[simp] theorem State.modCluster_ops (i : Nat) (f : ClusterState → ClusterState) : (s.modCluster i f).ops = s.ops := rfl
@[simp] theorem State.modCluster_accs (i : Nat) (f : ClusterState → ClusterState) : (s.modCluster i f).accs = s.accs := rfl
@[simp] theorem State.modCluster_tiles (i : Nat) (f : ClusterState → ClusterState) : (s.modCluster i f).tiles = s.tiles := rfl
@[simp] theorem State.modCluster_copies (i : Nat) (f : ClusterState → ClusterState) : (s.modCluster i f).copies = s.copies := rfl
@[simp] theorem State.modCluster_kernels (i : Nat) (f : ClusterState → ClusterState) : (s.modCluster i f).kernels = s.kernels := rfl
@[simp] theorem State.modCluster_bundles (i : Nat) (f : ClusterState → ClusterState) : (s.modCluster i f).bundles = s.bundles := rfl
@[simp] theorem State.modCluster_vis (i : Nat) (f : ClusterState → ClusterState) : (s.modCluster i f).vis = s.vis := rfl
@[simp] theorem State.modCluster_procs (i : Nat) (f : ClusterState → ClusterState) : (s.modCluster i f).procs = s.procs := rfl
@[simp] theorem State.modCluster_threads (i : Nat) (f : ClusterState → ClusterState) : (s.modCluster i f).threads = s.threads := rfl
@[simp] theorem State.modCluster_sysCores (i : Nat) (f : ClusterState → ClusterState) : (s.modCluster i f).sysCores = s.sysCores := rfl
@[simp] theorem State.modCluster_dies (i : Nat) (f : ClusterState → ClusterState) : (s.modCluster i f).dies = s.dies := rfl
@[simp] theorem State.modCluster_cores (i : Nat) (f : ClusterState → ClusterState) : (s.modCluster i f).cores = s.cores := rfl
@[simp] theorem State.modCluster_hbmStacks (i : Nat) (f : ClusterState → ClusterState) : (s.modCluster i f).hbmStacks = s.hbmStacks := rfl
@[simp] theorem State.modCluster_now (i : Nat) (f : ClusterState → ClusterState) : (s.modCluster i f).now = s.now := rfl
@[simp] theorem State.modCluster_moduleNo (i : Nat) (f : ClusterState → ClusterState) : (s.modCluster i f).moduleNo = s.moduleNo := rfl
@[simp] theorem State.modCluster_powerLost (i : Nat) (f : ClusterState → ClusterState) : (s.modCluster i f).powerLost = s.powerLost := rfl
@[simp] theorem State.modCluster_boot (i : Nat) (f : ClusterState → ClusterState) : (s.modCluster i f).boot = s.boot := rfl
@[simp] theorem State.modCluster_bootSlot (i : Nat) (f : ClusterState → ClusterState) : (s.modCluster i f).bootSlot = s.bootSlot := rfl
@[simp] theorem State.modCluster_slotSel (i : Nat) (f : ClusterState → ClusterState) : (s.modCluster i f).slotSel = s.slotSel := rfl
@[simp] theorem State.modCluster_flash (i : Nat) (f : ClusterState → ClusterState) : (s.modCluster i f).flash = s.flash := rfl
@[simp] theorem State.modCluster_rollbackMin (i : Nat) (f : ClusterState → ClusterState) : (s.modCluster i f).rollbackMin = s.rollbackMin := rfl
@[simp] theorem State.modCluster_leaf (i : Nat) (f : ClusterState → ClusterState) : (s.modCluster i f).leaf = s.leaf := rfl
@[simp] theorem State.modCluster_lease (i : Nat) (f : ClusterState → ClusterState) : (s.modCluster i f).lease = s.lease := rfl
@[simp] theorem State.modCluster_leaseBad (i : Nat) (f : ClusterState → ClusterState) : (s.modCluster i f).leaseBad = s.leaseBad := rfl
@[simp] theorem State.modCluster_waiters (i : Nat) (f : ClusterState → ClusterState) : (s.modCluster i f).waiters = s.waiters := rfl
@[simp] theorem State.modCluster_posts (i : Nat) (f : ClusterState → ClusterState) : (s.modCluster i f).posts = s.posts := rfl
@[simp] theorem State.modCluster_hostMem (i : Nat) (f : ClusterState → ClusterState) : (s.modCluster i f).hostMem = s.hostMem := rfl
@[simp] theorem State.modCluster_ports (i : Nat) (f : ClusterState → ClusterState) : (s.modCluster i f).ports = s.ports := rfl
@[simp] theorem State.modCluster_evicted (i : Nat) (f : ClusterState → ClusterState) : (s.modCluster i f).evicted = s.evicted := rfl
@[simp] theorem State.modCluster_attached (i : Nat) (f : ClusterState → ClusterState) : (s.modCluster i f).attached = s.attached := rfl
@[simp] theorem State.modCluster_brkGo (i : Nat) (f : ClusterState → ClusterState) : (s.modCluster i f).brkGo = s.brkGo := rfl
@[simp] theorem State.modCluster_brkCount (i : Nat) (f : ClusterState → ClusterState) : (s.modCluster i f).brkCount = s.brkCount := rfl
@[simp] theorem State.modCluster_appends (i : Nat) (f : ClusterState → ClusterState) : (s.modCluster i f).appends = s.appends := rfl
@[simp] theorem State.modCluster_handles (i : Nat) (f : ClusterState → ClusterState) : (s.modCluster i f).handles = s.handles := rfl
@[simp] theorem State.modCluster_peers (i : Nat) (f : ClusterState → ClusterState) : (s.modCluster i f).peers = s.peers := rfl
@[simp] theorem State.modCluster_agenda (i : Nat) (f : ClusterState → ClusterState) : (s.modCluster i f).agenda = s.agenda := rfl
@[simp] theorem State.modCluster_cur (i : Nat) (f : ClusterState → ClusterState) : (s.modCluster i f).cur = s.cur := rfl
@[simp] theorem State.modCluster_steps (i : Nat) (f : ClusterState → ClusterState) : (s.modCluster i f).steps = s.steps := rfl
@[simp] theorem State.modCluster_get_wave (i : Nat) (f : ClusterState → ClusterState) (j : Nat) : (s.modCluster i f).wave j = s.wave j := rfl
@[simp] theorem State.modCluster_get_block (i : Nat) (f : ClusterState → ClusterState) (j : Nat) : (s.modCluster i f).block j = s.block j := rfl
@[simp] theorem State.modCluster_get_launch (i : Nat) (f : ClusterState → ClusterState) (j : Nat) : (s.modCluster i f).launch j = s.launch j := rfl
@[simp] theorem State.modCluster_get_op (i : Nat) (f : ClusterState → ClusterState) (j : Nat) : (s.modCluster i f).op j = s.op j := rfl
@[simp] theorem State.modCluster_get_acc (i : Nat) (f : ClusterState → ClusterState) (j : Nat) : (s.modCluster i f).acc j = s.acc j := rfl
@[simp] theorem State.modCluster_get_tile (i : Nat) (f : ClusterState → ClusterState) (j : Nat) : (s.modCluster i f).tile j = s.tile j := rfl
@[simp] theorem State.modCluster_get_copy (i : Nat) (f : ClusterState → ClusterState) (j : Nat) : (s.modCluster i f).copy j = s.copy j := rfl
@[simp] theorem State.modCluster_get_kernel (i : Nat) (f : ClusterState → ClusterState) (j : Nat) : (s.modCluster i f).kernel j = s.kernel j := rfl
@[simp] theorem State.modCluster_get_vi (i : Nat) (f : ClusterState → ClusterState) (j : Nat) : (s.modCluster i f).vi j = s.vi j := rfl
@[simp] theorem State.modCluster_get_die (i : Nat) (f : ClusterState → ClusterState) (j : Nat) : (s.modCluster i f).die j = s.die j := rfl
@[simp] theorem State.modCluster_get_core (i : Nat) (f : ClusterState → ClusterState) (e b : Nat) : (s.modCluster i f).core e b = s.core e b := rfl
@[simp] theorem State.modCluster_get_proc (i : Nat) (f : ClusterState → ClusterState) (j : Nat) : (s.modCluster i f).proc j = s.proc j := rfl
@[simp] theorem State.modCluster_get_thread (i : Nat) (f : ClusterState → ClusterState) (j : Nat) : (s.modCluster i f).thread j = s.thread j := rfl
@[simp] theorem State.modCluster_get_tick (i : Nat) (f : ClusterState → ClusterState)  : (s.modCluster i f).tick = s.tick := rfl
@[simp] theorem State.modCluster_get_part (i : Nat) (f : ClusterState → ClusterState) (q : PartRef) : (s.modCluster i f).part q = s.part q := rfl

/-! ### `State.modPart` -/

@[simp] theorem State.modPart_waves (p : PartRef) (f : PartState → PartState) : (s.modPart p f).waves = s.waves := rfl
@[simp] theorem State.modPart_blocks (p : PartRef) (f : PartState → PartState) : (s.modPart p f).blocks = s.blocks := rfl
@[simp] theorem State.modPart_launches (p : PartRef) (f : PartState → PartState) : (s.modPart p f).launches = s.launches := rfl
@[simp] theorem State.modPart_ops (p : PartRef) (f : PartState → PartState) : (s.modPart p f).ops = s.ops := rfl
@[simp] theorem State.modPart_accs (p : PartRef) (f : PartState → PartState) : (s.modPart p f).accs = s.accs := rfl
@[simp] theorem State.modPart_tiles (p : PartRef) (f : PartState → PartState) : (s.modPart p f).tiles = s.tiles := rfl
@[simp] theorem State.modPart_copies (p : PartRef) (f : PartState → PartState) : (s.modPart p f).copies = s.copies := rfl
@[simp] theorem State.modPart_kernels (p : PartRef) (f : PartState → PartState) : (s.modPart p f).kernels = s.kernels := rfl
@[simp] theorem State.modPart_bundles (p : PartRef) (f : PartState → PartState) : (s.modPart p f).bundles = s.bundles := rfl
@[simp] theorem State.modPart_vis (p : PartRef) (f : PartState → PartState) : (s.modPart p f).vis = s.vis := rfl
@[simp] theorem State.modPart_procs (p : PartRef) (f : PartState → PartState) : (s.modPart p f).procs = s.procs := rfl
@[simp] theorem State.modPart_threads (p : PartRef) (f : PartState → PartState) : (s.modPart p f).threads = s.threads := rfl
@[simp] theorem State.modPart_sysCores (p : PartRef) (f : PartState → PartState) : (s.modPart p f).sysCores = s.sysCores := rfl
@[simp] theorem State.modPart_dies (p : PartRef) (f : PartState → PartState) : (s.modPart p f).dies = s.dies := rfl
@[simp] theorem State.modPart_clusters (p : PartRef) (f : PartState → PartState) : (s.modPart p f).clusters = s.clusters := rfl
@[simp] theorem State.modPart_hbmStacks (p : PartRef) (f : PartState → PartState) : (s.modPart p f).hbmStacks = s.hbmStacks := rfl
@[simp] theorem State.modPart_now (p : PartRef) (f : PartState → PartState) : (s.modPart p f).now = s.now := rfl
@[simp] theorem State.modPart_moduleNo (p : PartRef) (f : PartState → PartState) : (s.modPart p f).moduleNo = s.moduleNo := rfl
@[simp] theorem State.modPart_powerLost (p : PartRef) (f : PartState → PartState) : (s.modPart p f).powerLost = s.powerLost := rfl
@[simp] theorem State.modPart_boot (p : PartRef) (f : PartState → PartState) : (s.modPart p f).boot = s.boot := rfl
@[simp] theorem State.modPart_bootSlot (p : PartRef) (f : PartState → PartState) : (s.modPart p f).bootSlot = s.bootSlot := rfl
@[simp] theorem State.modPart_slotSel (p : PartRef) (f : PartState → PartState) : (s.modPart p f).slotSel = s.slotSel := rfl
@[simp] theorem State.modPart_flash (p : PartRef) (f : PartState → PartState) : (s.modPart p f).flash = s.flash := rfl
@[simp] theorem State.modPart_rollbackMin (p : PartRef) (f : PartState → PartState) : (s.modPart p f).rollbackMin = s.rollbackMin := rfl
@[simp] theorem State.modPart_leaf (p : PartRef) (f : PartState → PartState) : (s.modPart p f).leaf = s.leaf := rfl
@[simp] theorem State.modPart_lease (p : PartRef) (f : PartState → PartState) : (s.modPart p f).lease = s.lease := rfl
@[simp] theorem State.modPart_leaseBad (p : PartRef) (f : PartState → PartState) : (s.modPart p f).leaseBad = s.leaseBad := rfl
@[simp] theorem State.modPart_waiters (p : PartRef) (f : PartState → PartState) : (s.modPart p f).waiters = s.waiters := rfl
@[simp] theorem State.modPart_posts (p : PartRef) (f : PartState → PartState) : (s.modPart p f).posts = s.posts := rfl
@[simp] theorem State.modPart_hostMem (p : PartRef) (f : PartState → PartState) : (s.modPart p f).hostMem = s.hostMem := rfl
@[simp] theorem State.modPart_ports (p : PartRef) (f : PartState → PartState) : (s.modPart p f).ports = s.ports := rfl
@[simp] theorem State.modPart_evicted (p : PartRef) (f : PartState → PartState) : (s.modPart p f).evicted = s.evicted := rfl
@[simp] theorem State.modPart_attached (p : PartRef) (f : PartState → PartState) : (s.modPart p f).attached = s.attached := rfl
@[simp] theorem State.modPart_brkGo (p : PartRef) (f : PartState → PartState) : (s.modPart p f).brkGo = s.brkGo := rfl
@[simp] theorem State.modPart_brkCount (p : PartRef) (f : PartState → PartState) : (s.modPart p f).brkCount = s.brkCount := rfl
@[simp] theorem State.modPart_appends (p : PartRef) (f : PartState → PartState) : (s.modPart p f).appends = s.appends := rfl
@[simp] theorem State.modPart_handles (p : PartRef) (f : PartState → PartState) : (s.modPart p f).handles = s.handles := rfl
@[simp] theorem State.modPart_peers (p : PartRef) (f : PartState → PartState) : (s.modPart p f).peers = s.peers := rfl
@[simp] theorem State.modPart_agenda (p : PartRef) (f : PartState → PartState) : (s.modPart p f).agenda = s.agenda := rfl
@[simp] theorem State.modPart_cur (p : PartRef) (f : PartState → PartState) : (s.modPart p f).cur = s.cur := rfl
@[simp] theorem State.modPart_steps (p : PartRef) (f : PartState → PartState) : (s.modPart p f).steps = s.steps := rfl
@[simp] theorem State.modPart_get_wave (p : PartRef) (f : PartState → PartState) (j : Nat) : (s.modPart p f).wave j = s.wave j := rfl
@[simp] theorem State.modPart_get_block (p : PartRef) (f : PartState → PartState) (j : Nat) : (s.modPart p f).block j = s.block j := rfl
@[simp] theorem State.modPart_get_launch (p : PartRef) (f : PartState → PartState) (j : Nat) : (s.modPart p f).launch j = s.launch j := rfl
@[simp] theorem State.modPart_get_op (p : PartRef) (f : PartState → PartState) (j : Nat) : (s.modPart p f).op j = s.op j := rfl
@[simp] theorem State.modPart_get_acc (p : PartRef) (f : PartState → PartState) (j : Nat) : (s.modPart p f).acc j = s.acc j := rfl
@[simp] theorem State.modPart_get_tile (p : PartRef) (f : PartState → PartState) (j : Nat) : (s.modPart p f).tile j = s.tile j := rfl
@[simp] theorem State.modPart_get_copy (p : PartRef) (f : PartState → PartState) (j : Nat) : (s.modPart p f).copy j = s.copy j := rfl
@[simp] theorem State.modPart_get_kernel (p : PartRef) (f : PartState → PartState) (j : Nat) : (s.modPart p f).kernel j = s.kernel j := rfl
@[simp] theorem State.modPart_get_vi (p : PartRef) (f : PartState → PartState) (j : Nat) : (s.modPart p f).vi j = s.vi j := rfl
@[simp] theorem State.modPart_get_die (p : PartRef) (f : PartState → PartState) (j : Nat) : (s.modPart p f).die j = s.die j := rfl
@[simp] theorem State.modPart_get_cluster (p : PartRef) (f : PartState → PartState) (j : Nat) : (s.modPart p f).cluster j = s.cluster j := rfl
@[simp] theorem State.modPart_get_proc (p : PartRef) (f : PartState → PartState) (j : Nat) : (s.modPart p f).proc j = s.proc j := rfl
@[simp] theorem State.modPart_get_thread (p : PartRef) (f : PartState → PartState) (j : Nat) : (s.modPart p f).thread j = s.thread j := rfl
@[simp] theorem State.modPart_get_tick (p : PartRef) (f : PartState → PartState)  : (s.modPart p f).tick = s.tick := rfl
@[simp] theorem State.modPart_get_clk (p : PartRef) (f : PartState → PartState) (j : Nat) : (s.modPart p f).clk j = s.clk j := rfl

/-! ### `State.modProc` -/

@[simp] theorem State.modProc_waves (i : Nat) (f : Process → Process) : (s.modProc i f).waves = s.waves := rfl
@[simp] theorem State.modProc_blocks (i : Nat) (f : Process → Process) : (s.modProc i f).blocks = s.blocks := rfl
@[simp] theorem State.modProc_launches (i : Nat) (f : Process → Process) : (s.modProc i f).launches = s.launches := rfl
@[simp] theorem State.modProc_ops (i : Nat) (f : Process → Process) : (s.modProc i f).ops = s.ops := rfl
@[simp] theorem State.modProc_accs (i : Nat) (f : Process → Process) : (s.modProc i f).accs = s.accs := rfl
@[simp] theorem State.modProc_tiles (i : Nat) (f : Process → Process) : (s.modProc i f).tiles = s.tiles := rfl
@[simp] theorem State.modProc_copies (i : Nat) (f : Process → Process) : (s.modProc i f).copies = s.copies := rfl
@[simp] theorem State.modProc_kernels (i : Nat) (f : Process → Process) : (s.modProc i f).kernels = s.kernels := rfl
@[simp] theorem State.modProc_bundles (i : Nat) (f : Process → Process) : (s.modProc i f).bundles = s.bundles := rfl
@[simp] theorem State.modProc_vis (i : Nat) (f : Process → Process) : (s.modProc i f).vis = s.vis := rfl
@[simp] theorem State.modProc_threads (i : Nat) (f : Process → Process) : (s.modProc i f).threads = s.threads := rfl
@[simp] theorem State.modProc_sysCores (i : Nat) (f : Process → Process) : (s.modProc i f).sysCores = s.sysCores := rfl
@[simp] theorem State.modProc_dies (i : Nat) (f : Process → Process) : (s.modProc i f).dies = s.dies := rfl
@[simp] theorem State.modProc_cores (i : Nat) (f : Process → Process) : (s.modProc i f).cores = s.cores := rfl
@[simp] theorem State.modProc_clusters (i : Nat) (f : Process → Process) : (s.modProc i f).clusters = s.clusters := rfl
@[simp] theorem State.modProc_hbmStacks (i : Nat) (f : Process → Process) : (s.modProc i f).hbmStacks = s.hbmStacks := rfl
@[simp] theorem State.modProc_now (i : Nat) (f : Process → Process) : (s.modProc i f).now = s.now := rfl
@[simp] theorem State.modProc_moduleNo (i : Nat) (f : Process → Process) : (s.modProc i f).moduleNo = s.moduleNo := rfl
@[simp] theorem State.modProc_powerLost (i : Nat) (f : Process → Process) : (s.modProc i f).powerLost = s.powerLost := rfl
@[simp] theorem State.modProc_boot (i : Nat) (f : Process → Process) : (s.modProc i f).boot = s.boot := rfl
@[simp] theorem State.modProc_bootSlot (i : Nat) (f : Process → Process) : (s.modProc i f).bootSlot = s.bootSlot := rfl
@[simp] theorem State.modProc_slotSel (i : Nat) (f : Process → Process) : (s.modProc i f).slotSel = s.slotSel := rfl
@[simp] theorem State.modProc_flash (i : Nat) (f : Process → Process) : (s.modProc i f).flash = s.flash := rfl
@[simp] theorem State.modProc_rollbackMin (i : Nat) (f : Process → Process) : (s.modProc i f).rollbackMin = s.rollbackMin := rfl
@[simp] theorem State.modProc_leaf (i : Nat) (f : Process → Process) : (s.modProc i f).leaf = s.leaf := rfl
@[simp] theorem State.modProc_lease (i : Nat) (f : Process → Process) : (s.modProc i f).lease = s.lease := rfl
@[simp] theorem State.modProc_leaseBad (i : Nat) (f : Process → Process) : (s.modProc i f).leaseBad = s.leaseBad := rfl
@[simp] theorem State.modProc_waiters (i : Nat) (f : Process → Process) : (s.modProc i f).waiters = s.waiters := rfl
@[simp] theorem State.modProc_posts (i : Nat) (f : Process → Process) : (s.modProc i f).posts = s.posts := rfl
@[simp] theorem State.modProc_hostMem (i : Nat) (f : Process → Process) : (s.modProc i f).hostMem = s.hostMem := rfl
@[simp] theorem State.modProc_ports (i : Nat) (f : Process → Process) : (s.modProc i f).ports = s.ports := rfl
@[simp] theorem State.modProc_evicted (i : Nat) (f : Process → Process) : (s.modProc i f).evicted = s.evicted := rfl
@[simp] theorem State.modProc_attached (i : Nat) (f : Process → Process) : (s.modProc i f).attached = s.attached := rfl
@[simp] theorem State.modProc_brkGo (i : Nat) (f : Process → Process) : (s.modProc i f).brkGo = s.brkGo := rfl
@[simp] theorem State.modProc_brkCount (i : Nat) (f : Process → Process) : (s.modProc i f).brkCount = s.brkCount := rfl
@[simp] theorem State.modProc_appends (i : Nat) (f : Process → Process) : (s.modProc i f).appends = s.appends := rfl
@[simp] theorem State.modProc_handles (i : Nat) (f : Process → Process) : (s.modProc i f).handles = s.handles := rfl
@[simp] theorem State.modProc_peers (i : Nat) (f : Process → Process) : (s.modProc i f).peers = s.peers := rfl
@[simp] theorem State.modProc_agenda (i : Nat) (f : Process → Process) : (s.modProc i f).agenda = s.agenda := rfl
@[simp] theorem State.modProc_cur (i : Nat) (f : Process → Process) : (s.modProc i f).cur = s.cur := rfl
@[simp] theorem State.modProc_steps (i : Nat) (f : Process → Process) : (s.modProc i f).steps = s.steps := rfl
@[simp] theorem State.modProc_get_wave (i : Nat) (f : Process → Process) (j : Nat) : (s.modProc i f).wave j = s.wave j := rfl
@[simp] theorem State.modProc_get_block (i : Nat) (f : Process → Process) (j : Nat) : (s.modProc i f).block j = s.block j := rfl
@[simp] theorem State.modProc_get_launch (i : Nat) (f : Process → Process) (j : Nat) : (s.modProc i f).launch j = s.launch j := rfl
@[simp] theorem State.modProc_get_op (i : Nat) (f : Process → Process) (j : Nat) : (s.modProc i f).op j = s.op j := rfl
@[simp] theorem State.modProc_get_acc (i : Nat) (f : Process → Process) (j : Nat) : (s.modProc i f).acc j = s.acc j := rfl
@[simp] theorem State.modProc_get_tile (i : Nat) (f : Process → Process) (j : Nat) : (s.modProc i f).tile j = s.tile j := rfl
@[simp] theorem State.modProc_get_copy (i : Nat) (f : Process → Process) (j : Nat) : (s.modProc i f).copy j = s.copy j := rfl
@[simp] theorem State.modProc_get_kernel (i : Nat) (f : Process → Process) (j : Nat) : (s.modProc i f).kernel j = s.kernel j := rfl
@[simp] theorem State.modProc_get_vi (i : Nat) (f : Process → Process) (j : Nat) : (s.modProc i f).vi j = s.vi j := rfl
@[simp] theorem State.modProc_get_die (i : Nat) (f : Process → Process) (j : Nat) : (s.modProc i f).die j = s.die j := rfl
@[simp] theorem State.modProc_get_core (i : Nat) (f : Process → Process) (e b : Nat) : (s.modProc i f).core e b = s.core e b := rfl
@[simp] theorem State.modProc_get_cluster (i : Nat) (f : Process → Process) (j : Nat) : (s.modProc i f).cluster j = s.cluster j := rfl
@[simp] theorem State.modProc_get_thread (i : Nat) (f : Process → Process) (j : Nat) : (s.modProc i f).thread j = s.thread j := rfl
@[simp] theorem State.modProc_get_tick (i : Nat) (f : Process → Process)  : (s.modProc i f).tick = s.tick := rfl
@[simp] theorem State.modProc_get_clk (i : Nat) (f : Process → Process) (j : Nat) : (s.modProc i f).clk j = s.clk j := rfl
@[simp] theorem State.modProc_get_part (i : Nat) (f : Process → Process) (q : PartRef) : (s.modProc i f).part q = s.part q := rfl

/-! ### `State.modThread` -/

@[simp] theorem State.modThread_waves (i : Nat) (f : SysThread → SysThread) : (s.modThread i f).waves = s.waves := rfl
@[simp] theorem State.modThread_blocks (i : Nat) (f : SysThread → SysThread) : (s.modThread i f).blocks = s.blocks := rfl
@[simp] theorem State.modThread_launches (i : Nat) (f : SysThread → SysThread) : (s.modThread i f).launches = s.launches := rfl
@[simp] theorem State.modThread_ops (i : Nat) (f : SysThread → SysThread) : (s.modThread i f).ops = s.ops := rfl
@[simp] theorem State.modThread_accs (i : Nat) (f : SysThread → SysThread) : (s.modThread i f).accs = s.accs := rfl
@[simp] theorem State.modThread_tiles (i : Nat) (f : SysThread → SysThread) : (s.modThread i f).tiles = s.tiles := rfl
@[simp] theorem State.modThread_copies (i : Nat) (f : SysThread → SysThread) : (s.modThread i f).copies = s.copies := rfl
@[simp] theorem State.modThread_kernels (i : Nat) (f : SysThread → SysThread) : (s.modThread i f).kernels = s.kernels := rfl
@[simp] theorem State.modThread_bundles (i : Nat) (f : SysThread → SysThread) : (s.modThread i f).bundles = s.bundles := rfl
@[simp] theorem State.modThread_vis (i : Nat) (f : SysThread → SysThread) : (s.modThread i f).vis = s.vis := rfl
@[simp] theorem State.modThread_procs (i : Nat) (f : SysThread → SysThread) : (s.modThread i f).procs = s.procs := rfl
@[simp] theorem State.modThread_sysCores (i : Nat) (f : SysThread → SysThread) : (s.modThread i f).sysCores = s.sysCores := rfl
@[simp] theorem State.modThread_dies (i : Nat) (f : SysThread → SysThread) : (s.modThread i f).dies = s.dies := rfl
@[simp] theorem State.modThread_cores (i : Nat) (f : SysThread → SysThread) : (s.modThread i f).cores = s.cores := rfl
@[simp] theorem State.modThread_clusters (i : Nat) (f : SysThread → SysThread) : (s.modThread i f).clusters = s.clusters := rfl
@[simp] theorem State.modThread_hbmStacks (i : Nat) (f : SysThread → SysThread) : (s.modThread i f).hbmStacks = s.hbmStacks := rfl
@[simp] theorem State.modThread_now (i : Nat) (f : SysThread → SysThread) : (s.modThread i f).now = s.now := rfl
@[simp] theorem State.modThread_moduleNo (i : Nat) (f : SysThread → SysThread) : (s.modThread i f).moduleNo = s.moduleNo := rfl
@[simp] theorem State.modThread_powerLost (i : Nat) (f : SysThread → SysThread) : (s.modThread i f).powerLost = s.powerLost := rfl
@[simp] theorem State.modThread_boot (i : Nat) (f : SysThread → SysThread) : (s.modThread i f).boot = s.boot := rfl
@[simp] theorem State.modThread_bootSlot (i : Nat) (f : SysThread → SysThread) : (s.modThread i f).bootSlot = s.bootSlot := rfl
@[simp] theorem State.modThread_slotSel (i : Nat) (f : SysThread → SysThread) : (s.modThread i f).slotSel = s.slotSel := rfl
@[simp] theorem State.modThread_flash (i : Nat) (f : SysThread → SysThread) : (s.modThread i f).flash = s.flash := rfl
@[simp] theorem State.modThread_rollbackMin (i : Nat) (f : SysThread → SysThread) : (s.modThread i f).rollbackMin = s.rollbackMin := rfl
@[simp] theorem State.modThread_leaf (i : Nat) (f : SysThread → SysThread) : (s.modThread i f).leaf = s.leaf := rfl
@[simp] theorem State.modThread_lease (i : Nat) (f : SysThread → SysThread) : (s.modThread i f).lease = s.lease := rfl
@[simp] theorem State.modThread_leaseBad (i : Nat) (f : SysThread → SysThread) : (s.modThread i f).leaseBad = s.leaseBad := rfl
@[simp] theorem State.modThread_waiters (i : Nat) (f : SysThread → SysThread) : (s.modThread i f).waiters = s.waiters := rfl
@[simp] theorem State.modThread_posts (i : Nat) (f : SysThread → SysThread) : (s.modThread i f).posts = s.posts := rfl
@[simp] theorem State.modThread_hostMem (i : Nat) (f : SysThread → SysThread) : (s.modThread i f).hostMem = s.hostMem := rfl
@[simp] theorem State.modThread_ports (i : Nat) (f : SysThread → SysThread) : (s.modThread i f).ports = s.ports := rfl
@[simp] theorem State.modThread_evicted (i : Nat) (f : SysThread → SysThread) : (s.modThread i f).evicted = s.evicted := rfl
@[simp] theorem State.modThread_attached (i : Nat) (f : SysThread → SysThread) : (s.modThread i f).attached = s.attached := rfl
@[simp] theorem State.modThread_brkGo (i : Nat) (f : SysThread → SysThread) : (s.modThread i f).brkGo = s.brkGo := rfl
@[simp] theorem State.modThread_brkCount (i : Nat) (f : SysThread → SysThread) : (s.modThread i f).brkCount = s.brkCount := rfl
@[simp] theorem State.modThread_appends (i : Nat) (f : SysThread → SysThread) : (s.modThread i f).appends = s.appends := rfl
@[simp] theorem State.modThread_handles (i : Nat) (f : SysThread → SysThread) : (s.modThread i f).handles = s.handles := rfl
@[simp] theorem State.modThread_peers (i : Nat) (f : SysThread → SysThread) : (s.modThread i f).peers = s.peers := rfl
@[simp] theorem State.modThread_agenda (i : Nat) (f : SysThread → SysThread) : (s.modThread i f).agenda = s.agenda := rfl
@[simp] theorem State.modThread_cur (i : Nat) (f : SysThread → SysThread) : (s.modThread i f).cur = s.cur := rfl
@[simp] theorem State.modThread_steps (i : Nat) (f : SysThread → SysThread) : (s.modThread i f).steps = s.steps := rfl
@[simp] theorem State.modThread_get_wave (i : Nat) (f : SysThread → SysThread) (j : Nat) : (s.modThread i f).wave j = s.wave j := rfl
@[simp] theorem State.modThread_get_block (i : Nat) (f : SysThread → SysThread) (j : Nat) : (s.modThread i f).block j = s.block j := rfl
@[simp] theorem State.modThread_get_launch (i : Nat) (f : SysThread → SysThread) (j : Nat) : (s.modThread i f).launch j = s.launch j := rfl
@[simp] theorem State.modThread_get_op (i : Nat) (f : SysThread → SysThread) (j : Nat) : (s.modThread i f).op j = s.op j := rfl
@[simp] theorem State.modThread_get_acc (i : Nat) (f : SysThread → SysThread) (j : Nat) : (s.modThread i f).acc j = s.acc j := rfl
@[simp] theorem State.modThread_get_tile (i : Nat) (f : SysThread → SysThread) (j : Nat) : (s.modThread i f).tile j = s.tile j := rfl
@[simp] theorem State.modThread_get_copy (i : Nat) (f : SysThread → SysThread) (j : Nat) : (s.modThread i f).copy j = s.copy j := rfl
@[simp] theorem State.modThread_get_kernel (i : Nat) (f : SysThread → SysThread) (j : Nat) : (s.modThread i f).kernel j = s.kernel j := rfl
@[simp] theorem State.modThread_get_vi (i : Nat) (f : SysThread → SysThread) (j : Nat) : (s.modThread i f).vi j = s.vi j := rfl
@[simp] theorem State.modThread_get_die (i : Nat) (f : SysThread → SysThread) (j : Nat) : (s.modThread i f).die j = s.die j := rfl
@[simp] theorem State.modThread_get_core (i : Nat) (f : SysThread → SysThread) (e b : Nat) : (s.modThread i f).core e b = s.core e b := rfl
@[simp] theorem State.modThread_get_cluster (i : Nat) (f : SysThread → SysThread) (j : Nat) : (s.modThread i f).cluster j = s.cluster j := rfl
@[simp] theorem State.modThread_get_proc (i : Nat) (f : SysThread → SysThread) (j : Nat) : (s.modThread i f).proc j = s.proc j := rfl
@[simp] theorem State.modThread_get_tick (i : Nat) (f : SysThread → SysThread)  : (s.modThread i f).tick = s.tick := rfl
@[simp] theorem State.modThread_get_clk (i : Nat) (f : SysThread → SysThread) (j : Nat) : (s.modThread i f).clk j = s.clk j := rfl
@[simp] theorem State.modThread_get_part (i : Nat) (f : SysThread → SysThread) (q : PartRef) : (s.modThread i f).part q = s.part q := rfl

/-! ### `State.modSysCore` -/

@[simp] theorem State.modSysCore_waves (i : Nat) (f : SysCore → SysCore) : (s.modSysCore i f).waves = s.waves := rfl
@[simp] theorem State.modSysCore_blocks (i : Nat) (f : SysCore → SysCore) : (s.modSysCore i f).blocks = s.blocks := rfl
@[simp] theorem State.modSysCore_launches (i : Nat) (f : SysCore → SysCore) : (s.modSysCore i f).launches = s.launches := rfl
@[simp] theorem State.modSysCore_ops (i : Nat) (f : SysCore → SysCore) : (s.modSysCore i f).ops = s.ops := rfl
@[simp] theorem State.modSysCore_accs (i : Nat) (f : SysCore → SysCore) : (s.modSysCore i f).accs = s.accs := rfl
@[simp] theorem State.modSysCore_tiles (i : Nat) (f : SysCore → SysCore) : (s.modSysCore i f).tiles = s.tiles := rfl
@[simp] theorem State.modSysCore_copies (i : Nat) (f : SysCore → SysCore) : (s.modSysCore i f).copies = s.copies := rfl
@[simp] theorem State.modSysCore_kernels (i : Nat) (f : SysCore → SysCore) : (s.modSysCore i f).kernels = s.kernels := rfl
@[simp] theorem State.modSysCore_bundles (i : Nat) (f : SysCore → SysCore) : (s.modSysCore i f).bundles = s.bundles := rfl
@[simp] theorem State.modSysCore_vis (i : Nat) (f : SysCore → SysCore) : (s.modSysCore i f).vis = s.vis := rfl
@[simp] theorem State.modSysCore_procs (i : Nat) (f : SysCore → SysCore) : (s.modSysCore i f).procs = s.procs := rfl
@[simp] theorem State.modSysCore_threads (i : Nat) (f : SysCore → SysCore) : (s.modSysCore i f).threads = s.threads := rfl
@[simp] theorem State.modSysCore_dies (i : Nat) (f : SysCore → SysCore) : (s.modSysCore i f).dies = s.dies := rfl
@[simp] theorem State.modSysCore_cores (i : Nat) (f : SysCore → SysCore) : (s.modSysCore i f).cores = s.cores := rfl
@[simp] theorem State.modSysCore_clusters (i : Nat) (f : SysCore → SysCore) : (s.modSysCore i f).clusters = s.clusters := rfl
@[simp] theorem State.modSysCore_hbmStacks (i : Nat) (f : SysCore → SysCore) : (s.modSysCore i f).hbmStacks = s.hbmStacks := rfl
@[simp] theorem State.modSysCore_now (i : Nat) (f : SysCore → SysCore) : (s.modSysCore i f).now = s.now := rfl
@[simp] theorem State.modSysCore_moduleNo (i : Nat) (f : SysCore → SysCore) : (s.modSysCore i f).moduleNo = s.moduleNo := rfl
@[simp] theorem State.modSysCore_powerLost (i : Nat) (f : SysCore → SysCore) : (s.modSysCore i f).powerLost = s.powerLost := rfl
@[simp] theorem State.modSysCore_boot (i : Nat) (f : SysCore → SysCore) : (s.modSysCore i f).boot = s.boot := rfl
@[simp] theorem State.modSysCore_bootSlot (i : Nat) (f : SysCore → SysCore) : (s.modSysCore i f).bootSlot = s.bootSlot := rfl
@[simp] theorem State.modSysCore_slotSel (i : Nat) (f : SysCore → SysCore) : (s.modSysCore i f).slotSel = s.slotSel := rfl
@[simp] theorem State.modSysCore_flash (i : Nat) (f : SysCore → SysCore) : (s.modSysCore i f).flash = s.flash := rfl
@[simp] theorem State.modSysCore_rollbackMin (i : Nat) (f : SysCore → SysCore) : (s.modSysCore i f).rollbackMin = s.rollbackMin := rfl
@[simp] theorem State.modSysCore_leaf (i : Nat) (f : SysCore → SysCore) : (s.modSysCore i f).leaf = s.leaf := rfl
@[simp] theorem State.modSysCore_lease (i : Nat) (f : SysCore → SysCore) : (s.modSysCore i f).lease = s.lease := rfl
@[simp] theorem State.modSysCore_leaseBad (i : Nat) (f : SysCore → SysCore) : (s.modSysCore i f).leaseBad = s.leaseBad := rfl
@[simp] theorem State.modSysCore_waiters (i : Nat) (f : SysCore → SysCore) : (s.modSysCore i f).waiters = s.waiters := rfl
@[simp] theorem State.modSysCore_posts (i : Nat) (f : SysCore → SysCore) : (s.modSysCore i f).posts = s.posts := rfl
@[simp] theorem State.modSysCore_hostMem (i : Nat) (f : SysCore → SysCore) : (s.modSysCore i f).hostMem = s.hostMem := rfl
@[simp] theorem State.modSysCore_ports (i : Nat) (f : SysCore → SysCore) : (s.modSysCore i f).ports = s.ports := rfl
@[simp] theorem State.modSysCore_evicted (i : Nat) (f : SysCore → SysCore) : (s.modSysCore i f).evicted = s.evicted := rfl
@[simp] theorem State.modSysCore_attached (i : Nat) (f : SysCore → SysCore) : (s.modSysCore i f).attached = s.attached := rfl
@[simp] theorem State.modSysCore_brkGo (i : Nat) (f : SysCore → SysCore) : (s.modSysCore i f).brkGo = s.brkGo := rfl
@[simp] theorem State.modSysCore_brkCount (i : Nat) (f : SysCore → SysCore) : (s.modSysCore i f).brkCount = s.brkCount := rfl
@[simp] theorem State.modSysCore_appends (i : Nat) (f : SysCore → SysCore) : (s.modSysCore i f).appends = s.appends := rfl
@[simp] theorem State.modSysCore_handles (i : Nat) (f : SysCore → SysCore) : (s.modSysCore i f).handles = s.handles := rfl
@[simp] theorem State.modSysCore_peers (i : Nat) (f : SysCore → SysCore) : (s.modSysCore i f).peers = s.peers := rfl
@[simp] theorem State.modSysCore_agenda (i : Nat) (f : SysCore → SysCore) : (s.modSysCore i f).agenda = s.agenda := rfl
@[simp] theorem State.modSysCore_cur (i : Nat) (f : SysCore → SysCore) : (s.modSysCore i f).cur = s.cur := rfl
@[simp] theorem State.modSysCore_steps (i : Nat) (f : SysCore → SysCore) : (s.modSysCore i f).steps = s.steps := rfl
@[simp] theorem State.modSysCore_get_wave (i : Nat) (f : SysCore → SysCore) (j : Nat) : (s.modSysCore i f).wave j = s.wave j := rfl
@[simp] theorem State.modSysCore_get_block (i : Nat) (f : SysCore → SysCore) (j : Nat) : (s.modSysCore i f).block j = s.block j := rfl
@[simp] theorem State.modSysCore_get_launch (i : Nat) (f : SysCore → SysCore) (j : Nat) : (s.modSysCore i f).launch j = s.launch j := rfl
@[simp] theorem State.modSysCore_get_op (i : Nat) (f : SysCore → SysCore) (j : Nat) : (s.modSysCore i f).op j = s.op j := rfl
@[simp] theorem State.modSysCore_get_acc (i : Nat) (f : SysCore → SysCore) (j : Nat) : (s.modSysCore i f).acc j = s.acc j := rfl
@[simp] theorem State.modSysCore_get_tile (i : Nat) (f : SysCore → SysCore) (j : Nat) : (s.modSysCore i f).tile j = s.tile j := rfl
@[simp] theorem State.modSysCore_get_copy (i : Nat) (f : SysCore → SysCore) (j : Nat) : (s.modSysCore i f).copy j = s.copy j := rfl
@[simp] theorem State.modSysCore_get_kernel (i : Nat) (f : SysCore → SysCore) (j : Nat) : (s.modSysCore i f).kernel j = s.kernel j := rfl
@[simp] theorem State.modSysCore_get_vi (i : Nat) (f : SysCore → SysCore) (j : Nat) : (s.modSysCore i f).vi j = s.vi j := rfl
@[simp] theorem State.modSysCore_get_die (i : Nat) (f : SysCore → SysCore) (j : Nat) : (s.modSysCore i f).die j = s.die j := rfl
@[simp] theorem State.modSysCore_get_core (i : Nat) (f : SysCore → SysCore) (e b : Nat) : (s.modSysCore i f).core e b = s.core e b := rfl
@[simp] theorem State.modSysCore_get_cluster (i : Nat) (f : SysCore → SysCore) (j : Nat) : (s.modSysCore i f).cluster j = s.cluster j := rfl
@[simp] theorem State.modSysCore_get_proc (i : Nat) (f : SysCore → SysCore) (j : Nat) : (s.modSysCore i f).proc j = s.proc j := rfl
@[simp] theorem State.modSysCore_get_thread (i : Nat) (f : SysCore → SysCore) (j : Nat) : (s.modSysCore i f).thread j = s.thread j := rfl
@[simp] theorem State.modSysCore_get_tick (i : Nat) (f : SysCore → SysCore)  : (s.modSysCore i f).tick = s.tick := rfl
@[simp] theorem State.modSysCore_get_clk (i : Nat) (f : SysCore → SysCore) (j : Nat) : (s.modSysCore i f).clk j = s.clk j := rfl
@[simp] theorem State.modSysCore_get_part (i : Nat) (f : SysCore → SysCore) (q : PartRef) : (s.modSysCore i f).part q = s.part q := rfl

/-! ### `State.post` -/

@[simp] theorem State.post_waves (p : Post) : (s.post p).waves = s.waves := rfl
@[simp] theorem State.post_blocks (p : Post) : (s.post p).blocks = s.blocks := rfl
@[simp] theorem State.post_launches (p : Post) : (s.post p).launches = s.launches := rfl
@[simp] theorem State.post_ops (p : Post) : (s.post p).ops = s.ops := rfl
@[simp] theorem State.post_accs (p : Post) : (s.post p).accs = s.accs := rfl
@[simp] theorem State.post_tiles (p : Post) : (s.post p).tiles = s.tiles := rfl
@[simp] theorem State.post_copies (p : Post) : (s.post p).copies = s.copies := rfl
@[simp] theorem State.post_kernels (p : Post) : (s.post p).kernels = s.kernels := rfl
@[simp] theorem State.post_bundles (p : Post) : (s.post p).bundles = s.bundles := rfl
@[simp] theorem State.post_vis (p : Post) : (s.post p).vis = s.vis := rfl
@[simp] theorem State.post_procs (p : Post) : (s.post p).procs = s.procs := rfl
@[simp] theorem State.post_threads (p : Post) : (s.post p).threads = s.threads := rfl
@[simp] theorem State.post_sysCores (p : Post) : (s.post p).sysCores = s.sysCores := rfl
@[simp] theorem State.post_dies (p : Post) : (s.post p).dies = s.dies := rfl
@[simp] theorem State.post_cores (p : Post) : (s.post p).cores = s.cores := rfl
@[simp] theorem State.post_clusters (p : Post) : (s.post p).clusters = s.clusters := rfl
@[simp] theorem State.post_hbmStacks (p : Post) : (s.post p).hbmStacks = s.hbmStacks := rfl
@[simp] theorem State.post_now (p : Post) : (s.post p).now = s.now := rfl
@[simp] theorem State.post_moduleNo (p : Post) : (s.post p).moduleNo = s.moduleNo := rfl
@[simp] theorem State.post_powerLost (p : Post) : (s.post p).powerLost = s.powerLost := rfl
@[simp] theorem State.post_boot (p : Post) : (s.post p).boot = s.boot := rfl
@[simp] theorem State.post_bootSlot (p : Post) : (s.post p).bootSlot = s.bootSlot := rfl
@[simp] theorem State.post_slotSel (p : Post) : (s.post p).slotSel = s.slotSel := rfl
@[simp] theorem State.post_flash (p : Post) : (s.post p).flash = s.flash := rfl
@[simp] theorem State.post_rollbackMin (p : Post) : (s.post p).rollbackMin = s.rollbackMin := rfl
@[simp] theorem State.post_leaf (p : Post) : (s.post p).leaf = s.leaf := rfl
@[simp] theorem State.post_lease (p : Post) : (s.post p).lease = s.lease := rfl
@[simp] theorem State.post_leaseBad (p : Post) : (s.post p).leaseBad = s.leaseBad := rfl
@[simp] theorem State.post_waiters (p : Post) : (s.post p).waiters = s.waiters := rfl
@[simp] theorem State.post_hostMem (p : Post) : (s.post p).hostMem = s.hostMem := rfl
@[simp] theorem State.post_ports (p : Post) : (s.post p).ports = s.ports := rfl
@[simp] theorem State.post_evicted (p : Post) : (s.post p).evicted = s.evicted := rfl
@[simp] theorem State.post_attached (p : Post) : (s.post p).attached = s.attached := rfl
@[simp] theorem State.post_brkGo (p : Post) : (s.post p).brkGo = s.brkGo := rfl
@[simp] theorem State.post_brkCount (p : Post) : (s.post p).brkCount = s.brkCount := rfl
@[simp] theorem State.post_appends (p : Post) : (s.post p).appends = s.appends := rfl
@[simp] theorem State.post_handles (p : Post) : (s.post p).handles = s.handles := rfl
@[simp] theorem State.post_peers (p : Post) : (s.post p).peers = s.peers := rfl
@[simp] theorem State.post_agenda (p : Post) : (s.post p).agenda = s.agenda := rfl
@[simp] theorem State.post_cur (p : Post) : (s.post p).cur = s.cur := rfl
@[simp] theorem State.post_steps (p : Post) : (s.post p).steps = s.steps := rfl
@[simp] theorem State.post_get_wave (p : Post) (j : Nat) : (s.post p).wave j = s.wave j := rfl
@[simp] theorem State.post_get_block (p : Post) (j : Nat) : (s.post p).block j = s.block j := rfl
@[simp] theorem State.post_get_launch (p : Post) (j : Nat) : (s.post p).launch j = s.launch j := rfl
@[simp] theorem State.post_get_op (p : Post) (j : Nat) : (s.post p).op j = s.op j := rfl
@[simp] theorem State.post_get_acc (p : Post) (j : Nat) : (s.post p).acc j = s.acc j := rfl
@[simp] theorem State.post_get_tile (p : Post) (j : Nat) : (s.post p).tile j = s.tile j := rfl
@[simp] theorem State.post_get_copy (p : Post) (j : Nat) : (s.post p).copy j = s.copy j := rfl
@[simp] theorem State.post_get_kernel (p : Post) (j : Nat) : (s.post p).kernel j = s.kernel j := rfl
@[simp] theorem State.post_get_vi (p : Post) (j : Nat) : (s.post p).vi j = s.vi j := rfl
@[simp] theorem State.post_get_die (p : Post) (j : Nat) : (s.post p).die j = s.die j := rfl
@[simp] theorem State.post_get_core (p : Post) (e b : Nat) : (s.post p).core e b = s.core e b := rfl
@[simp] theorem State.post_get_cluster (p : Post) (j : Nat) : (s.post p).cluster j = s.cluster j := rfl
@[simp] theorem State.post_get_proc (p : Post) (j : Nat) : (s.post p).proc j = s.proc j := rfl
@[simp] theorem State.post_get_thread (p : Post) (j : Nat) : (s.post p).thread j = s.thread j := rfl
@[simp] theorem State.post_get_tick (p : Post)  : (s.post p).tick = s.tick := rfl
@[simp] theorem State.post_get_clk (p : Post) (j : Nat) : (s.post p).clk j = s.clk j := rfl
@[simp] theorem State.post_get_part (p : Post) (q : PartRef) : (s.post p).part q = s.part q := rfl

/-! ### The record that an update names -/

theorem getD_modify_self {α : Type} (l : List α) (i : Nat) (f : α → α) (d : α) (h : i < l.length) :
    (l.modify i f).getD i d = f (l.getD i d) := by
  simp [List.getD_eq_getElem?_getD, h]

theorem getD_modify_ne {α : Type} (l : List α) (i j : Nat) (f : α → α) (d : α) (h : i ≠ j) :
    (l.modify i f).getD j d = l.getD j d := by
  simp [List.getD_eq_getElem?_getD, h]

theorem State.modWave_self (i : Nat) (f : Wave → Wave) (h : i < s.waves.length) : (s.modWave i f).wave i = f (s.wave i) :=
  getD_modify_self _ _ _ _ h

theorem State.modWave_ne (i j : Nat) (f : Wave → Wave) (h : i ≠ j) : (s.modWave i f).wave j = s.wave j :=
  getD_modify_ne _ _ _ _ _ h

@[simp] theorem State.modWave_length (i : Nat) (f : Wave → Wave) : (s.modWave i f).waves.length = s.waves.length :=
  List.length_modify _ _ _

theorem State.modBlock_self (i : Nat) (f : Block → Block) (h : i < s.blocks.length) : (s.modBlock i f).block i = f (s.block i) :=
  getD_modify_self _ _ _ _ h

theorem State.modBlock_ne (i j : Nat) (f : Block → Block) (h : i ≠ j) : (s.modBlock i f).block j = s.block j :=
  getD_modify_ne _ _ _ _ _ h

@[simp] theorem State.modBlock_length (i : Nat) (f : Block → Block) : (s.modBlock i f).blocks.length = s.blocks.length :=
  List.length_modify _ _ _

theorem State.modLaunch_self (i : Nat) (f : Launch → Launch) (h : i < s.launches.length) : (s.modLaunch i f).launch i = f (s.launch i) :=
  getD_modify_self _ _ _ _ h

theorem State.modLaunch_ne (i j : Nat) (f : Launch → Launch) (h : i ≠ j) : (s.modLaunch i f).launch j = s.launch j :=
  getD_modify_ne _ _ _ _ _ h

@[simp] theorem State.modLaunch_length (i : Nat) (f : Launch → Launch) : (s.modLaunch i f).launches.length = s.launches.length :=
  List.length_modify _ _ _

theorem State.modOp_self (i : Nat) (f : MemOp → MemOp) (h : i < s.ops.length) : (s.modOp i f).op i = f (s.op i) :=
  getD_modify_self _ _ _ _ h

theorem State.modOp_ne (i j : Nat) (f : MemOp → MemOp) (h : i ≠ j) : (s.modOp i f).op j = s.op j :=
  getD_modify_ne _ _ _ _ _ h

@[simp] theorem State.modOp_length (i : Nat) (f : MemOp → MemOp) : (s.modOp i f).ops.length = s.ops.length :=
  List.length_modify _ _ _

theorem State.modAcc_self (i : Nat) (f : Acc → Acc) (h : i < s.accs.length) : (s.modAcc i f).acc i = f (s.acc i) :=
  getD_modify_self _ _ _ _ h

theorem State.modAcc_ne (i j : Nat) (f : Acc → Acc) (h : i ≠ j) : (s.modAcc i f).acc j = s.acc j :=
  getD_modify_ne _ _ _ _ _ h

@[simp] theorem State.modAcc_length (i : Nat) (f : Acc → Acc) : (s.modAcc i f).accs.length = s.accs.length :=
  List.length_modify _ _ _

theorem State.modTile_self (i : Nat) (f : Tile → Tile) (h : i < s.tiles.length) : (s.modTile i f).tile i = f (s.tile i) :=
  getD_modify_self _ _ _ _ h

theorem State.modTile_ne (i j : Nat) (f : Tile → Tile) (h : i ≠ j) : (s.modTile i f).tile j = s.tile j :=
  getD_modify_ne _ _ _ _ _ h

@[simp] theorem State.modTile_length (i : Nat) (f : Tile → Tile) : (s.modTile i f).tiles.length = s.tiles.length :=
  List.length_modify _ _ _

theorem State.modCopy_self (i : Nat) (f : Copy → Copy) (h : i < s.copies.length) : (s.modCopy i f).copy i = f (s.copy i) :=
  getD_modify_self _ _ _ _ h

theorem State.modCopy_ne (i j : Nat) (f : Copy → Copy) (h : i ≠ j) : (s.modCopy i f).copy j = s.copy j :=
  getD_modify_ne _ _ _ _ _ h

@[simp] theorem State.modCopy_length (i : Nat) (f : Copy → Copy) : (s.modCopy i f).copies.length = s.copies.length :=
  List.length_modify _ _ _

theorem State.modVi_self (i : Nat) (f : ViState → ViState) (h : i < s.vis.length) : (s.modVi i f).vi i = f (s.vi i) :=
  getD_modify_self _ _ _ _ h

theorem State.modVi_ne (i j : Nat) (f : ViState → ViState) (h : i ≠ j) : (s.modVi i f).vi j = s.vi j :=
  getD_modify_ne _ _ _ _ _ h

@[simp] theorem State.modVi_length (i : Nat) (f : ViState → ViState) : (s.modVi i f).vis.length = s.vis.length :=
  List.length_modify _ _ _

theorem State.modProc_self (i : Nat) (f : Process → Process) (h : i < s.procs.length) : (s.modProc i f).proc i = f (s.proc i) :=
  getD_modify_self _ _ _ _ h

theorem State.modProc_ne (i j : Nat) (f : Process → Process) (h : i ≠ j) : (s.modProc i f).proc j = s.proc j :=
  getD_modify_ne _ _ _ _ _ h

@[simp] theorem State.modProc_length (i : Nat) (f : Process → Process) : (s.modProc i f).procs.length = s.procs.length :=
  List.length_modify _ _ _

theorem State.modThread_self (i : Nat) (f : SysThread → SysThread) (h : i < s.threads.length) : (s.modThread i f).thread i = f (s.thread i) :=
  getD_modify_self _ _ _ _ h

theorem State.modThread_ne (i j : Nat) (f : SysThread → SysThread) (h : i ≠ j) : (s.modThread i f).thread j = s.thread j :=
  getD_modify_ne _ _ _ _ _ h

@[simp] theorem State.modThread_length (i : Nat) (f : SysThread → SysThread) : (s.modThread i f).threads.length = s.threads.length :=
  List.length_modify _ _ _

theorem State.modDie_self (i : Nat) (f : DieState → DieState) (h : i < s.dies.length) : (s.modDie i f).die i = f (s.die i) :=
  getD_modify_self _ _ _ _ h

theorem State.modDie_ne (i j : Nat) (f : DieState → DieState) (h : i ≠ j) : (s.modDie i f).die j = s.die j :=
  getD_modify_ne _ _ _ _ _ h

@[simp] theorem State.modDie_length (i : Nat) (f : DieState → DieState) : (s.modDie i f).dies.length = s.dies.length :=
  List.length_modify _ _ _

theorem State.modCluster_self (i : Nat) (f : ClusterState → ClusterState) (h : i < s.clusters.length) : (s.modCluster i f).cluster i = f (s.cluster i) :=
  getD_modify_self _ _ _ _ h

theorem State.modCluster_ne (i j : Nat) (f : ClusterState → ClusterState) (h : i ≠ j) : (s.modCluster i f).cluster j = s.cluster j :=
  getD_modify_ne _ _ _ _ _ h

@[simp] theorem State.modCluster_length (i : Nat) (f : ClusterState → ClusterState) : (s.modCluster i f).clusters.length = s.clusters.length :=
  List.length_modify _ _ _

@[simp] theorem State.modCore_length (d c : Nat) (f : CoreState → CoreState) :
    (s.modCore d c f).cores.length = s.cores.length := List.length_modify _ _ _

@[simp] theorem State.post_posts (p : Post) : (s.post p).posts = s.posts ++ [p] := rfl

end Sys2Proof.Machine
end

