-- ==== Sys2Proof/Tests/Slice0.lean ====
section
/-!
SUPPORT. Tests: what the well-formedness checks refuse, the words of the encoding tables, single instructions, and for
each statement a state that meets its hypotheses.
-/

namespace Sys2Proof.Machine.Test

set_option Elab.async false

/-! ### States that the witnesses use -/

/-- A wave on core 0 of die 0, placed by the loader of `withFetchWord`, that is issuing the word. -/
def issuing (word : Nat) : State := { State.reset.withFetchWord 32 word with cur := some 0 }

/-- A wave of eight present lanes with registers of every shape: v1 U, v2 and v3 A, v4 and v5 V. -/
def base : State := (issuing 0x01000000).modWave 0 fun w =>
  { w with
    pm := 0xFF, k := (List.replicate 16 0).set 0 0xFF |>.set 1 0x0F |>.set 5 0x33
    regs := ((((List.replicate 128 (Reg.u 0)).set 1 (.u 7)).set 2 (.a 0x100 1)).set 3 (.a 5 2)
      |>.set 4 (.v ((List.range 32).map (BitVec.ofNat 32)))).set 5 (.v (List.replicate 32 9))
    qw := 64, slots := (List.range 64).map fun i => ⟨i, if i = 0 then some 4 else if i = 1 then some 5 else none⟩ }

/-- The same with a MODE. -/
def moded (m : BitVec 16) : State := base.modWave 0 fun w => { w with mode := m }

/-- The same with other registers. -/
def put (s : State) (l : List (Nat × Reg)) : State :=
  s.modWave 0 fun w => { w with regs := l.foldl (fun r x => r.set x.1 x.2) w.regs }

/-- A kernel with a handler at 0x400, 64 KB of shared memory and 8 KB of spill area, and a block of two slices. -/
def handled (s : State) : State :=
  { s with
    kernels := s.kernels.map fun k => { k with hbase := 0x400, shared := 65536, spill := 8192 }
    launches := s.launches.map fun l => { l with slices := 2 } }

/-! ### Witnesses: lane instructions -/

theorem witness_LogicAndShiftLanes : base.laneReady 0 [2, 4] [6] = true ∧ base.laneReady 0 [2] [6] = true ∧
    (opOf 0x2E040422).toNat ∈ [0x2E, 0x2F, 0x30] ∧ (0x2E040422 : Word).extractLsb' 5 5 ≠ 0 ∧
    (handled base).canTrap 0 0x400 [] = true := by decide +kernel

theorem witness_BitFieldLanes : base.laneReady 0 [2, 4] [6] = true ∧ base.laneReady 0 [4, 2, 1] [4] = true ∧
    base.laneReady 0 [2] [6] = true := by decide +kernel

theorem witness_MovesAndSelects : base.laneReady 0 [] [6] = true ∧ base.laneReady 0 [4] [4] = true ∧
    base.laneReady 0 [2] [6] = true ∧ (base.wave 0).active = (base.wave 0).pm ∧ base.laneReady 0 [1, 4] [6] = true ∧
    (base.wave 0).mask 0 &&& (base.wave 0).pm = (base.wave 0).pm ∧
    (base.wave 0).mask 2 &&& (base.wave 0).pm ≠ (base.wave 0).pm ∧ (base.wave 0).mask 2 &&& (base.wave 0).pm = 0 := by
  decide +kernel

theorem witness_WrittenShapes : base.laneReady 0 [2, 4] [6] = true ∧ (base.wave 0).active = (base.wave 0).pm ∧
    (moded 1).laneReady 0 [2, 4] [6] = true ∧ ((moded 1).wave 0).active ≠ ((moded 1).wave 0).pm := by decide +kernel

theorem witness_AffineShapes : base.laneReady 0 [2, 1] [6] = true ∧ base.laneReady 0 [2, 3] [6] = true ∧
    modeType (base.wave 0).mode ∈ [0, 1] ∧ modeSat (base.wave 0).mode = false ∧ (base.wave 0).active = (base.wave 0).pm ∧
    (base.wave 0).reg 2 = .a 0x100 1 ∧ (base.wave 0).reg 1 = .u 7 ∧ (base.wave 0).reg 3 = .a 5 2 := by decide +kernel

theorem witness_IntAndDotLanes : base.laneReady 0 [2, 4] [6] = true ∧ base.laneReady 0 [6, 2, 4] [6] = true ∧
    (modeType (base.wave 0).mode = 0 ∧ modeSat (base.wave 0).mode = false) ∧ (moded 0x10).laneReady 0 [2, 4] [6] = true ∧
    (modeType ((moded 0x10).wave 0).mode = 1 ∧ modeSat ((moded 0x10).wave 0).mode = false) := by decide +kernel

theorem witness_HalfAndSaturatedLanes : (moded 0x60).laneReady 0 [2, 4] [6] = true ∧
    (modeType ((moded 0x60).wave 0).mode = 6 ∧ modeSat ((moded 0x60).wave 0).mode = false) ∧
    (moded 0x200).laneReady 0 [2, 4] [6] = true ∧ modeType ((moded 0x200).wave 0).mode ∈ [0, 1] ∧
    modeSat ((moded 0x200).wave 0).mode = true := by decide +kernel

theorem witness_TypedComplete : ∀ ty ∈ [0, 1, 2, 3, 4, 5, 6], let s := moded (BitVec.ofNat 16 (16 * ty))
    modeType (s.wave 0).mode = ty ∧ modeTrap (s.wave 0).mode = false ∧
    s.laneReady 0 [8, 9, 2, 3, 4, 5] [8, 9] = true := by decide +kernel

theorem witness_PermuteLanes : base.laneReady 0 [4, 2] [6] = true ∧ (base.wave 0).active = (base.wave 0).pm ∧
    opOf 0x660C1424 = 0x66 ∧ 3 < (fF 0x660C1424).toNat ∧ opOf 0x680C1404 = 0x68 ∧ 2 < (fF 0x680C1404).toNat ∧
    opOf 0x680C140A = 0x68 ∧ (fF 0x680C140A).toNat ≤ 2 ∧ fB 0x680C140A ≠ 0 := by decide +kernel

theorem witness_ReduceLanes : base.laneReady 0 [4] [6] = true ∧ base.laneReady 0 [2, 3, 4, 5] [8, 9, 10, 11] = true ∧
    (modeType (base.wave 0).mode ∈ [0, 1] ∧ modeSat (base.wave 0).mode = false) ∧ (base.wave 0).active ≠ 0 := by
  decide +kernel

theorem witness_ShapeControl : base.laneReady 0 [2] [2] = true ∧ base.laneReady 0 [5] [5] = true ∧
    ((base.wave 0).reg 2).isV = false ∧ ((base.wave 0).reg 5).isV = true ∧ (base.wave 0).pm ≠ 0 ∧
    ∀ l < 32, bit (base.wave 0).pm l = true → ((base.wave 0).reg 5).lane l = 9 := by decide +kernel

/-! ### Witnesses: masks and compares -/

theorem witness_MaskInstructions : base.laneReady 0 [] [] = true ∧ base.laneReady 0 [4] [] = true ∧
    base.laneReady 0 [] [6] = true := by decide +kernel

theorem witness_IntCompares : base.laneReady 0 [1, 0] [] = true ∧ base.laneReady 0 [2, 4] [] = true ∧
    modeType (base.wave 0).mode ∈ [0, 1] ∧ (base.wave 0).reg 1 = .u 7 ∧ (base.wave 0).reg 0 = .u 0 ∧
    ((base.wave 0).reg 2).isU = false := by decide +kernel

/-- A NaN in lane 3 of v4, quiet, under F32. -/
def nans : State := put (moded 0x20) [(4, .v ((List.replicate 32 0x3F800000).set 3 0x7FC00001))]

theorem witness_FloatCompares : nans.laneReady 0 [4, 1] [] = true ∧ modeType (nans.wave 0).mode = 2 ∧
    modeTrap (nans.wave 0).mode = false ∧ ((nans.wave 0).reg 4).isU = false ∧
    (((nans.wave 0).reg 4).lane 3 &&& 0x7FFFFFFF > 0x7F800000 ∧ (((nans.wave 0).reg 4).lane 3).getLsbD 22 = true) ∧
    (∀ ty ∈ [0, 1, 2, 3, 4, 5, 6], let s := moded (BitVec.ofNat 16 (16 * ty))
      modeType (s.wave 0).mode = ty ∧ modeTrap (s.wave 0).mode = false ∧ s.laneReady 0 [2, 3, 4, 5] [] = true) := by
  decide +kernel

/-! ### Witnesses: traps and their ends -/

/-- A kernel with a handler, and a wave in trap mode whose entry names a trap of this kind and class. -/
def trapped (kind cls : Nat) : State := (handled base).modWave 0 fun w =>
  { w with
    trapMode := true, pc := 0x440
    sb := ((w.sb.set 0 (BitVec.ofNat 32 (2 ^ 31 + kind * 2 ^ 28 + 2 ^ 8 + cls))).set 1 0x20).set 2 0x24 }

theorem witness_WordsTrap : (handled base).canTrap 0 0x400 [] = true := by decide +kernel

theorem witness_TypeAndPrivilegeTraps :
    (∀ ty ∈ [0, 2, 3, 5], let s := handled (moded (BitVec.ofNat 16 (16 * ty)))
      modeType (s.wave 0).mode = ty ∧
      s.canTrap 0 0x400 (33 :: (((List.range 8).map fun r => 9 + BitVec.ofNat 7 r) ++
        (List.range 8).map fun r => 17 + BitVec.ofNat 7 r)) = true) ∧
    (9 : BitVec 7).toNat % 2 = 1 ∧ (handled base).canTrap 0 0x400 [6] = true ∧
    (3 : BitVec 10).toNat ≠ 2 ∧ (3 : BitVec 10).toNat ≠ 5 := by decide +kernel

/-- The quota is used up by the two V registers. -/
def full : State := (handled base).modWave 0 fun w => { w with qw := 2, slots := w.slots.take 2 }

theorem witness_ShapeTraps : full.canTrap 0 0x400 [6, 4] = true ∧
    [ExecUnit.uniform, .vector, .sfu, .mask].all (full.unitFree 0) = true ∧ (full.wave 0).hasSlot 6 = false ∧
    (full.wave 0).qw < (full.wave 0).liveV + 1 ∧ (full.wave 0).active = (full.wave 0).pm ∧
    ((full.wave 0).reg 4).isV = true ∧ (1 : BitVec 3).toNat < ((full.wave 0).reg 4).shape ∧
    (full.wave 0).qw < (1 : BitVec 7).toNat + (full.wave 0).liveV ∧
    128 < (full.wave 0).qw + (127 : BitVec 7).toNat := by decide +kernel

theorem witness_ArithTraps :
    let s := handled (put (moded 0x820) [(4, .v ((List.replicate 32 0x3F800000).set 3 0x7FC00001))])
    s.canTrap 0 0x400 [6, 4] = true ∧ s.laneReady 0 [4] [6] = true ∧ modeTrap (s.wave 0).mode = true ∧
    modeSat (s.wave 0).mode = false ∧
    (bit (s.wave 0).active 3 = true ∧ ((s.wave 0).reg 4).lane 3 &&& 0x7FFFFFFF > 0x7F800000) := by decide +kernel

theorem witness_TrapsHalt :
    (base.ready 0 [] = true ∧ (base.wave 0).trapMode = false ∧ (base.wave 0).halted = false ∧ (base.wave 0).stop = .run ∧
      base.handler 0 = none) ∧
    (trapped 0 0).ready 0 [] = true ∧ ((trapped 0 0).wave 0).trapMode = true := by decide +kernel

theorem witness_UserTrapsAndReads : (handled base).canTrap 0 0x400 [] = true ∧ (trapped 0 0).ready 0 [6] = true ∧
    ((trapped 0 0).wave 0).trapMode = true ∧ ((trapped 0 0).wave 0).regs.length = 128 := by decide +kernel

/-- The wave's store to 0x100 of shared memory trapped when it was performed. -/
def storeTrapped : State :=
  let o : MemOp := { MemOp.blank with wave := 0, cls := some .store, race := .fault }
  let a : Acc :=
    { op := 0, wave := 0, kind := .store, space := .shared, width := 4, lanes := [⟨0, 0x100, [1, 2, 3, 4]⟩], st := .trapped
      fail := some (.race, 1, 1, []) }
  { trapped 2 7 with ops := [o], accs := [a] }.modWave 0 fun w => { w with what := .access 0, trapOp := 1 }

theorem witness_TrapReturns :
    (∀ kind ∈ [0, 1, 3], let s := trapped kind 8
      s.ready 0 [] = true ∧ (s.wave 0).trapMode = true ∧ (s.wave 0).heldAcc = [] ∧ (s.wave 0).badLog s = false ∧
      (s.wave 0).trace.on = false ∧ (s.wave 0).sb.length = 64 ∧ (s.wave 0).trapKind = kind) ∧
    ((trapped 1 9).wave 0).trapClass ≠ 8 ∧
    (storeTrapped.ready 0 [] = true ∧ (storeTrapped.wave 0).trapMode = true ∧ (storeTrapped.wave 0).heldAcc = [] ∧
      (storeTrapped.wave 0).badLog storeTrapped = false ∧ (storeTrapped.wave 0).trapKind = 2 ∧
      (storeTrapped.wave 0).what = .access 0 ∧ 0 < storeTrapped.accs.length ∧ (storeTrapped.acc 0).kind = .store ∧
      (storeTrapped.acc 0).wave = 0 ∧ (storeTrapped.op (storeTrapped.acc 0).op).voided = false) := by decide +kernel

/-! ### Witnesses: control and system instructions -/

theorem witness_ControlTransfers : base.ready 0 [1, 6] = true ∧ (base.wave 0).regs.length = 128 ∧
    (12 : BitVec 5).toNat ≤ 12 ∧ opOf 0x02680000 = 0x02 ∧ 12 < (cond 0x02680000).toNat ∧
    (handled base).canTrap 0 0x400 [] = true := by decide +kernel

theorem witness_WaveOnly : base.ready 0 [1] = true ∧ (base.wave 0).trapMode = false ∧ (base.wave 0).suspended = none := by
  decide +kernel

theorem witness_QuotaAndSleep : base.laneReady 0 [1] [] = true ∧ ((base.wave 0).reg 1).shape ≤ (0 : BitVec 3).toNat ∧
    (3 : BitVec 7).toNat + (base.wave 0).liveV ≤ (base.wave 0).qw ∧ ((base.wave 0).slots.map Slot.phys).Nodup ∧
    (3 : BitVec 7).toNat + (base.wave 0).liveV ≤ (base.wave 0).slots.length ∧ base.ready 0 [] = true ∧
    (base.wave 0).suspended = none ∧ (base.wave 0).qw + (3 : BitVec 7).toNat ≤ 128 ∧
    (base.wave 0).part.part < (base.core 0 0).parts.length ∧ 0 < base.cores.length := by decide +kernel

theorem witness_SystemReads : base.ready 0 [6, 7] = true ∧ (base.wave 0).regs.length = 128 := by decide +kernel

/-- An interface with a trace region, and the wave's trace on. -/
def traced (on : Bool) : State :=
  (base.modVi 0 fun v => { v with traceBase := some 0x10001000, tbsize := 256 }).modWave 0 fun w =>
    { w with trace := { on := on } }

theorem witness_DebugInstructions : base.ready 0 [] = true ∧ base.traceBuf 0 = none ∧ (base.wave 0).trace.on = false ∧
    (5 : BitVec 16).toNat ∉ base.brkGo ∧ ({ base with brkGo := [5] } : State).ready 0 [] = true ∧
    (traced false).ready 0 [] = true ∧ (traced false).traceBuf 0 ≠ none ∧ ((traced false).wave 0).trace.on = false ∧
    (traced true).ready 0 [] = true ∧ ((traced true).wave 0).trace.on = true := by decide +kernel

theorem witness_LaunchIssues : let s := put (handled base) [(7, .u 0x1000)]
    s.ready 0 [6, 7] = true ∧ s.recordCheck 0 0x1000 = none ∧ (((s.wave 0).reg 7).lane (s.wave 0).l0).toNat = 0x1000 := by
  decide +kernel

/-! ### Witnesses: memory instructions at issue -/

/-- v2 holds addresses 16 bytes apart from here on; the guard is k0, or k1 with half the lanes, or k2 with none. -/
def addressed (a stride : Word) (guard : Nat) : State := put (handled (moded (BitVec.ofNat 16 guard))) [(2, .a a stride)]

theorem witness_LoadsIssue : let s := addressed 0x100 16 1
    let w := s.wave 0
    let at_ := w.accessLanes 2 0
    s.ready 0 [2, 8, 9, 10, 11] = true ∧ w.ql < 24 ∧ w.room [8, 9, 10, 11] = true ∧ w.logRoom (w.countV [2]) = true ∧
    (∀ width ∈ [1, 2, 4, 8, 16], s.addrsOk 0 width (at_.map Prod.snd) = true) ∧ w.slots.length = w.qw ∧ at_ ≠ [] ∧
    (w.reg 2).isU = false ∧ w.active ≠ w.pm ∧ (4 : BitVec 3).toNat ≤ 4 := by decide +kernel

theorem witness_StoresIssue :
    (∀ s ∈ [addressed 0x100 16 1, addressed 0x18000000 16 0, addressed 0x100 16 2], let w := s.wave 0
      s.ready 0 [2, 4, 5, 6, 7] = true ∧ w.qs < 16 ∧ w.logRoom (w.countV [2, 4, 5, 6, 7]) = true ∧
      ∀ width ∈ [1, 2, 4, 8, 16], s.addrsOk 0 width ((w.accessLanes 2 0).map Prod.snd) = true) ∧
    ((addressed 0x100 16 2).wave 0).accessLanes 2 0 = [] ∧
    (((addressed 0x100 16 1).wave 0).accessLanes 2 0).any (fun x => spaceOf x.2 != .spill) = true ∧
    ((addressed 0x18000000 16 0).wave 0).accessLanes 2 0 ≠ [] ∧
    (∀ x ∈ ((addressed 0x18000000 16 0).wave 0).accessLanes 2 0, spaceOf x.2 = .spill) ∧
    (∀ x ∈ (addressed 0x18000000 16 0).accs, x.op ≠ (addressed 0x18000000 16 0).ops.length) := by decide +kernel

theorem witness_SpillAndFill : let s := handled base
    s.ready 0 [4] = true ∧ 128 * (3 : BitVec 9).toNat + 128 ≤ (s.waveKernel 0).spill ∧ (s.wave 0).qs < 16 ∧
    (s.wave 0).ql < 24 ∧ (s.wave 0).room [4] = true ∧ (∀ x ∈ (s.wave 0).log, x ≠ some s.ops.length) ∧
    (∀ x ∈ s.accs, x.op ≠ s.ops.length) := by decide +kernel

theorem witness_AtomicsIssue : let s := addressed 0x100 16 1
    let w := s.wave 0
    s.ready 0 [6, 2, 4] = true ∧ w.ql < 24 ∧ w.room [6] = true ∧
    s.addrsOk 0 4 ((w.accessLanes 2 0).map Prod.snd) = true ∧ w.logRoom (w.countV [2, 4, 6]) = true ∧
    modeType w.mode ∈ [0, 1] ∧ modeType 0x0010 = 1 := by decide +kernel

theorem witness_ApertureStores :
    (∀ s ∈ [addressed 0x20000000 4 0, addressed 0x20000040 0x1000 0], let w := s.wave 0
      let at_ := w.accessLanes 2 0
      s.ready 0 [2, 4] = true ∧ (s.waveBlock 0).migrate = none ∧
      (∀ x ∈ at_, 0x20000000 ≤ x.2 ∧ x.2 < 0x20008000 ∧ x.2 % 4 = 0) ∧ at_ ≠ []) ∧
    (∀ x ∈ ((addressed 0x20000000 4 0).wave 0).accessLanes 2 0, x.2 % 0x1000 / 4 < 16) ∧
    ((addressed 0x20000000 4 0).wave 0).qs < 16 ∧
    (∀ x ∈ ((addressed 0x20000040 0x1000 0).wave 0).accessLanes 2 0, x.2 % 0x1000 / 4 = 16) ∧
    ((addressed 0x20000040 0x1000 0).wave 0).qx +
      ((((addressed 0x20000040 0x1000 0).wave 0).accessLanes 2 0).map Prod.snd).eraseDups.length ≤ 8 ∧
    ((addressed 0x20000040 0x1000 0).wave 0).logRoom (((addressed 0x20000040 0x1000 0).wave 0).countV [2, 4]) = true := by
  decide +kernel

/-- Every queue of the wave is full. -/
def crowded (s : State) : State := s.modWave 0 fun w => { w with ql := 24, qs := 16, qx := 8, qt := 4 }

theorem witness_MemoryTraps : let s := addressed 0x7FFFFC 1 0
    s.canTrap 0 0x400 [2, 6] = true ∧ (crowded s).canTrap 0 0x400 [2, 6] = true ∧ 24 ≤ ((crowded s).wave 0).ql ∧
    16 ≤ ((crowded s).wave 0).qs ∧ (s.wave 0).qs < 16 ∧
    (∃ x ∈ (s.wave 0).accessLanes 2 0, s.memCode 0 x.2 1 false = some 1) ∧
    (∀ x ∈ (s.wave 0).accessLanes 2 0, ∀ c ∈ s.memCode 0 x.2 1 false, 1 ≤ c) := by decide +kernel

/-- Addresses at the bounds of the clauses: the code of each, with two slices of 64 KB and 8 KB of spill area. -/
theorem witness_MemoryTraps_codes : let s := handled base
    ([0, 0xFFFF, 0x10000, 0x80000, 0x8FFFF, 0x90000, 0x100000, 0x7FFFFF, 0x800000, 0xFFFFFFF, 0x16000000, 0x17FFFFFF,
      0x18000000, 0x18001FFF, 0x18002000, 0x1FFFFFFF, 0x20000000, 0x20007FFF, 0x20008000, 0xFFFFFFFF].map fun x =>
        s.memCode 0 x 1 false) =
    [none, none, some 3, none, none, some 3, some 2, some 2, some 1, some 1, some 4, some 4,
      none, none, some 5, some 5, some 6, some 6, some 1, some 1] := by decide +kernel

/-! ### Witnesses: fences, waits, barriers and matrix instructions -/

/-- A store of the wave is still queued. -/
def storing (s : State) : State :=
  let o : MemOp := { MemOp.blank with wave := 0, cls := some .store }
  let a : Acc := { op := 0, wave := 0, kind := .store, space := .shared, width := 4, lanes := [⟨0, 0x100, [1, 2, 3, 4]⟩] }
  { s with ops := [o], accs := [a] }

theorem witness_FencesAndWaits : let s := put (handled base) [(7, .u 0x1000)]
    s.ready 0 [7, 8, 9] = true ∧
    (s.issuedBefore 0 s.ops.length).all (fun x => !(x.kind.isStore && x.kind != .start && !x.isOver)) = true ∧
    (storing s).ready 0 [7, 8, 9] = true ∧
    ((storing s).issuedBefore 0 (storing s).ops.length).any (fun x => x.kind.isStore && x.kind != .start && !x.isOver) = true ∧
    (s.wave 0).ql ≤ 0 ∧ (crowded s).ready 0 [7, 8, 9] = true ∧ ¬ (24 ≤ 0 ∨ ((crowded s).wave 0).ql ≤ 0) ∧
    s.memCode 0 (((s.wave 0).reg 7).lane (s.wave 0).l0).toNat 8 false = none ∧
    spaceOf (((s.wave 0).reg 7).lane (s.wave 0).l0).toNat ≠ .spill := by decide +kernel

/-- A second wave of the block, on the next slot. -/
def two : State :=
  ({ handled base with waves := [(handled base).wave 0, { (handled base).wave 0 with idx := 1, slot := 1 }] } : State).modBlock 0
    fun b => { b with waves := [0, 1] }

/-- The first wave holds a token of barrier 3. -/
def token (p : Nat) : State := two.modWave 0 fun w => { w with tokens := [(3, p)] }

theorem witness_BarrierInstructions : two.ready 0 [] = true ∧ (two.wave 0).suspended = none ∧ (two.wave 0).token 3 = none ∧
    two.canTrap 0 0x400 [] = true ∧ (token 0).ready 0 [] = true ∧ ((token 0).wave 0).suspended = none ∧
    ((token 0).wave 0).token 3 = some 0 ∧ ((token 0).waveBlock 0).phaseOf 3 ≤ 0 ∧ (token 0).canTrap 0 0x400 [] = true ∧
    (1 ∈ (token 0).living ((token 0).wave 0).blk ∧ ((token 0).wave 1).state ≠ .bar) ∧
    (let s := (token 0).modBlock 0 fun b => { b with phase := b.phase.set 3 1 }
     s.ready 0 [] = true ∧ (s.wave 0).token 3 = some 0 ∧ 0 < (s.waveBlock 0).phaseOf 3) := by decide +kernel

/-- A wave of 32 lanes whose v5 names rows in lanes 0 to 15 and destinations in lanes 16 to 31. -/
def listing : State :=
  put ((handled base).modWave 0 fun w => { w with pm := 0xFFFFFFFF, k := w.k.set 0 0xFFFFFFFF })
    [(5, .v ((List.range 32).map fun i => BitVec.ofNat 32 (64 * i)))]

theorem witness_MatrixIssues : let s := listing.modCluster 0 fun c => { c with guard := .held }
    let w := s.wave 0
    s.ready 0 (block8 2 ++ block8 4 ++ block8 5 ++ [2, 3]) = true ∧ w.room (block8 2) = true ∧ w.qt < 4 ∧
    s.stageFull w.part = false ∧ (s.cluster w.cluster).guard = .held ∧
    s.ready 0 (block8 2 ++ block8 4 ++ [5]) = true ∧ w.logRoom (w.countV [5]) = true ∧ w.slots.length = w.qw ∧
    (let all := ((List.range 32).map fun l => (l, if bit w.pm l then ((w.reg 5).lane l).toNat else 0xFFFFFFFF)).filter
       fun x => x.2 != 0xFFFFFFFF
     all.length = 32 ∧ ∀ x ∈ all, s.memCode 0 x.2 64 false = none ∧ spaceOf x.2 = .shared) := by decide +kernel

/-! ### Decoding: the words of the encoding tables, written out from them -/

/-- The word decodes to the instruction. -/
def reads (w : Word) (i : Instr) : Bool := match decode w with
  | .ok j => j == i
  | .error _ => false

theorem test_decode_control :
    ([(0x01000000, .nop), (0x025EBCDE, .br 11 0x6bcde), (0x03009000, .jmp 36), (0x0449ABCD, .call 36 0x1abcd),
      (0x05009000, .ret 36), (0x06000000, .exit), (0x070000A7, .trap 0xa7), (0x08ABCDE5, .sleep 0xabcde5),
      (0x09000321, .mode 0x321), (0x0A48001B, .sreg 36 27), (0x0B009005, .sset 36 5), (0x0C000000, .tret),
      (0x0D000000, .retry), (0x0E000000, .skip), (0x0F48002B, .trd 36 43)] : List (Word × Instr)).all (fun x => reads x.1 x.2) = true := by
  decide +kernel

theorem test_decode_arith_1 :
    ([(0x104920A0, .add 36 72 20), (0x114920A0, .sub 36 72 20), (0x124920A0, .mul 36 72 20), (0x134920A0, .mulhi 36 72 20),
      (0x144920A0, .fma 36 72 20), (0x154920A0, .fms 36 72 20), (0x164920A0, .fnma 36 72 20), (0x174920A0, .min 36 72 20),
      (0x184920A0, .max 36 72 20), (0x19492000, .abs 36 72), (0x1A492000, .neg 36 72), (0x1B4920A0, .and 36 72 20),
      (0x1C4920A0, .or 36 72 20), (0x1D4920A0, .xor 36 72 20), (0x1E4920A0, .andn 36 72 20), (0x1F492000, .not 36 72),
      (0x204920A0, .shl 36 72 20), (0x214920A0, .shr 36 72 20), (0x224920A0, .sra 36 72 20), (0x234920A0, .rol 36 72 20)] : List (Word × Instr)).all (fun x => reads x.1 x.2) = true := by
  decide +kernel

theorem test_decode_arith_2 :
    ([(0x244920A0, .bfe 36 72 20), (0x254920A0, .bfi 36 72 20), (0x26492000, .popc 36 72), (0x27492000, .clz 36 72),
      (0x28492255, .addi 36 72 0x255), (0x29492255, .andi 36 72 0x255), (0x2A492255, .ori 36 72 0x255),
      (0x2B492255, .xori 36 72 0x255), (0x2C49ABCD, .li 36 0x1abcd), (0x2D48BEEF, .lih 36 0xbeef),
      (0x2E49200B, .shli 36 72 11), (0x2F49200B, .shri 36 72 11), (0x3049200B, .srai 36 72 11), (0x31492000, .brev 36 72),
      (0x324920A1, .sel 36 72 20 1), (0x33492000, .mov 36 72)] : List (Word × Instr)).all (fun x => reads x.1 x.2) = true := by
  decide +kernel

theorem test_decode_mask_1 :
    ([(0x501320A0, .cmpEq 9 72 20), (0x501320A1, .cmpNe 9 72 20), (0x501320A2, .cmpLt 9 72 20), (0x501320A3, .cmpLe 9 72 20),
      (0x501320A4, .cmpGt 9 72 20), (0x501320A5, .cmpGe 9 72 20), (0x501320A6, .cmpOrd 9 72 20),
      (0x511320A0, .cmpEqU 9 72 20), (0x511320A1, .cmpNeU 9 72 20), (0x511320A2, .cmpLtU 9 72 20),
      (0x511320A3, .cmpLeU 9 72 20), (0x511320A4, .cmpGtU 9 72 20), (0x511320A5, .cmpGeU 9 72 20),
      (0x511320A6, .cmpUno 9 72 20), (0x5296D000, .kand 9 6 13), (0x5396D000, .kor 9 6 13), (0x5496D000, .kxor 9 6 13),
      (0x55960000, .knot 9 6), (0x5696D000, .kandn 9 6 13), (0x57960000, .kmov 9 6)] : List (Word × Instr)).all (fun x => reads x.1 x.2) = true := by
  decide +kernel

theorem test_decode_mask_2 :
    ([(0x58900900, .kset 9 72), (0x59060480, .kget 36 6), (0x5A060480, .kpop 36 6), (0x5B060480, .kfirst 36 6),
      (0x5C096000, .ktest 9 6)] : List (Word × Instr)).all (fun x => reads x.1 x.2) = true := by
  decide +kernel

theorem test_decode_shape_1 :
    ([(0x60492000, .shape 36 72), (0x61009002, .sassert 36 2), (0x62480000, .sforce 36), (0x63480000, .scompact 36),
      (0x64480000, .lane 36), (0x654920A0, .perm 36 72 20), (0x664920A0, .lmoveLo 36 72 20), (0x664920A1, .lmoveHi 36 72 20),
      (0x664920A2, .lmoveFlip 36 72 20), (0x664920A3, .lmoveRot 36 72 20), (0x674920A0, .bcast 36 72 20),
      (0x68492000, .qswapH 36 72), (0x68492001, .qswapV 36 72), (0x68492002, .qswapD 36 72), (0x69090000, .helper 9),
      (0x6A492000, .reduxAdd 36 72), (0x6A492001, .reduxMin 36 72), (0x6A492002, .reduxMax 36 72),
      (0x6A49200B, .reduxAddn 36 72 1), (0x6B492000, .scanAdd 36 72)] : List (Word × Instr)).all (fun x => reads x.1 x.2) = true := by
  decide +kernel

theorem test_decode_shape_2 :
    ([(0x6B492009, .scanAddn 36 72 1)] : List (Word × Instr)).all (fun x => reads x.1 x.2) = true := by
  decide +kernel

theorem test_decode_convert_1 :
    ([(0x70492000, .rcp 36 72), (0x70492001, .rsq 36 72), (0x70492002, .sqrt 36 72), (0x70492003, .ex2 36 72),
      (0x70492004, .lg2 36 72), (0x70492005, .sinpi 36 72), (0x70492006, .cospi 36 72), (0x70492007, .tanh 36 72),
      (0x71492000, .cvtF32I32 36 72), (0x71492001, .cvtF32U32 36 72), (0x71492002, .cvtI32F32 36 72),
      (0x71492003, .cvtU32F32 36 72), (0x71492004, .cvtF32F16 36 72), (0x71492005, .cvtF32F16h 36 72),
      (0x714920A6, .cvtF16x2F32 36 72 20), (0x72492000, .cvtF64F32 36 72), (0x72492001, .cvtF32F64 36 72),
      (0x72492002, .cvtF64I32 36 72), (0x72492003, .cvtI32F64 36 72), (0x72492004, .cvtF64U32 36 72)] : List (Word × Instr)).all (fun x => reads x.1 x.2) = true := by
  decide +kernel

theorem test_decode_convert_2 :
    ([(0x72492005, .cvtU32F64 36 72), (0x734920A2, .scl 36 72 20 2), (0x804920A0, .dot4I8 36 72 20),
      (0x804920A1, .dot4U8 36 72 20), (0x804920A2, .dot8I4 36 72 20), (0x814920A2, .dot4F8 36 72 20 2),
      (0x824920A0, .dot8F4 36 72 20), (0x834920A0, .cvtE4m3F32 36 72 20), (0x834920A1, .cvtE5m2F32 36 72 20),
      (0x834920A2, .cvtE2m1F32 36 72 20), (0x834920A3, .cvtBf16x2F32 36 72 20), (0x844920A0, .cvtF32E4m3 36 72 20),
      (0x844920A1, .cvtF32E5m2 36 72 20), (0x844920A2, .cvtF32E2m1 36 72 20), (0x844920A3, .cvtF32Bf16x2 36 72 20),
      (0x85492001, .t3x 36 72 1), (0x86492001, .t3pk 36 72 1)] : List (Word × Instr)).all (fun x => reads x.1 x.2) = true := by
  decide +kernel

theorem test_decode_memory_1 :
    ([(0x90492255, .lds32 36 72 0x255), (0x91492255, .lds64 36 72 0x255), (0x92492255, .lds8 36 72 0x255),
      (0x93492255, .lds16 36 72 0x255), (0x94492255, .ldx32 36 72 0x255), (0x95492255, .ldx64 36 72 0x255),
      (0x96492255, .ldx8 36 72 0x255), (0x97492255, .ldx16 36 72 0x255), (0x98492255, .lds128 36 72 0x255),
      (0x99492255, .ldx128 36 72 0x255), (0x9A492255, .sts32 36 72 0x255), (0x9B492255, .sts64 36 72 0x255),
      (0x9C492255, .sts8 36 72 0x255), (0x9D492255, .sts16 36 72 0x255), (0x9E492255, .stx32 36 72 0x255),
      (0x9F492255, .stx64 36 72 0x255), (0xA0492255, .stx8 36 72 0x255), (0xA1492255, .stx16 36 72 0x255),
      (0xA2492255, .sts128 36 72 0x255), (0xA3492255, .stx128 36 72 0x255)] : List (Word × Instr)).all (fun x => reads x.1 x.2) = true := by
  decide +kernel

theorem test_decode_memory_2 :
    ([(0xA4480155, .spill 36 0x155), (0xA5480155, .fill 36 0x155), (0xA64920A1, .atomAdd 36 72 20 1),
      (0xA74920A1, .atomFadd 36 72 20 1), (0xA84920A1, .atomMin 36 72 20 1), (0xA94920A1, .atomMax 36 72 20 1),
      (0xAA4920A1, .atomAnd 36 72 20 1), (0xAB4920A1, .atomOr 36 72 20 1), (0xAC4920A1, .atomXor 36 72 20 1),
      (0xAD4920A1, .atomXchg 36 72 20 1), (0xAE4920A1, .atomCas 36 72 20 1), (0xAF4920A1, .atomInc 36 72 20 1)] : List (Word × Instr)).all (fun x => reads x.1 x.2) = true := by
  decide +kernel

theorem test_decode_sync :
    ([(0xB0000003, .fence 3), (0xB1000002, .pfence 2), (0xB2000000, .pckpt), (0xB3000013, .meet 19), (0xB4000013, .arrive 19),
      (0xB5000013, .await 19), (0xB6009241, .waitc 36 72 1), (0xB7492009, .ldsAcq 36 72 1 1),
      (0xB7492049, .ldxAcq 36 72 1 1), (0xB899B480, .wait 19 6 13 1), (0xB90720A1, .stsRel 3 72 20 1),
      (0xB91720A1, .stxRel 3 72 20 1)] : List (Word × Instr)).all (fun x => reads x.1 x.2) = true := by
  decide +kernel

theorem test_decode_matrix :
    ([(0xC096D002, .mmaF8 9 6 13 2), (0xC196D002, .mmaI8 9 6 13 2), (0xC296D000, .mmaBf16 9 6 13),
      (0xC396D000, .mmaF16 9 6 13), (0xC496DC12, .mmaMxf8 9 6 13 96 2 2), (0xC596DC10, .mmaMxf4 9 6 13 96 2),
      (0xC6900000, .mmz 9), (0xC7906282, .gmma 9 6 20 2), (0xD0000024, .vclaim 36), (0xD1000024, .vrel 36),
      (0xD2492000, .launch 36 72), (0xD3000002, .rcmode 2), (0xD4000000, .iinv), (0xD500BEEF, .brk 0xbeef),
      (0xD6000000, .trcStop), (0xD6000001, .trcStart), (0xD6000002, .trcSync), (0xD7480000, .rdclk 36)] : List (Word × Instr)).all (fun x => reads x.1 x.2) = true := by
  decide +kernel

theorem test_decode_portable :
    ([(0xF04920A0, .xperm 36 72 20), (0xF14920A0, .xbcast 36 72 20), (0xF2492000, .xreduxAdd 36 72),
      (0xF2492001, .xreduxMin 36 72), (0xF2492002, .xreduxMax 36 72), (0xF3492000, .xscan 36 72),
      (0xF4481801, .xballot 36 6 1), (0xF5480000, .xwidth 36)] : List (Word × Instr)).all (fun x => reads x.1 x.2) = true := by
  decide +kernel

/-! ### Well-formedness: an ill-formed term for each check -/

theorem test_illFormed_words :
    ([.br 13 0, .mode 0x1000, .mode 0x0070, .sreg 1 0x00B, .sset 1 0x01C, .sreg 1 0x026, .sassert 1 3, .reduxAddn 1 125 3,
      .scanAddn 1 125 3, .scanAddn 125 1 3, .cvtF64F32 3 2, .cvtF32F64 2 3, .cvtF64I32 3 2, .cvtI32F64 2 3, .cvtF64U32 3 2,
      .cvtU32F64 2 3, .t3x 2 3 5, .t3pk 2 3 5, .lds64 3 2 0, .ldx64 3 2 0, .lds128 2 3 0, .ldx128 2 3 0, .sts64 3 2 0,
      .stx64 3 2 0, .sts128 2 3 0, .stx128 2 3 0] : List Instr).all (fun i => !i.wellFormed) = true := by decide +kernel

theorem test_illFormed_sync :
    ([.atomAdd 1 2 3 5, .atomFadd 1 2 3 5, .atomMin 1 2 3 5, .atomMax 1 2 3 5, .atomAnd 1 2 3 5, .atomOr 1 2 3 5,
      .atomXor 1 2 3 5, .atomXchg 1 2 3 5, .atomCas 1 2 3 5, .atomInc 1 2 3 5, .fence 5, .pfence 3, .waitc 1 3 0, .waitc 1 2 5,
      .ldsAcq 1 2 5 0, .ldsAcq 1 2 3 0, .ldxAcq 2 2 4 0, .ldxAcq 1 2 2 5, .stsRel 5 2 1 0, .stsRel 3 2 1 0, .stxRel 4 2 2 0,
      .stxRel 2 2 1 5, .mmaMxf8 1 2 3 5 0 0, .mmaMxf4 1 2 3 5 0, .rcmode 0, .rdclk 3] : List Instr).all
        (fun i => !i.wellFormed) = true := by decide +kernel

theorem test_illFormed_calls :
    ([.start 65 0 0 0, .start 0 0 0 65536, .signal 65 0 0, .status 65 0, .attest 65 0 (List.replicate 32 0),
      .attest 0 64 (List.replicate 32 0), .attest 0 0 [], .recovered 65, .launchSystemCall 24, .launchWait 24, .launchCancel 24,
      .launchTime 24, .queueOpen 24, .queueClose 24, .bundleLoad 24, .bundleUnload 24, .kernelFind 24, .map 24, .unmap 24,
      .discard 24, .raceConfig 24, .traceConfig 24, .requeue 24] : List Instr).all (fun i => !i.wellFormed) = true := by
  decide +kernel

theorem test_illFormed_units :
    ([.faultService 2 0 none, .tlbInvalidate 2 0 0, .tlbInvalidate 0 4 0, .eviction 2, .linkDown 72, .bellowsWindow 12, .railStep 12,
      .clockStep 12, .guardRelease 12, .budgetLease [], .hbmSensorRead 8 0, .tallowUpdate 2 0 0, .tallowUpdate 0 96 0,
      .focusStep 0 32, .selectSlot 2, .systemCoreAccess 24 (.locn 5), .cxlMemRequest 64 0 none 0,
      .resourceDescriptorRequest 64 { cores := [] }] : List Instr).all (fun i => !i.wellFormed) = true := by decide +kernel

/-- The neighbours of some of those that the checks let pass. -/
theorem test_wellFormed :
    ([.br 12 0, .mode 0x0F6F, .sreg 1 0x00A, .sset 1 0x01B, .sassert 1 2, .reduxAddn 1 124 3, .scanAddn 124 124 3, .cvtF64F32 2 3,
      .t3x 2 3 4, .lds64 2 3 0, .lds128 4 3 0, .atomAdd 1 2 3 4, .fence 4, .pfence 2, .waitc 1 2 4, .ldsAcq 4 2 4 4, .stxRel 3 2 2 0,
      .mmaMxf8 1 2 3 4 0 0, .rcmode 1, .rdclk 2, .drain 1 0, .placeBlock 0 1 5 [0, 15], .tagSweep 1 31, .claimGrant ⟨1, 95, 15⟩,
      .start 64 0 0 4095, .launchSystemCall 23, .queueOpen 0, .map 23, .linkDown 71, .bellowsWindow 11,
      .focusStep 0 31, .selectSlot 1] : List Instr).all Instr.wellFormed = true := by decide +kernel

/-! ### Witnesses: encoding, steps and invariants -/

/-- The outcome is a next state. -/
def isNext (o : Host.Outcome State Fault Refusal) : Bool := match o with
  | .next _ => true
  | _ => false

theorem exists_of_isNext {o : Host.Outcome State Fault Refusal} (h : isNext o = true) : ∃ t, o = .next t := by
  cases o with
  | next t => exact ⟨t, rfl⟩
  | fault f => simp [isNext] at h
  | refused r => simp [isNext] at h

/-- The memory in what a Felt version holds is in form. -/
def snapB (x : Option Snapshot) : Bool := match x with
  | some (.wave w) => w.spill.wf
  | some (.block b) => b.shared.wf
  | none => true

theorem memOk_of_snapB {o : Option Snapshot} (h : snapB o = true) : ∀ x, o = some x → x.memOk := by
  rintro x rfl
  cases x <;> simpa [snapB, Snapshot.memOk] using h

/-- The memories of a state are in form. -/
def memB (s : State) : Bool :=
  s.dies.all (fun d => d.scratch.wf && d.hbm.wf && d.felt.all fun l => snapB l.snapA && snapB l.snapB) &&
    s.blocks.all (fun b => b.shared.wf) && s.waves.all (fun w => w.spill.wf) && s.vis.all (fun v => v.hdm.wf) && s.hostMem.wf &&
    s.procs.all fun p => p.mem.wf

theorem memOk_of_memB {s : State} (h : memB s = true) : s.memOk := by
  simp only [memB, Bool.and_eq_true, List.all_eq_true] at h
  obtain ⟨⟨⟨⟨⟨hd, hb⟩, hw⟩, hv⟩, hh⟩, hp⟩ := h
  exact ⟨fun d m => ⟨(hd d m).1.1, (hd d m).1.2, fun l hl =>
    ⟨memOk_of_snapB ((hd d m).2 l hl).1, memOk_of_snapB ((hd d m).2 l hl).2⟩⟩, hb, hw, hv, hh, hp⟩

/-- A state without Felt lines whose waves have their shape. -/
def wavesB (s : State) : Bool :=
  s.dies.all (fun d => d.felt.isEmpty) && s.waves.all fun w =>
    decide (w.regs.length = 128 ∧ w.k.length = 16 ∧ w.sb.length = 64 ∧ w.path.length ≤ 16)

theorem wavesOk_of_wavesB {s : State} (h : wavesB s = true) : s.wavesOk := by
  simp only [wavesB, Bool.and_eq_true, List.all_eq_true, List.isEmpty_iff, decide_eq_true_eq] at h
  exact ⟨h.2, fun d m l hl => by rw [h.1 d m] at hl; cases hl⟩

/-- Every cluster in its range, with no clock step under way. -/
def powerB (s : State) : Bool := s.clusters.all fun c =>
  decide (c.vcode ≤ 32 ∧ c.pass ≤ 2 ∧ c.floor ≤ 2 ∧ 14 ≤ c.step ∧ c.step ≤ 20 ∧ c.clockTo = none ∧ c.clockWant = none)

theorem powerOk_of_powerB {s : State} (h : powerB s = true) : s.powerOk := by
  simp only [powerB, List.all_eq_true, decide_eq_true_eq] at h
  intro c m
  obtain ⟨h1, h2, h3, h4, h5, h6, h7⟩ := h c m
  exact ⟨h1, h2, h3, ⟨h4, h5⟩, fun f hf => by simp [h6] at hf, fun f hf => by simp [h7] at hf⟩

/-- The first state of a program: the next turn issues `add v3, v1, v2`. -/
def started : State := State.reset.withFetchWord 32 0x10060410

theorem witness_EncodeDecodes : (Instr.mmaMxf8 1 2 3 4 1 0).wellFormed = true ∧ (Instr.mmaMxf8 1 2 3 4 1 0).hasWord = true := by
  decide +kernel

theorem witness_DecodesOnce : decode 0x85040403 = .ok (.t3x 2 1 3) := rfl

/-- The machine when its first turn starts: the partition's issue slot is taken. -/
def turn : State :=
  let s1 := elapse { started with agenda := [] } 0
  s1.modPart ⟨0, 0, 0⟩ fun x => { x with lastIssue := some (s1.partClk ⟨0, 0, 0⟩) }

theorem witness_StepRunsDecoded_issue : started.agenda = [⟨0, .issue ⟨0, 0, 0⟩⟩] ∧
    (let s1 := elapse { started with agenda := [] } 0
     (s1.part ⟨0, 0, 0⟩).lastIssue ≠ some (s1.partClk ⟨0, 0, 0⟩)) ∧
    installDue (tilesDue turn ⟨0, 0, 0⟩) ⟨0, 0, 0⟩ = turn ∧
    refreshWave turn 0 = turn ∧ turn.residents ⟨0, 0, 0⟩ = [0] ∧ (turn.wave 0).running = true ∧ turn.issueStopped 0 = false ∧
    (turn.wave 0).pc.toNat < (turn.waveKernel 0).codelen ∧
    (let w := turn.wave 0
     let k := turn.waveKernel 0
     let l := turn.waveLaunch 0
     (fetchWord turn l.vi w.part.die w.part.core l.asid (k.code.getD w.part.die 0 + w.pc.toNat)).2 = some 0x10060410) ∧
    decode 0x10060410 = .ok (.add 3 1 2) :=
  ⟨rfl, by decide +kernel, rfl, rfl, by decide +kernel, by decide +kernel, by decide +kernel, by decide +kernel,
    by decide +kernel, rfl⟩

theorem witness_StepRunsDecoded_after :
    let s := turn.modWave 0 fun w => { w with unissued := true }
    (s.wave 0).unissued = true ∧ (turn.wave 0).unissued = false ∧ (turn.wave 0).stepping = false := by decide +kernel

/-- The address of the program's first line, in the space of its launch. -/
def codeAt : Nat := ((started.waveKernel 0).code.getD 0 0)

theorem witness_StepRunsDecoded_fetch : codeAt % 4 = 0 ∧
    (started.core 0 0).fetch.find? (fun b => b.asid == (started.waveLaunch 0).asid && b.va == codeAt / 32 * 32) = none ∧
    (translate started 0 (started.waveLaunch 0).asid (codeAt / 32 * 32) .fetch).2 = .frame 0x6000 false := by decide +kernel

/-- The same machine with an event next. -/
def withEvent (i : Instr) : State := { started with agenda := [⟨0, .event i⟩] }

theorem witness_StepRunsDecoded_event : (withEvent (.linkDown 5)).agenda = [⟨0, .event (.linkDown 5)⟩] ∧
    (Instr.linkDown 5).isEvent = true ∧ (Instr.linkDown 5).wellFormed = true ∧
    ∃ t, exec (.linkDown 5) (elapse { withEvent (.linkDown 5) with agenda := [] } 0) = .next t :=
  ⟨rfl, by decide +kernel, by decide +kernel, exists_of_isNext (by decide +kernel)⟩

theorem witness_MemKept : started.memOk ∧ ∃ t, step started = .next t :=
  ⟨memOk_of_memB (by decide +kernel), exists_of_isNext (by decide +kernel)⟩

theorem witness_WavesKept : started.wavesOk ∧ started.waves ≠ [] ∧ ∃ t, step started = .next t :=
  ⟨wavesOk_of_wavesB (by decide +kernel), by decide +kernel, exists_of_isNext (by decide +kernel)⟩

theorem witness_PowerKept : (withEvent (.linkDown 5)).powerOk ∧ ∃ t, step (withEvent (.linkDown 5)) = .next t :=
  ⟨powerOk_of_powerB (by decide +kernel), exists_of_isNext (by decide +kernel)⟩

theorem witness_ShapeKept : started.shapeOk ∧ ∃ t, step started = .next t :=
  ⟨by unfold State.shapeOk; decide +kernel, exists_of_isNext (by decide +kernel)⟩

/-! ### Witnesses: steps of the ordering machine -/

/-- One access of the wave, and the operation it belongs to. -/
def acting (o : MemOp) (a : Acc) : State := { handled base with ops := [o], accs := [a] }.modWave 0 fun w =>
  { w with ql := 1, qs := 1, qx := 1, pend := o.dst }

/-- Operations of the two classes that write no register, or v20. -/
def storeOp : MemOp := { MemOp.blank with wave := 0, cls := some .store, counted := 1 }
def loadOp : MemOp :=
  { MemOp.blank with wave := 0, cls := some .load, counted := 1, dst := [20], guard := 0xFFFFFFFF, atom := some 0 }

/-- A store of four bytes to 0x100 of shared memory, or elsewhere. -/
def oneStore : Acc :=
  { op := 0, wave := 0, kind := .store, space := .shared, width := 4, lanes := [⟨0, 0x100, [1, 2, 3, 4]⟩] }
def argStore : Acc := { oneStore with kind := .arg, space := .aperture, lanes := [⟨0, 0x20000004, [1, 2, 3, 4]⟩] }
def startStore : Acc := { oneStore with kind := .start, space := .aperture, lanes := [⟨0, 0x20000040, [1, 0, 0, 0]⟩] }
def engineStore : Acc := { oneStore with kind := .engine, st := .module_, dest := .main, lanes := [⟨0, 0x9000, [1, 2]⟩] }

theorem witness_StoresLand :
    (acting storeOp argStore).memOk ∧ (acting storeOp startStore).memOk ∧ (acting storeOp oneStore).memOk ∧
    (acting storeOp engineStore).memOk ∧
    ((acting storeOp argStore).mayLeave 0 = true ∧ (acting storeOp startStore).mayLeave 0 = true) ∧
    (let s := acting storeOp { oneStore with space := .scratch, lanes := [⟨0, 0x10000000, [1, 2, 3, 4]⟩] }
     s.mayLeave 0 = true) ∧
    (let s := acting storeOp oneStore
     let h := s.homeOf 0 .shared
     s.mayLeave 0 = true ∧ s.homeOk h = true ∧ (s.op 0).race = .off ∧ s.rangeCheck h (s.acc 0).lanes = none) ∧
    (let s := acting storeOp { oneStore with st := .block }
     let h := s.homeOf 0 .shared
     s.homeOk h = true ∧ (s.op 0).race = .off ∧ s.rangeCheck h (s.acc 0).lanes = none ∧
     ∀ b ∈ s.accs, b.st = .block → (s.wave b.wave).blk = (s.wave 0).blk → b.entered < 0 → b.overlaps (s.acc 0) = false) ∧
    ((acting storeOp engineStore).acc 0).die < (acting storeOp engineStore).dies.length :=
  ⟨memOk_of_memB (by decide +kernel), memOk_of_memB (by decide +kernel), memOk_of_memB (by decide +kernel),
    memOk_of_memB (by decide +kernel), by decide +kernel⟩

/-- Loads of four bytes of two lanes, of a counter, and atomics of one lane and of two lanes on one word. -/
def oneLoad : Acc := { oneStore with kind := .load, lanes := [⟨0, 0x100, []⟩, ⟨3, 0x104, []⟩] }
def counterLoad : Acc := { oneStore with kind := .counter, width := 8, lanes := [⟨0, 0x140, []⟩] }
def oneAtomic : Acc := { oneStore with kind := .atomic, lanes := [⟨0, 0x100, wordLe 5 ++ wordLe 0⟩] }
def twoAtomics : Acc :=
  { oneStore with kind := .atomic, lanes := [⟨0, 0x100, wordLe 5 ++ wordLe 0⟩, ⟨3, 0x100, wordLe 7 ++ wordLe 0⟩] }

/-- The operation of an access that nothing of the race mode or a mark holds, and whose one load it is. -/
def Sole (s : State) : Prop :=
  let o := s.op 0
  let a := s.acc 0
  (o.race = .off ∧ s.softCheck (s.homeOf 0 .shared) a.lanes = none) ∧
    (s.opAccs 0 = [a] ∧ o.cls = some .load ∧ o.wave = 0 ∧ o.got = [] ∧ o.voided = false ∧ o.uniform = false ∧ o.dst.Nodup ∧
      0 < s.ops.length ∧ 0 < s.waves.length ∧ (s.wave 0).regs.length = 128 ∧ (a.lanes.map LaneAcc.lane).Nodup)

theorem witness_LoadsLand_loads :
    (acting loadOp oneLoad).memOk ∧
    (let s := acting loadOp oneLoad
     s.mayLoad 0 = true ∧ s.allPresent 0 = true ∧ Sole s) ∧
    (let s := (acting loadOp oneLoad).modBlock 0 fun b => { b with absent := [4] }
     s.mayLoad 0 = true ∧ s.allPresent 0 = false ∧ (s.wave 0).stop = .run) ∧
    (let s := (acting loadOp counterLoad).modWave 0 fun w => { w with stop := .waitc 0 0 }
     s.mayLoad 0 = true ∧ s.allPresent 0 = true ∧ (s.wave 0).stop = .waitc 0 0 ∧
     leNat ((List.range 8).map fun j => s.seen 0 (s.homeOf 0 .shared) (0x140 + j)) = 0) ∧
    (acting loadOp { oneLoad with st := .arrived }).powered 0 = true :=
  ⟨memOk_of_memB (by decide +kernel), by unfold Sole; decide +kernel, by decide +kernel, by decide +kernel, by decide +kernel⟩

theorem witness_LoadsLand_atomics :
    (acting loadOp oneAtomic).memOk ∧ (acting loadOp twoAtomics).memOk ∧
    (∀ s ∈ [acting loadOp oneAtomic, acting loadOp twoAtomics],
      s.mayAtomic 0 = true ∧ s.allPresent 0 = true ∧ (s.op 0).atom = some 0 ∧
      s.rangeCheck (s.homeOf 0 .shared) (s.acc 0).lanes = none ∧ s.homeOk (s.homeOf 0 .shared) = true ∧
      ((List.range 4).map fun j => s.place (s.homeOf 0 .shared) (0x100 + j)).Nodup) ∧
    Sole (acting loadOp oneAtomic) ∧ Sole (acting loadOp twoAtomics) ∧
    (acting loadOp { oneAtomic with st := .arrived }).powered 0 = true :=
  ⟨memOk_of_memB (by decide +kernel), memOk_of_memB (by decide +kernel), by decide +kernel, by unfold Sole; decide +kernel,
    by unfold Sole; decide +kernel, by decide +kernel⟩

/-- A write of a line is pending, and the line has one good version. -/
def pendingWrite : PWrite :=
  { seq := 3, key := .shared 0 4, data := List.replicate 64 7, kind := 0, owner := some 0, wave := some 0, blk := some 0 }
def oldVersion : FeltSlot :=
  let x : FeltSlot := { seq := 9, gen := 0, kind := 0, owner := some 0, data := List.replicate 64 1, crc := 0 }
  { x with crc := crc32c (slotBytes x.data x.seq x.gen x.kind x.owner) }
def draining : State := base.modDie 0 fun d =>
  { d with persist := [pendingWrite], felt := [{ key := .shared 0 4, a := some oldVersion }] }

theorem witness_DrainsInOrder : (draining.die 0).persist[0]? = some pendingWrite ∧ 0 < draining.dies.length ∧
    (let l := draining.feltLine 0 (.shared 0 4)
     let good (x : Option FeltSlot) : Bool := x.any fun y => y.valid && y.committed draining
     good l.a = true ∧ good l.b = false) ∧
    (let s := draining.modDie 0 fun d => { d with felt := [{ key := .shared 0 4, b := some oldVersion }] }
     let l := s.feltLine 0 (.shared 0 4)
     let good (x : Option FeltSlot) : Bool := x.any fun y => y.valid && y.committed s
     good l.b = true ∧ good l.a = false) := by decide +kernel

/-- The wave has stopped in a way. -/
def stopped (s : State) (x : Stop) : State := s.modWave 0 fun w => { w with stop := x }

/-- It claims registers, and its block's other claims and its pool stand so. -/
def claiming (n : Nat) : State := (stopped (handled base) (.claim n)).modPart ⟨0, 0, 0⟩ fun p => { p with claims := [(0, n)] }

/-- The only wave of its block arrives at barrier 3. -/
def arriving (s : State) : State := s.modWave 0 fun w => { w with arriving := [(3, 0)] }

/-- Every wave of the block waits for its checkpoint. -/
def ckpting : State := (stopped base .pckpt).modBlock 0 fun b => { b with ckpt := [0], ckptSeq := some 0 }

theorem witness_StopsEnd_claims :
    (let s := stopped base (.sleep 0)
     (s.wave 0).stop = .sleep 0 ∧ (s.wave 0).resident = true ∧ 0 ≤ s.waveClk 0 ∧ 0 < s.waves.length) ∧
    (let s := claiming 3
     (s.part ⟨0, 0, 0⟩).claims = [(0, 3)] ∧ 3 ≤ s.poolFree ⟨0, 0, 0⟩) ∧
    (let s := claiming 512
     let p : PartRef := ⟨0, 0, 0⟩
     let w := s.wave 0
     (s.part p).claims.filter (fun c => (s.wave c.1).blk == w.blk) = [(0, 512)] ∧ s.poolFree p < 512 ∧
     (∀ j ∈ s.residents p, (s.wave j).blk = w.blk → (s.wave j).blocked = true) ∧ w.part = p ∧ w.stop = .claim 512 ∧
     w.trapMode = false ∧ w.halted = false ∧ w.exited = false ∧ s.handler 0 = some 0x400) := by decide +kernel

theorem witness_StopsEnd_barriers :
    (let s := arriving two
     (s.wave 0).arriving.find? (s.mayArrive 0) = some (3, 0) ∧ (s.wave 0).ended = false ∧ (s.wave 0).saved = false ∧
     (s.wave 0).blk < s.blocks.length ∧
     ∃ j ∈ s.living (s.wave 0).blk, j ≠ 0 ∧ (s.wave j).state ≠ .bar ∧ j ∉ (s.waveBlock 0).ckpt ∧
      ∀ l ∈ (s.waveBlock 0).arrived, j ∉ l) ∧
    (let s := (stopped (arriving base) (.bar 3 false)).modWave 0 fun w => { w with tokens := [(3, 0)] }
     let b := s.waveBlock 0
     (s.wave 0).arriving.find? (s.mayArrive 0) = some (3, 0) ∧ b.arrived.length = 32 ∧ b.phase.length = 32 ∧
     b.phaseStep = false ∧ (∀ j ∈ s.living (s.wave 0).blk, j = 0 ∨ j ∈ b.arrived.getD 3 []) ∧ b.arrived = List.replicate 32 [] ∧
     s.copies = [] ∧ 0 ∈ b.waves ∧ (s.wave 0).stop = .bar 3 false ∧ (s.wave 0).halted = false ∧
     (s.wave 0).token 3 = some (b.phaseOf 3)) ∧
    (ckpting.mayCheckpoint 0 = true ∧ (ckpting.block 0).die < ckpting.dies.length ∧ (ckpting.block 0).phaseStep = false ∧
      0 ∈ ckpting.living 0 ∧ (ckpting.wave 0).halted = false ∧ (ckpting.wave 0).stop = .pckpt) := by decide +kernel

/-- A tile whose result is due, or that is running. -/
def tiling (fn : TileFn) (st : TileState) (mode : BitVec 16) : State :=
  let zero : Lanes := List.replicate 32 0
  let o : MemOp := { MemOp.blank with wave := 0, cls := some .tile, counted := 1, dst := block8 2, mode := mode }
  let x : Tile :=
    { wave := 0, op := 0, part := ⟨0, 0, 0⟩, fn := fn, d := 2, st := st
      a := List.replicate 8 zero, b := List.replicate 8 zero, c := List.replicate 8 zero }
  { base with ops := [o], tiles := [x] }.modWave 0 fun w => { w with qt := 1, pend := block8 2 }

theorem witness_TilesComplete :
    (∀ s ∈ [tiling (.i8 0) (.due 0) 0, tiling .zero (.due 0) 0],
      let x := s.tile 0
      let o := s.op 0
      x.st = .due 0 ∧ 0 ≤ s.partClk x.part ∧ x.voided = false ∧ x.op < s.ops.length ∧ o.wave = x.wave ∧
      x.wave < s.waves.length ∧ o.cls = some .tile ∧ o.counted = 1 ∧ o.dst = block8 (BitVec.ofNat 4 x.d) ∧
      (s.wave 0).regs.length = 128 ∧ modeTrap o.mode = false ∧ modeSat o.mode = false ∧ s.accs = []) ∧
    (let s := tiling (.i8 0) (.running 0) 0
     s.runningTile ⟨0, 0, 0⟩ = some 0 ∧ (s.tile 0).st = .running 0 ∧ 0 ≤ s.partClk ⟨0, 0, 0⟩) ∧
    (ExecUnit.sfu ≠ .tensor ∧ base.busyUntil ⟨0, 0, 0⟩ .sfu ≤ base.partClk ⟨0, 0, 0⟩ ∧
      0 < (base.core 0 0).parts.length ∧ 0 < base.cores.length) := by decide +kernel

/-! ### Witnesses: copies -/

/-- The state that an event leaves, where it leaves one. -/
def next (f : State → Host.Outcome State Fault Refusal) (s : State) : State := match f s with
  | .next t => t
  | _ => s

/-- A copy of four elements of 16 bytes, of shared memory to shared memory, with its counter at 0x4000. -/
def plainTemplate : Template :=
  { ctrl := 4 * 128 + 1024, src := 0x100, dst := 0x400, count := [4], sstride := [16], dstride := [16], inc := 1, cnt := 0x4000 }

/-- The wave's start of a template waits for its acceptance. -/
def starting (u : Template) : State :=
  let o : MemOp := { MemOp.blank with wave := 0, cls := some .copy, counted := 1 }
  let a : Acc := { startStore with st := .accepting, lanes := [⟨0, 0x20000040, natLe 4 0⟩] }
  ({ acting o a with kernels := (acting o a).kernels.map fun k => { k with tmpls := [[0], []] } } : State).modDie 0 fun d =>
    { d with templates := [u] }

theorem witness_CopiesRun_accept :
    (starting plainTemplate).memOk ∧ (starting { plainTemplate with cnt := 0x4001 }).memOk ∧
    (let s := starting plainTemplate
     let f := plainTemplate.fill (s.wave 0).args
     s.startTemplate 0 = some plainTemplate ∧ plainTemplate.holes = [] ∧ 0 < s.waves.length ∧ (s.acc 0).kind = .start ∧ s.mayAccept 0 plainTemplate.scope = true ∧
     s.startRefusal 0 f true = none ∧ (s.acc 0).late = false ∧ (s.block (s.wave 0).blk).late = [] ∧ s.lockConflict (s.newCopy 0 f) = none ∧ (s.op 0).race = .off ∧ f.mode ≠ .halo ∧
     f.dspace = .shared ∧ (s.wave 0).blk < s.blocks.length) ∧
    (let u : Template := { plainTemplate with cnt := 0x4001 }
     let s := starting u
     let w := s.wave 0
     s.startTemplate 0 = some u ∧ s.mayAccept 0 u.scope = true ∧ (s.startRefusal 0 (u.fill w.args) true).isSome = true ∧
     w.ended = false ∧ w.trapMode = false ∧ w.trapHalt = false ∧ w.trapDue = false ∧ (s.op 0).cls = some .copy ∧
     (s.op 0).wave = 0 ∧ 1 ≤ (s.op 0).counted ∧ w.halted = false ∧ w.exited = false ∧ s.handler 0 = some 0x400) :=
  ⟨memOk_of_memB (by decide +kernel), memOk_of_memB (by decide +kernel), by decide +kernel⟩

/-- The copy is under way; its one line has been moved. -/
def copying : State := next (execAccept 0) (starting plainTemplate)
def copied : State := next (execMove 0 0) copying

theorem witness_CopiesRun_move : copying.memOk ∧
    (let s := copying
     let c := s.copy 0
     0 < s.copies.length ∧ c.st = .active ∧ c.fail = none ∧ s.firstOfChannel 0 = true ∧ c.halo = none ∧ c.bumps = [] ∧
     c.todo[0]? = some (0, 16) ∧ c.t.mode = .copy ∧ c.t.mask = 0 ∧ c.t.sspace ≠ .main ∧ c.t.dspace ≠ .main ∧
     (∀ e ∈ c.t.elems, 0 ≤ e.1 ∧ e.1 < 2 ^ 32 ∧ 0 ≤ e.2 ∧ e.2 < 2 ^ 32) ∧ s.homeOk (c.home c.t.dspace) = true) ∧
    ∀ l, copying.mark ((copying.copy 0).home (copying.copy 0).t.sspace) l = none := by
  refine ⟨memOk_of_memB (by decide +kernel), by decide +kernel, fun l => ?_⟩
  have h : (copying.die (Home.die copying ((copying.copy 0).home (copying.copy 0).t.sspace))).marked = [] := by decide +kernel
  have hu : (copying.die (Home.die copying ((copying.copy 0).home (copying.copy 0).t.sspace))).unwritten = false := by
    decide +kernel
  simp only [State.mark, h, hu, List.find?_nil, Option.map_none, Bool.false_and, Bool.false_eq_true, if_false]
  split <;> simp_all

theorem witness_CopiesRun_complete : copied.memOk ∧
    (let s := copied
     let c := s.copy 0
     let h := c.home c.t.cspace
     0 < s.copies.length ∧ s.mayComplete 0 = true ∧ c.t.cspace ≠ .main ∧ c.t.cnt % 16 = 0 ∧ c.race = .off ∧
     s.openTo c h c.t.cnt = true ∧ s.homeOk h = true ∧ (s.block c.blk).cancelled = false ∧
     ((List.range 12).map fun j => s.place h (c.t.cnt + j)).Nodup ∧ (s.op c.op).cls = some .copy ∧ 1 ≤ (s.op c.op).counted ∧
     (s.op c.op).wave < s.waves.length) :=
  ⟨memOk_of_memB (by decide +kernel), by decide +kernel⟩

/-- A region of host-backed pages of 4 KB, declared, with its walk in the HBM, and the fault of a copy at one of its pages. -/
def paged : State := { base with moduleNo := 0 }.modDie 0 fun d =>
  { d with
    raf := (0, 1, BitVec.ofNat 128 (1 + 4 + 8 + 32 + 64 + 4 * 2 ^ 46 + (2 ^ 18 - 1) * 2 ^ 100)) :: d.raf
    hbm := ((d.hbm.writeN 0x8000 (natLe 8 0x9001)).writeN 0x9000 (natLe 8 0xA001)).writeN 0xA018 (natLe 8 0x10000) }
def faulting : State := { paged with copies := [{ Copy.blank with st := .active, heldOn := [2 ^ 40 + 0x3000] }] }.modDie 0 fun d =>
  { d with faults := [⟨0, 0, 2 ^ 40 + 0x3000, .write, [(0, 2 ^ 40 + 0x3000)]⟩] }

theorem witness_CopiesRun_fault : faulting.memOk ∧ 0 < faulting.dies.length ∧
    (faulting.die 0).faults[0]? = some ⟨0, 0, 2 ^ 40 + 0x3000, .write, [(0, 2 ^ 40 + 0x3000)]⟩ ∧
    (faulting.copy 0).st = .active ∧ (faulting.copy 0).fail = none ∧
    faulting.leafOf 0 0 (2 ^ 40 + 0x3000) = some 0xA018 ∧ faulting.hostPage 0 (2 ^ 40 + 0x3000) = none :=
  ⟨memOk_of_memB (by decide +kernel), by decide +kernel, by decide +kernel, by decide +kernel, by decide +kernel,
    by decide +kernel, by decide +kernel⟩

/-! ### Witnesses: blocks -/

/-- A launch of two blocks of 40 threads, one of them placed, on an interface with twenty cores of die 0. -/
def launching : State :=
  ({ base with
      kernels := base.kernels.map fun k => { k with shared := 4096, spill := 8192, vregs := 8 }
      launches := base.launches.map fun l => { l with gx := 2, threads := 40, next := 1 } } : State).modVi 0 fun v =>
    { v with desc := { v.desc with cores := (List.range 20).map fun c => ⟨0, c⟩ }, queues := v.queues.set 0 ⟨0, true⟩ }

/-- Two blocks placed by the placement event. -/
def placed : State := next (execPlaceBlock 0 0 0 [3]) launching

theorem witness_BlocksRun_place : launching.memOk ∧
    (let s := launching
     s.nextBlock 0 = some (none, 1, 0) ∧ 0 < s.launches.length ∧ s.eligible 0 = true ∧ s.served 0 = true ∧
     s.unreserved 0 0 1 = true ∧ ([3] : List Nat).Nodup ∧ s.slicesFit 0 none 0 (s.freshQuotas 0) [3] = true ∧
     (s.die 0).tags.getD 0 none = none ∧ (s.launch 0).traced = false) ∧
    (placed.block 1).st = .placed ∧ (placed.block 1).waves = [1, 2] :=
  ⟨memOk_of_memB (by decide +kernel), by decide +kernel⟩

/-- The second block, saved. -/
def savedBlock : State := next (execSave 1) (placed.modBlock 1 fun b => { b with preempt := some .save })

theorem witness_BlocksRun_restore : savedBlock.memOk ∧
    (let s := savedBlock
     let b := s.block 1
     b.st = .saved ∧ 5 ≤ s.boot ∧ b.migrate = none ∧ s.outranked b.launch = false ∧ b.waves.Nodup ∧
     s.unreserved 0 b.launch b.lin = true ∧ s.slicesFit b.launch (some 1) 0 (s.savedQuotas 1) [5] = true ∧
     ((s.launch b.launch).tags.getD 0 none).isSome = true ∧
     (∀ wi ∈ b.waves, wi < s.waves.length ∧ (s.wave wi).blk = 1 ∧ (s.wave wi).slice < (s.launch b.launch).slices ∧
      (s.wave wi).saved = true ∧ (s.wave wi).resumeDue = none ∧ (s.wave wi).stop = .run) ∧ b.waves ≠ [])
    := ⟨memOk_of_memB (by decide +kernel), by decide +kernel⟩

/-- A long time has gone by since the launch was queued. -/
def late (ns : Nat) : State := { launching with now := ns * 10 }

theorem witness_BlocksRun_reserve :
    (let s := late 200000
     s.nextBlock 0 = some (none, 1, 0) ∧ s.eligible 0 = true ∧ 0 + 100000 < s.tick ∧ s.reservedFor 0 1 = none ∧
     (s.fewest ((List.range 12).filter fun c => (s.cluster c).reserve.isNone && s.emptyFit 0 c)).isSome = true) ∧
    (let s := (late 20000000).modCluster 1 fun c => { c with reserve := some (0, 1) }
     s.nextBlock 0 = some (none, 1, 0) ∧ s.eligible 0 = true ∧ 0 + 10000000 ≤ s.tick ∧ (s.launch 0).starved ≠ some 1 ∧
     s.reservedFor 0 1 = some 1) := by decide +kernel

/-- Its waves have ended. -/
def isOver : State :=
  ({ base with launches := base.launches.map fun l => { l with gx := 1, gy := 1, gz := 1, next := 1 } } : State).modWave 0 fun w =>
    { w with exited := true }

theorem witness_BlocksRun_ends :
    (let w := isOver.wave 0
     w.resident = true ∧ w.exited = true ∧ w.halted = false ∧ w.ql = 0 ∧ w.qs = 0 ∧ w.qx = 0 ∧ w.qt = 0 ∧
     w.slot < (isOver.core w.part.die w.part.core).slotClk.length) ∧
    (let s := next (execWaveEnd 0) isOver
     let b := s.block 0
     b.st = .placed ∧ b.cancelled = false ∧ b.waves ≠ [] ∧ s.living 0 = [] ∧ s.blockBusy 0 = false ∧
     (s.pendingWrites 0).all (fun w => w.kind != 0) = true ∧ b.phaseStep = false ∧ b.launch < s.launches.length ∧
     (s.launch b.launch).st = .queued ∧ (s.launch b.launch).next = (s.launch b.launch).total ∧
     ∀ i ∈ (s.launch b.launch).blocks, i = 0 ∨ (s.block i).st = .ended) := by decide +kernel

theorem witness_BlocksRun_tag :
    (let s := ({ base with launches := base.launches.map fun l => { l with st := .complete } } : State).modDie 0 fun d =>
       { d with tags := d.tags.set 0 (some 0), wm := [(3, { st := .plain, wid := 5 })] }
     (s.die 0).tags.getD 0 none = some 0 ∧ (s.launch 0).st ≠ .queued ∧ 0 < s.dies.length ∧
     (s.die 0).wm = [(3, { st := .plain, wid := 5 })] ∧ WmState.plain ≠ .lost ∧ WmState.plain ≠ .fresh ∧ 5 / 2 ^ 15 = 0) := by
  decide +kernel

/-- The second block, of a kernel that is expected to take so many microseconds, with this decision about it. -/
def deciding (expect flags : Nat) (p : Option PreemptMode) : State :=
  ({ placed with
      now := 150000, kernels := placed.kernels.map fun k => { k with expect := expect, flags := flags } } : State).modBlock 1
    fun b => { b with preempt := p }

/-- What the clauses of a preemption ask. -/
def undecided (s : State) : Bool :=
  let b := s.block 1
  b.st = .placed && b.waves != [] && b.migrate = none && b.preempt = none &&
    (s.living 1).all (fun wi => !(s.wave wi).halted) && b.waves.all fun wi => !(s.wave wi).noFlush

/-- The time that the block has run, in the units of R239. -/
def ran (s : State) : Nat := s.tick - ((s.block 1).firstPlaced.getD s.tick)

theorem witness_BlocksMove_preempt : placed.memOk ∧
    (∀ x ∈ [(30, 0, true), (1000, 1, false), (1000, 0, false)], let s := deciding x.1 x.2.1 none
      undecided s = true ∧ 1000 * (s.kernel (s.launch (s.block 1).launch).kernel).expect ≠ 0 ∧
      decide (1000 * x.1 - ran s ≤ 20000) = x.2.2 ∧ (x.2.2 = false → 10 * Nat.min (1000 * x.1) (ran s) < 1000 * x.1) ∧
      (s.kernel (s.launch (s.block 1).launch).kernel).idem = (x.2.1 == 1)) ∧
    (let s : State := { deciding 0 0 (some (.drain 3)) with now := 500000 }
     (s.block 1).preempt = some (.drain 3) ∧ (s.block 1).st = .placed ∧ 3 + 40000 ≤ s.tick) ∧
    (let s := deciding 0 0 (some .save)
     s.maySave 1 = true ∧ (s.block 1).waves.Nodup ∧ (∀ wi ∈ (s.block 1).waves, wi < s.waves.length ∧ (s.wave wi).trace.held = [])) ∧
    (let s := deciding 0 0 (some .flush)
     (s.block 1).st = .placed ∧ s.sharedCopiesOver 1 = true ∧ ∀ wi ∈ (s.block 1).waves, wi < s.waves.length) :=
  ⟨memOk_of_memB (by decide +kernel), by decide +kernel⟩

/-- The core of the second block is too hot; a place for it is marked; it has been saved. -/
def hot : State := placed.modCore 0 3 fun c => { c with tallow := 0xFFF0 }
def marked : State := next (execMigration 1 0 [5]) hot

theorem witness_BlocksMove_migrate :
    ((hot.block 1).migrate = none ∧ hot.mayMigrate 1 0 [5] = true) ∧
    (marked.block 1).migrate = some (0, [5]) ∧
    (let s := marked.modCore 0 3 fun c => { c with tallow := 0 }
     (s.block 1).migrate ≠ none ∧ (s.block 1).st = .placed ∧ s.tooHot (s.block 1) = false ∧ (s.block 1).cancelDue = false ∧
     (s.block 1).preemptDue = none) ∧
    (let s := marked.modBlock 1 fun b => { b with ckptSeq := some 3 }
     (s.block 1).st = .placed ∧ s.tooHot (s.block 1) = true ∧ s.noCopies 1 = true ∧ s.maySave 1 = false) ∧
    (let s := next (execSave 1) (marked.modBlock 1 fun b => { b with preempt := some .save })
     (s.block 1).migrate = some (0, [5]) ∧ (s.block 1).st = .saved ∧
     s.slicesFit (s.block 1).launch (some 1) 0 (s.savedQuotas 1) [5] = true ∧ (s.block 1).cancelDue = false ∧
     (s.block 1).preemptDue = none ∧ ∀ wi ∈ (s.block 1).waves, (s.wave wi).resumeDue = none) := by decide +kernel

theorem witness_BlocksMove_gate :
    ((placed.core 0 3).gate = .on ∧ 96 * 0 + 3 < placed.cores.length) ∧
    (let s := next (execManagedPowerGating 0 3) placed
     (s.core 0 3).gate = .gating ∧ s.accs = [] ∧
     ∀ wi ∈ s.coreWaves 0 3, (s.wave wi).ql = 0 ∧ (s.wave wi).qs = 0 ∧ (s.wave wi).qt = 0) ∧
    ((next (execGatingCut 0 3) (next (execManagedPowerGating 0 3) placed)).core 0 3).gate = .gated ∧
    1 ∈ placed.coreWaves 0 3 ∧
    (let s := ({ acting loadOp oneLoad with copies := [] } : State).modBlock 0 fun b => { b with absent := [4] }
     let s := stopped s (.line 0)
     0 ∈ s.coreWaves 0 0 ∧ s.parkedLoad 0 = true) := by decide +kernel

/-! ### Witnesses: power -/

/-- Cluster 2 stands so, long after the end of its last window. -/
def clustered (c : ClusterState) : State :=
  { base with clusters := base.clusters.set 2 { c with winClk := 3, cyc := 100000 } }

/-- One of the three cases of a window holds in every state: which one rests on values that the model leaves free. -/
theorem witness_PowerActs_cases (s : State) (cl : Nat) :
    s.overBudget cl = true ∨ (s.overBudget cl = false ∧ s.underBudget cl = true) ∨
      (s.overBudget cl = false ∧ s.underBudget cl = false) := by
  cases s.overBudget cl <;> cases s.underBudget cl <;> simp

theorem vmin_le (f : Nat) : vmin f ≤ 2 * (f - 10) := Nat.min_le_right _ _

/-- The window of each of these clusters has ended; they are the cases of PASS, of a change under way and of the step. -/
theorem witness_PowerActs_window :
    (∀ c ∈ ([{ pass := 1 }, { pass := 2, clockTo := some 19 }, { pass := 2, vcode := 32 }, { pass := 2, vcode := 0, step := 20 },
        { pass := 2, vcode := 0, step := 14 }, { step := 19, vcode := 32 }, { step := 19, vcode := 0, guard := .held },
        { step := 20, pass := 2 }, { step := 20, pass := 0 }] : List ClusterState),
      ((clustered c).cluster 2).winClk + 64 ≤ (clustered c).clk 2 ∧ 2 < (clustered c).clusters.length) ∧
    (vmin 20 + 0 < 32 ∧ 0 ≤ vmin 20 + 0 ∧ vmin (19 + 1) + 0 ≤ 32 ∧ 0 < vmin (19 + 1) + 1) :=
  ⟨by decide +kernel, Nat.lt_of_le_of_lt (vmin_le 20) (by decide), Nat.zero_le _,
    Nat.le_trans (vmin_le 20) (by decide), Nat.succ_pos _⟩

theorem witness_PowerActs_steps :
    ((clustered { guard := .rising }).cluster 2).guard = .rising ∧
    (let c := (clustered { railUp := 1 }).cluster 2
     c.guard ≠ .rising ∧ c.railUp ≠ 0) ∧
    (let c := (clustered { railDown := 1 }).cluster 2
     c.guard ≠ .rising ∧ c.railUp = 0 ∧ c.railDown ≠ 0) ∧
    ((clustered { clockTo := some 19 }).cluster 2).clockTo = some 19 ∧
    (let s := clustered { guard := .held }
     let c := s.cluster 2
     c.guard = .held ∧ s.clusterIdle 2 = true ∧ c.clockTo = none ∧ c.clockWant = none ∧ c.railUp = 0 ∧ c.railDown = 0) := by
  decide +kernel

/-- A lease, with the reserved bytes. -/
def leaseBytes (n reserved : Nat) : Bytes := natLe 4 n ++ natLe 2 500 ++ natLe 2 reserved ++ natLe 8 99
def leased : State := { base with lease := some { seq := 7, watts := 400, issued := 1, expiry := 0 } }

theorem witness_PowerActs_lease :
    (numAt (leaseBytes 8 0) 6 2 = 0 ∧ ∀ old, leased.lease = some old → newerSeq (numAt (leaseBytes 8 0) 0 4) old.seq = true) ∧
    numAt (leaseBytes 8 1) 6 2 ≠ 0 ∧
    (∀ old, leased.lease = some old → old.expiry ≤ leased.tick) ∧ leased.lease ≠ none ∧
    3 < base.hbmStacks.length ∧ (∀ b ∈ base.blocks, b.migrate = none) ∧ 96 * 1 + 5 < base.cores.length := by
  refine ⟨⟨by decide +kernel, fun old h => ?_⟩, by decide +kernel, fun old h => ?_, by decide +kernel, by decide +kernel,
    by decide +kernel, by decide +kernel⟩
  · cases h; decide +kernel
  · cases h; exact Nat.zero_le _

/-! ### Witnesses: debugging -/

/-- The wave is halted, in this way. -/
def halted (s : State) (f : Wave → Wave) : State := s.modWave 0 fun w => f { w with halted := true }

theorem witness_DebugActs_halt :
    ((base.wave 0).resident = true ∧ (base.wave 0).halted = false ∧ 0 < base.waves.length) ∧
    (let w := (halted base fun w => { w with saved := true }).wave 0
     w.halted = true ∧ w.ended = false ∧ w.saved = true) ∧
    (let w := (halted base id).wave 0
     w.resident = true ∧ w.halted = true ∧ w.exited = false ∧ w.trapDue = false ∧ w.trapHalt = false ∧ w.stop = .run ∧
     bit w.pm 3 = true ∧ bit w.pm 9 = false) ∧
    (let w := (halted (trapped 0 8) fun w => { w with trapHalt := true }).wave 0
     w.resident = true ∧ w.exited = false ∧ w.trapDue = false ∧ w.trapHalt = true ∧ w.trapKind = 0 ∧ w.heldAcc = [] ∧
     w.trace.on = false) ∧
    (let w := (halted base fun w => { w with focus := some 3 }).wave 0
     w.resident = true ∧ w.focus ≠ none) := by decide +kernel

/-- Comparator 1 of the core names the block of 16 bytes of the wave's next instruction. -/
def compared : State := base.modCore 0 0 fun c => { c with cmps := c.cmps.set 1 { addr := 0, ctl := 0x80000040, launch := 0 } }

theorem witness_DebugActs_compare :
    (compared.wave 0).running = true ∧ ([1] : List Nat) ≠ [] ∧
    (let w := compared.wave 0
     let all := (compared.core w.part.die w.part.core).cmps
     ([1] : List Nat) = (List.range all.length).filter fun i =>
      let c := all.getD i {}
      let size := 2 ^ Nat.max 2 (c.ctl.extractLsb' 4 3).toNat
      let base := c.addr.toNat / size * size
      !w.cmpSkip.contains (w.pc, i) && c.ctl.getLsbD 31 && c.ctl.extractLsb' 0 2 == 0 && (!c.ctl.getLsbD 30 || c.launch.toNat == (compared.waveLaunch 0).number) &&
        decide (w.pc.toNat < base + size) && decide (base < w.pc.toNat + 4)) := by decide +kernel

/-- The first wave of a block is halted, and v5 is pending in it. -/
def halfHalted : State := halted two fun w => { w with pend := [5] }

theorem witness_DebugActs_writes :
    ((halfHalted.block 0).st = .placed ∧ (∀ j ∈ (halfHalted.block 0).waves, j = 0 ∨ (halfHalted.wave j).halted = false) ∧
      0 ∈ (halfHalted.block 0).waves ∧ (halfHalted.block 0).waves.Nodup) ∧
    (let w := halfHalted.wave 0
     w.resident = true ∧ w.halted = true ∧ w.exited = false ∧ (5 : BitVec 7) ∈ w.pend ∧ (6 : BitVec 7) ∉ w.pend ∧
     w.regs.length = 128 ∧ w.pend.Nodup ∧ w.liveV + 1 ≤ w.qw ∧ (Reg.v (List.replicate 32 1)).isV = true) ∧
    (let w := (halted halfHalted fun w => { w with qw := 2 }).wave 0
     w.hasSlot 6 = false ∧ w.qw < w.liveV + 1 ∧ (6 : BitVec 7) ∉ w.pend) := by decide +kernel

theorem witness_DebugActs_trace :
    (let s := (traced true).modWave 0 fun w => { w with trace := { w.trace with packets := 600 } }
     (s.wave 0).resident = true ∧ (s.wave 0).trace.on = true ∧ (s.wave 0).trace.needSync = false ∧ s.lostPackets 0 = 0 ∧
     512 ≤ (s.wave 0).trace.packets) ∧
    (let s := (traced true).setLost 0 3
     (s.wave 0).trace.on = true ∧ s.lostPackets 0 ≠ 0 ∧ (s.traceBuf 0).isSome = true ∧
     ∀ x ∈ s.traceBuf 0, 45 ≤ s.traceFree 0 x.1 x.2) := by decide +kernel

/-! ### Witnesses: calls and bundles -/

/-- Launches of interface 0: one running, one complete, one cancelled, and one with an unplaced and a reported block. -/
def calling : State :=
  let l := base.launch 0
  let b := base.block 0
  { base with
    launches := [l, { l with number := 2, st := .complete, blocks := [], tPlaced := some 3, tEnd := some 20 },
      { l with number := 3, st := .cancelled, blocks := [] }, { l with number := 4, blocks := [1, 2], queue := 1 }]
    blocks := [b, { b with waves := [], st := .unstarted, lin := 0, launch := 3 },
      { b with waves := [], st := .reported, lin := 1, launch := 3 }]
    vis := base.vis.modify 0 fun v =>
      { v with nextLaunch := 5, queues := ((v.queues.set 0 ⟨0, true⟩).set 1 ⟨3, true⟩).set 2 ⟨3, true⟩ }
    waiters := [⟨7, 0, some 0⟩] }

/-- A launch record of one slice and of 256 threads in eight blocks, of kernel 0 and queue 0. -/
def record (version : Nat) : Bytes :=
  natLe 2 version ++ List.replicate 14 0 ++ natLe 4 8 ++ natLe 2 1 ++ natLe 2 1 ++ natLe 4 256 ++ List.replicate 356 0

/-- System core 0 runs a thread of a process of interface 0, whose call has this number and these arguments; bytes stand
at an address of the process's own memory. -/
def called (s : State) (num : Nat) (args : List Nat) (at_ : Nat := 0) (bs : Bytes := []) : State :=
  let x := (List.replicate 10 0 ++ (args ++ List.replicate 7 0).take 7 ++ [num]).map (BitVec.ofNat 64)
  { s with
    boot := 6, procs := [{ vi := 0, mem := Memory.writeN [] at_ bs }]
    threads := [{ proc := 0, x := (x ++ List.replicate 14 0) }], sysCores := s.sysCores.set 0 { thread := some 0 } }

/-- It makes the call. -/
def makes (s : State) (num : Nat) (f : Call → Bool) : Bool := (s.callOf 0 num).any f

theorem witness_CallsReturn_calls : makes (called calling 0x100 [7]) 0x100 (fun c => c.thread == 0 && c.vi == 0) = true ∧
    ((called calling 0x100 [7]).thread 0).x.length = 32 := by decide +kernel

theorem witness_CallsReturn_launch :
    makes (called calling 0x100 [7]) 0x100 (fun c => c.arg 0 % 64 != 0) = true ∧
    (let s := called calling 0x100 [2 ^ 60]
     makes s 0x100 (fun c => c.arg 0 == 2 ^ 60) = true ∧ 2 ^ 60 % 64 = 0 ∧
     makes s 0x100 (fun c => (procRead s c.proc (c.arg 0) 384).2.isNone) = true) ∧
    (∀ v ∈ [1, 2], let s := called calling 0x100 [0x1000] 0x1000 (record v)
      makes s 0x100 (fun c => c.arg 0 % 64 == 0 && (procRead s c.proc (c.arg 0) 384).2 == some (record v)) = true ∧
      (Record.version ⟨record v⟩ ≠ 1 ↔ v = 2)) ∧
    (let s := called calling 0x100 [0x1000] 0x1000 (record 1)
     s.refusal 0 ⟨record 1⟩ = none ∧ 0 < s.vis.length) ∧
    (let s := called { calling with kernels := [] } 0x100 [0x1000] 0x1000 (record 1)
     (s.refusal 0 ⟨record 1⟩).isSome = true) := by decide +kernel

/-- The reads change nothing: the record is refused, or not, in the state that makes the call. -/
theorem witness_CallsReturn_reads : let s := called calling 0x100 [0x1000] 0x1000 (record 1)
    (procRead s 0 0x1000 384).1 = s := rfl

theorem witness_CallsReturn_launches :
    (calling.findLaunch 0 9 = none ∧ calling.findLaunch 0 1 = some 0 ∧ calling.findLaunch 0 2 = some 1 ∧
      calling.findLaunch 0 3 = some 2 ∧ calling.findLaunch 0 4 = some 3) ∧
    (∀ num ∈ [0x101, 0x102, 0x103, 0x140], ∀ n ∈ [9, 1, 2, 3, 4],
      makes (called calling num [n]) num (fun c => c.vi == 0 && c.arg 0 == n) = true) ∧
    ((calling.launch 1).st = .complete ∧ (calling.launch 1).tPlaced = some 3 ∧ (calling.launch 1).tEnd = some 20) ∧
    (calling.launch 2).st = .cancelled ∧
    (let l := calling.launch 3
     l.st = .queued ∧ ∀ b ∈ l.blocks, b < calling.blocks.length ∧ (calling.block b).waves = [] ∧
      (calling.block b).st ≠ .placed ∧ (calling.block b).st ≠ .saved ∧ (calling.block b).migrate = none) ∧
    (let l := calling.launch 0
     l.st = .queued ∧ l.blocks = [0] ∧ (calling.block 0).st = .placed) ∧
    ((calling.modBlock 0 fun b => { b with migrate := some (1, []) }).block 0).migrate ≠ none ∧
    (let s : State := { calling with copies := [{ Copy.blank with st := .active, blk := 0, srcs := [⟨.shared, 0, 0, 0⟩] }] }
     (s.block 0).migrate = none ∧ s.sharedCopiesOver 0 = false) ∧
    (∀ b ∈ (calling.launch 0).blocks, (calling.block b).lin = 0 → (calling.block b).st ≠ .reported) ∧
    ((2 ∈ (calling.launch 3).blocks ∧ (calling.block 2).st = .reported) ∧
      ∀ c ∈ (calling.launch 3).blocks, (calling.block c).lin = (calling.block 2).lin → c = 2) ∧
    makes (called calling 0x140 [4, 1]) 0x140 (fun c => c.arg 0 == 4 && c.arg 1 == (calling.block 2).lin) = true ∧
    calling.waiters.find? (fun x => x.thread == 7 && x.until_.any fun t => t ≤ calling.tick) = some ⟨7, 0, some 0⟩ := by
  decide +kernel

theorem witness_CallsReturn_times :
    (let s := called calling 0x103 [2, 2 ^ 60]
     makes s 0x103 (fun c => c.arg 0 == 2 && (procWrite s c.proc (c.arg 1) (List.replicate 48 1)).2.isNone) = true) ∧
    (let s := called calling 0x103 [2, 0x2020]
     makes s 0x103 (fun c => c.arg 1 == 0x2020 && (procWrite s c.proc (c.arg 1) (List.replicate 48 1)).2.isSome) = true ∧
     ∀ j < 48, (s.proc 0).pages.lookup ((0x2020 + j) / 4096) = none ∧ 0x2020 + j < 2 ^ 57) := by decide +kernel

theorem witness_CallsReturn_queues :
    (∀ s ∈ [called calling 0x104 [8], called calling 0x104 [7], called calling 0x105 [9]], (s.callOf 0 0x104).isSome = true ∨
      (s.callOf 0 0x105).isSome = true) ∧
    (let v := (calling.modVi 0 fun v => { v with queues := v.queues.map fun q => { q with open_ := true } }).vi 0
     v.queues.length = 64 ∧ ∀ q ∈ v.queues, q.open_ = true) ∧
    (let v := calling.vi 0
     v.queues.length = 64 ∧ (v.queues.getD 3 ⟨0, true⟩).open_ = false ∧ (∀ x ∈ v.queues.take 3, x.open_ = true) ∧
     (v.queues.getD 9 ⟨0, false⟩).open_ = false ∧ v.queues[1]? = some ⟨3, true⟩ ∧ calling.inQueue 0 1 ≠ [] ∧
     v.queues[2]? = some ⟨3, true⟩ ∧ calling.inQueue 0 2 = []) := by decide +kernel

theorem witness_CallsReturn_buffers :
    makes (called calling 0x130 [0x10000040, 4]) 0x130
      (fun c => c.arg 0 % 64 == 0 && calling.bufferFits c.vi (c.arg 0) (64 * c.arg 1)) = true ∧
    makes (called calling 0x130 [0x10000041, 4]) 0x130 (fun c => c.arg 0 % 64 != 0) = true ∧
    makes (called calling 0x131 [0x10001000, 256]) 0x131 (fun c => c.arg 0 % 4096 == 0 && c.arg 1 % 64 == 0 &&
      (calling.diesOf c.vi).all fun d => calling.imageFits c.vi d (c.arg 0) (128 * (calling.owned c.vi d).length * c.arg 1)) = true ∧
    makes (called calling 0x131 [0x10001000, 192]) 0x131 (fun c => c.arg 1 < 256) = true ∧
    (calling.owned 0 0 ≠ [] ∧ ∀ k ∈ calling.owned 0 0, 96 * 0 + k < calling.cores.length) := by decide +kernel

/-- An ELF64 file of RISC-V, type ET_DYN, whose sections these are. -/
def elf (machine : Nat) (secs : List (Nat × Bytes)) : Bytes :=
  let heads (o : Nat) (x : Nat × Bytes) : Bytes := natLe 4 0 ++ natLe 4 x.1 ++ List.replicate 16 0 ++ natLe 8 o ++
    natLe 8 x.2.length ++ List.replicate 24 0
  let body := (secs.map (·.2)).flatten
  let r := secs.foldl (fun (acc : Nat × Bytes) x => (acc.1 + x.2.length, acc.2 ++ heads acc.1 x)) (64, [])
  [0x7F, 0x45, 0x4C, 0x46, 2, 1] ++ List.replicate 10 0 ++ natLe 2 3 ++ natLe 2 machine ++ natLe 4 1 ++ natLe 8 0x5000 ++
    natLe 8 0 ++ natLe 8 (64 + body.length) ++ natLe 4 0 ++ natLe 2 64 ++ natLe 2 56 ++ natLe 2 0 ++ natLe 2 64 ++
    natLe 2 secs.length ++ natLe 2 0 ++ body ++ r.2

/-- A bundle of a kernel of two instructions and one template, each with its name. -/
def file (machine : Nat) : Bytes :=
  let k : Bytes := natLe 4 0 ++ natLe 4 8 ++ natLe 4 0xFFFFFFFF ++ natLe 4 4096 ++ natLe 4 1024 ++ natLe 4 0 ++
    [16, 2, 1, 1, 0, 1] ++ natLe 2 1 ++ List.replicate 32 0
  elf machine [(0x80000001, natLe 8 0x0102030405060708), (0x80000002, k ++ [0x41, 0]),
    (0x80000003, natLe 4 (1024 + 256) ++ List.replicate 124 0 ++ [0x42, 0])]

theorem test_bundle : (parseBundle (file 243)).map (fun b => (b.eMachine, b.eType, b.entry, b.sections.map fun x => (x.1, x.2.1))) =
    some (243, 3, 0x5000, [(0x80000001, 64), (0x80000002, 72), (0x80000003, 138)]) := by decide +kernel

/-- The call reads the bundle. -/
theorem witness_CallsReturn_load :
    (let s := called calling 0x110 [2 ^ 60, 8]
     makes s 0x110 (fun c => (procRead s c.proc (c.arg 0) (c.arg 1)).2.isNone) = true) ∧
    (∀ m ∈ [62, 243], let s := called calling 0x110 [0x1000, (file m).length] 0x1000 (file m)
      makes s 0x110 (fun c => (procRead s c.proc (c.arg 0) (c.arg 1)).2 == some (file m)) = true ∧
      (parseBundle (file m)).any (fun b => b.eMachine == m) = true) ∧
    (let s := called calling 0x110 []
     (parseBundle (file 243)).any (fun b => (s.prepare 0 b).any fun l => l.images.isEmpty && l.kdescs.length == 1 &&
       l.templates.all (fun x => x.length == 1) && l.idx.all (fun x => x.length == 1) && l.codes.all fun x => x.length == 8) = true ∧
     (s.freeWindow 0).isSome = true ∧ s.dies.length = 2) := by decide +kernel

/-- The kernel of the launches belongs to a loaded bundle. -/
def bundled : State := { calling with bundles := [{ vi := 0, asid := 0, live := true, code := [], digest := [], window := 5 }] }

theorem witness_CallsReturn_bundles :
    (let s := called calling 0x112 [0, 2 ^ 60]
     makes s 0x112 (fun c => (procName s c.proc s.longestName (c.arg 1)).2.isNone) = true) ∧
    (∀ h ∈ [0, 5], let s := called calling 0x112 [h, 0x3000]
      makes s 0x112 (fun c => c.arg 0 == h && (procName s c.proc s.longestName (c.arg 1)).2 == some []) = true) ∧
    (∀ k ∈ calling.kernels, k.live = true → k.vi = 0 → k.bundle = 5 → k.name ≠ []) ∧
    (calling.kernels.find? fun k => k.live && k.vi == 0 && k.bundle == 0 && k.name == []) = some (calling.kernel 0) ∧
    (∀ h ∈ [0, 9], makes (called bundled 0x111 [h]) 0x111 (fun c => c.arg 0 == h) = true) ∧
    calling.liveBundle 0 9 = none ∧ (bundled.liveBundle 0 0).isSome = true ∧
    (∃ l ∈ bundled.launches, l.st = .queued ∧ (bundled.kernel l.kernel).vi = 0 ∧ (bundled.kernel l.kernel).bundle = 0) ∧
    (({ bundled with launches := [] } : State).liveBundle 0 0).isSome = true := by decide +kernel

/-! ### Witnesses: mappings -/

/-- One page of the region is present, and translations of it are held. -/
def mapped : State := { paged with evicted := [(0, 2 ^ 40 + 0x3000, 99)] }.modDie 0 fun d =>
  { d with
    tlb := d.tlb.set 3 [⟨0, 1, 3, 12, 0x10000, false, 0xA018⟩, ⟨1, 1, 3, 12, 0x10000, false, 0xA018⟩]
    hbm := (d.hbm.writeN 0xA018 (natLe 8 0x10001)).writeN 0x10000 (natLe 8 0x1122334455667788) }

/-- The write of a copy at the page is due. -/
def writing : State := { mapped with accs := [{ engineStore with lanes := [⟨0, 0x10008, [1, 2]⟩] }] }

theorem witness_MappingActs_regions : mapped.memOk ∧ 0 < mapped.dies.length ∧ mapped.writesDue 0 = false ∧ writing.writesDue 0 = true ∧
    (∀ w ∈ [1, 64 + 1, 128], makes (called mapped 0x120 [w, 5, 0, 0]) 0x120 (fun c => c.arg 0 == w && c.arg 3 == 0 && c.vi == 0) = true ∧
      makes (called mapped 0x121 [w, 0]) 0x121 (fun c => c.arg 0 == w && c.arg 1 == 0) = true) ∧
    0 ∈ (called mapped 0x120 []).liveAsids 0 ∧ 3 ∉ (called mapped 0x120 []).liveAsids 0 ∧
    ((mapped.die 0).tlb[3]?.bind (·[0]?)) = some ⟨0, 1, 3, 12, 0x10000, false, 0xA018⟩ ∧ mapped.accs = [] ∧
    (∃ a ∈ writing.accs, a.kind = .engine ∧ a.st = .module_ ∧ a.dest = .main ∧ a.die = 0 ∧
      ∃ x ∈ a.lanes, 0x10000 ≤ x.addr ∧ x.addr < 0x10000 + 2 ^ 12) :=
  ⟨memOk_of_memB (by decide +kernel), by decide +kernel⟩

/-- The discard of the page, of less than a page, and of an address that nothing maps. -/
theorem witness_MappingActs_discard :
    (∀ len ∈ [0, 4095, 4096], makes (called mapped 0x122 [2 ^ 40 + 0x3000, len]) 0x122
      (fun c => c.arg 0 == 2 ^ 40 + 0x3000 && c.arg 1 == len && c.asid == 0) = true) ∧
    (let va := 2 ^ 40 + 0x3000
     mapped.writesDue (owner va).2 = false ∧ writing.writesDue (owner va).2 = true ∧ (owner va).1 = mapped.moduleNo ∧
     mapped.mayName 0 (owner va) = true ∧ va < 2 ^ 57) ∧
    (mapped.regionOf 0 0 (2 ^ 40 + 0x3000)).any (fun r => r.getLsbD 6 && pageBits r == 12 && decide (3 ≤ rafLimit r)) = true ∧
    (offsetOf (2 ^ 40 + 0x3000) + 4096 - 1) / 4096 = 3 ∧ (2 ^ 40 + 0x3000 + 4096 - 1) / 4096 * 4096 = 2 ^ 40 + 0x3000 ∧
    mapped.leafOf 0 0 (2 ^ 40 + 0x3000) = some 0xA018 ∧ entryOk (leNat ((mapped.die 0).hbm.readN 0xA018 8)) = true ∧
    mapped.regionOf 0 5 (2 ^ 40 + 0x3000) = none := by decide +kernel

/-- A launch that declares the page, with some of the host's bytes. -/
def evicting : State :=
  { mapped with
    launches := mapped.launches ++ [{ mapped.launch 0 with number := 2, blocks := [], ranges := [(2 ^ 40 + 0x3000, 4096)] }]
    hostMem := [(2 ^ 40 + 0x3001, 7), (2 ^ 40 + 0x4000, 8)] }

theorem witness_MappingActs_eviction : evicting.memOk ∧ evicting.writesDue 0 = false ∧ evicting.writesDue 1 = false ∧
    writing.writesDue 0 = true ∧ evicting.dies.length = 2 ∧ (evicting.victim 0).isSome = true ∧
    (evicting.victim 0).all (fun r => evicting.residentPages 0 r == [(2 ^ 40 + 0x3000, 4096, 0xA018)] &&
      evicting.residentPages 1 r == []) = true :=
  ⟨memOk_of_memB (by decide +kernel), by decide +kernel⟩

/-! ### Witnesses: what reaches the module from outside -/

/-- Requests for the page that is present, for one that is not, and for addresses of other modules and spaces. -/
theorem witness_OutsideActs_requests : mapped.memOk ∧
    ((owner (2 ^ 40 + 0x3000)).1 = mapped.moduleNo ∧ (owner (2 ^ 40 + 0x3000)).2 < mapped.dies.length ∧
      (2 ^ 40 + 0x3000) % 64 + 3 ≤ 64 ∧ (2 ^ 40 + 0x3000) % 8 = 0) ∧
    (translate mapped 0 0 (2 ^ 40 + 0x3000) .write).2 = .frame 0x10000 false ∧
    (translate mapped 0 0 (2 ^ 40 + 0x4000) .write).2 = .miss ∧
    (translate mapped 0 5 (2 ^ 40 + 0x3000) .write).2 = .unmapped ∧
    (owner (5 * 2 ^ 47)).1 ≠ mapped.moduleNo :=
  ⟨memOk_of_memB (by decide +kernel), by decide +kernel⟩

/-- Collective copies under way: an ALL-GATHER whose lines are delivered here and a REDUCE-SCATTER. -/
def collecting : State :=
  { mapped with
    copies := [{ Copy.blank with t := { ctrl := 5 + 1024, dst := 0x10000100, count := [8] }, st := .active, ring := [1, 2] },
      { Copy.blank with t := { ctrl := 4 + 1024, count := [4] }, st := .active, tix := 2, nth := 1, ring := [8, 7] }] }

theorem witness_OutsideActs_collectives : collecting.memOk ∧
    (let c := collecting.copy 0
     c.t.mode = .agather ∧ c.st = .active ∧ c.die = 0 ∧ c.vi = 0 ∧ (0x10000104 : Word).toNat % 64 + 4 ≤ 64 ∧
     c.t.dst ≤ (0x10000104 : Word).toNat ∧ (0x10000104 : Word).toNat + 4 ≤ c.t.dst + 4 * c.t.elements * c.ring.length ∧
     (∀ x ∈ collecting.copies.take 0, x.t.mode ≠ .agather)) ∧
    (let c := collecting.copy 1
     c.t.mode = .rscatter ∧ c.st = .active ∧ c.tix = 2 ∧ c.nth = 1 ∧ 7 ∈ c.ring) :=
  ⟨memOk_of_memB (by decide +kernel), by decide +kernel⟩

theorem witness_OutsideActs_memory :
    (2 ^ 39 - 3 + ([1, 2, 3] : Bytes).length ≤ 2 ^ 39 ∧ 1 < base.dies.length) ∧
    (let s := base.modVi 0 fun v => { v with desc := { v.desc with hdm := 1 } }
     0 < s.vis.length ∧ 2 ^ 30 - 3 + 3 ≤ (s.vi 0).desc.hdm * 2 ^ 30 ∧ (s.vi 0).desc.hdm * 2 ^ 30 < 2 ^ 30 - 2 + 3) := by
  decide +kernel

theorem witness_OutsideActs_errors :
    (0 < base.waves.length ∧ ((base.wave 0).reg 4).isV = true ∧ base.dies.length = 2) ∧
    ((acting storeOp oneStore).acc 0).wave < (acting storeOp oneStore).waves.length ∧
    (let s := base.modDie 0 fun d => { d with felt := [{ key := .scratch 0 9, a := some oldVersion }] }
     (s.feltLine 0 (.scratch 0 9)).a = some oldVersion ∧ oldVersion.valid = true ∧ (s.feltLine 0 (.scratch 0 9)).b = none) := by
  decide +kernel

theorem witness_OutsideActs_registers :
    (2 < base.clusters.length ∧ 96 * 0 + 3 < base.cores.length ∧ 3 < (base.core 0 3).cmps.length) ∧
    ((base.vi 0).regions[0]?).isSome = true ∧
    ((base.modVi 0 fun v => { v with msgState := 2 }).vi 0).msgState = 2 ∧
    (let s := traced true
     ⟨0, 0⟩ ∈ (s.vi 0).desc.cores ∧ (∀ j < 64, ⟨0, 0⟩ ∈ (s.vi j).desc.cores → j = 0) ∧ (s.vi 0).traceBase = some 0x10001000 ∧
     ((List.range 4).map fun j => s.scratchPhys 0 0 (0x10001000 + (s.vi 0).tbsize * (128 * (s.owned 0 0).idxOf 0 + 3) + 4 + j)).Nodup) := by
  decide +kernel

/-- System core 0 runs a thread of a process of interface 0 whose page 1 is a page of host memory and whose page 2 is a
page of the HBM. -/
def hub : State :=
  let s := called mapped 0 []
  { s with procs := s.procs.map fun p => { p with pages := [(1, .host 0x7000), (2, .main (2 ^ 40 + 0x3000)), (3, .main (5 * 2 ^ 47)),
      (4, .main (2 ^ 40 + 0x4000)), (5, .main (3 * 2 ^ 40))] } }

theorem witness_OutsideActs_hub : hub.memOk ∧ hub.running 0 = some 0 ∧ ([1, 2, 3] : Bytes) ≠ [] ∧ 0x1008 % 64 + 3 ≤ 64 ∧
    (let p := hub.proc (hub.thread 0).proc
     p.pages.lookup (0x9008 / 4096) = none ∧ p.pages.lookup (2 ^ 60 / 4096) = none ∧
     p.pages.lookup (0x1008 / 4096) = some (.host 0x7000) ∧ p.pages.lookup (0x2008 / 4096) = some (.main (2 ^ 40 + 0x3000)) ∧
     p.pages.lookup (0x3008 / 4096) = some (.main (5 * 2 ^ 47)) ∧ (owner (5 * 2 ^ 47 + 8)).1 ≠ hub.moduleNo ∧
     (let o := owner (2 ^ 40 + 0x3008)
      o.1 = hub.moduleNo ∧ hub.mayName p.vi o = true ∧ o.2 < hub.dies.length ∧
      (translate hub o.2 p.asid (2 ^ 40 + 0x3008) .read).2 = .frame 0x10008 false ∧
      (translate hub o.2 p.asid (2 ^ 40 + 0x3008) .write).2 = .frame 0x10008 false ∧
      (translate hub o.2 p.asid (2 ^ 40 + 0x4008) .read).2 = .miss ∧
      (translate hub (owner (3 * 2 ^ 40 + 8)).2 p.asid (3 * 2 ^ 40 + 8) .read).2 = .unmapped)) ∧
    (hub.sysCores[1]? = some { thread := none, held := false } ∧ hub.boot = 6 ∧ (∀ x ∈ hub.sysCores, x.thread ≠ some 7) ∧ (hub.proc 0).alive = true) :=
  ⟨memOk_of_memB (by decide +kernel), by decide +kernel⟩

/-! ### Witnesses: messages, boot and loss of power -/

/-- Boot has come so far, and the message window of interface 0 stands so. -/
def booting (boot window : Nat) (lost : Bool) : State :=
  { base with procs := [{ vi := 0 }, { vi := 1, alive := false }], boot := boot, powerLost := lost }.modVi 0 fun v =>
    { v with msgState := window, desc := { v.desc with asids := 4, spslot := 128 } }

theorem witness_MessagesAndBoot_messages :
    ((booting 6 1 false).vi 0).msgState ≠ 0 ∧
    (let s := booting 3 0 false
     (s.vi 0).msgState = 0 ∧ s.boot ≠ 6 ∧ (s.vi 64).msgState = 0 ∧ 64 < s.vis.length) ∧
    (let s := booting 6 0 false
     (s.vi 0).msgState = 0 ∧ s.boot = 6 ∧ (s.vi 0).desc.cores ≠ [] ∧ (s.vi 1).msgState = 0 ∧ (s.vi 1).desc.cores = [] ∧
     s.procOf 0 7 = none ∧ s.procs[0]?.map Process.vi = some 0 ∧ s.blocks.length = 1 ∧ s.leaf.value < Config.hssLeaves) ∧
    Config.hssLeaves ≤ (Kept.blank.write Config.hssLeaves).value := by decide +kernel

/-- A file for START stands in host memory; the interface may have four ASIDs. -/
def posting (machine : Nat) : State := { booting 6 0 false with hostMem := Memory.writeN [] 0x5000 (file machine) }

theorem witness_MessagesAndBoot_start :
    (∀ m ∈ [62, 243], let s := posting m
      s.hostMem.readN 0x5000 (file m).length = file m ∧
      (parseBundle (file m)).any (fun b => (b.eMachine == 243 && b.eType == 3) == (m == 243)) = true) ∧
    (let s := posting 243
     (s.vi 0).desc.cores ≠ [] ∧ (∃ p ∈ s.procs, p.alive = true ∧ p.vi = 0 ∧ p.asid = 0) ∧
     ((∀ p ∈ s.procs, p.alive = true → p.asid ≠ 9) ∧ (s.liveAsids 0).length < (s.vi 0).desc.asids)) ∧
    (let s := (posting 243).modVi 0 fun v => { v with desc := { v.desc with asids := 1 } }
     (∀ p ∈ s.procs, p.alive = true → p.asid ≠ 9) ∧ ¬ (s.liveAsids 0).length < (s.vi 0).desc.asids) ∧
    (booting 2 0 false).boot = 2 ∧ ((booting 2 0 false).vi 64).msgState = 0 := by decide +kernel

theorem witness_MessagesAndBoot_descriptor :
    (let s := booting 4 0 false
     4 ≤ s.boot ∧ s.descOk 0 (s.vi 0).desc = true ∧ (∃ p ∈ s.procs, p.vi = 0 ∧ p.alive = true)) ∧
    (let s : State := { booting 4 0 false with procs := [] }
     s.descOk 0 (s.vi 0).desc = true ∧ ∀ p ∈ s.procs, p.vi = 0 → p.alive = false) := by decide +kernel

/-- Whether an image slot verifies rests on the flash, which the model leaves free: each case of power-up is one of these. -/
theorem witness_MessagesAndBoot_slots (s : State) :
    s.slotOk s.slotSel.value = true ∨ (s.slotOk s.slotSel.value = false ∧ s.slotOk (1 - s.slotSel.value) = true) ∨
      (s.slotOk s.slotSel.value = false ∧ s.slotOk (1 - s.slotSel.value) = false) := by
  cases s.slotOk s.slotSel.value <;> cases s.slotOk (1 - s.slotSel.value) <;> simp

/-- What an abrupt loss leaves of the machine, and the same with a block that nothing holds any more. -/
def afterLoss (boot : Nat) : State := { next (execAbruptLoss none) (booting 6 0 false) with boot := boot }
def afterLossOne (flags : Nat) : State :=
  { afterLoss 4 with
    blocks := (afterLoss 4).blocks.map fun b => { b with waves := [] }
    kernels := (afterLoss 4).kernels.map fun k => { k with flags := flags } }

theorem witness_MessagesAndBoot_boot :
    (booting 5 0 false).boot = 5 ∧ (∀ x ∈ (booting 5 0 false).vis, x.msgWait = none) ∧ (booting 2 0 false).powerLost = false ∧
    (let s := (booting 1 0 false).modVi 64 fun v => { v with msgWait := some (.status 64 0) }
     s.boot = 1 ∧ ((booting 1 0 false).vi 64).msgWait = none ∧ (s.vi 64).msgWait = some (.status 64 0) ∧ (s.procs[0]?).isSome = true) ∧
    ((afterLoss 2).powerLost = true ∧ (afterLoss 2).boot = 2 ∧ 0 < (afterLoss 2).dies.length) ∧
    (∀ fl ∈ [0, 1], let s := afterLossOne fl
      s.powerLost = true ∧ s.boot = 4 ∧ s.blocks.length = 1 ∧ (s.block 0).st = .saved ∧ (s.block 0).cancelled = false ∧
      (s.block 0).committed = 0 ∧ (s.block 0).waves = [] ∧ (s.kernel (s.launch (s.block 0).launch).kernel).flags % 2 = fl) ∧
    ((booting 6 0 false).block 0).st = .placed ∧ ((booting 6 0 false).wave 0).ended = false := by decide +kernel

/-! ### Single instructions: results worked out by hand from the rules -/

/-- Lane `l` of register `d` after the instruction. -/
def after (i : Instr) (s : State) (d : BitVec 7) (l : Nat) : Option Word := match exec i s with
  | .next t => some (((t.wave 0).reg d).lane l)
  | _ => none

/-- The wave after the instruction. -/
def waveAfter (i : Instr) (s : State) : Option Wave := match exec i s with
  | .next t => some (t.wave 0)
  | _ => none

/-- v8 to v10 hold these words in every lane. -/
def words (m : BitVec 16) (a b c : Word) : State := put (moded m) [(8, .u a), (9, .u b), (10, .u c)]

/-- R106: 0xFFFFFFFF + 1 wraps. -/
theorem test_add_wraps : after (.add 6 8 9) (words 0 0xFFFFFFFF 1 0) 6 0 = some 0 := by decide +kernel
/-- R55: with SATN the signed sum stops at the largest number. -/
theorem test_add_saturates : after (.add 6 8 9) (words 0x200 0x7FFFFFFF 1 0) 6 0 = some 0x7FFFFFFF := by decide +kernel
/-- The high half of −1 · 2, signed, and of 0xFFFFFFFF · 2, unsigned. -/
theorem test_mulhi_signed : after (.mulhi 6 8 9) (words 0 0xFFFFFFFF 2 0) 6 0 = some 0xFFFFFFFF := by decide +kernel
theorem test_mulhi_unsigned : after (.mulhi 6 8 9) (words 0x10 0xFFFFFFFF 2 0) 6 0 = some 1 := by decide +kernel
/-- 1.5 · 2 + 0.25 = 3.25. -/
theorem test_fma_f32 : after (.fma 10 8 9) (words 0x20 0x3FC00000 0x40000000 0x3E800000) 10 0 = some 0x40500000 := by
  decide +kernel
/-- 2^24 + 1 lies between two numbers of the format and rounds to the even one. -/
theorem test_add_f32_even : after (.add 6 8 9) (words 0x20 0x4B800000 0x3F800000 0) 6 0 = some 0x4B800000 := by decide +kernel
/-- 1 + 2^-11 in F16, in the low half. -/
theorem test_add_f16 : after (.add 6 8 9) (words 0x30 0x3C003C00 0x3C001000 0) 6 0 = some 0x40003C00 := by decide +kernel
/-- −8 shifted right by 1, with the sign and without it. -/
theorem test_srai : after (.srai 6 8 1) (words 0 0xFFFFFFF8 0 0) 6 0 = some 0xFFFFFFFC := by decide +kernel
theorem test_shri : after (.shri 6 8 1) (words 0 0xFFFFFFF8 0 0) 6 0 = some 0x7FFFFFFC := by decide +kernel
theorem test_brev : after (.brev 6 8) (words 0 0x00000013 0 0) 6 0 = some 0xC8000000 := by decide +kernel
theorem test_clz : after (.clz 6 8) (words 0 0x00000013 0 0) 6 0 = some 27 := by decide +kernel
theorem test_popc : after (.popc 6 8) (words 0 0x00000013 0 0) 6 0 = some 3 := by decide +kernel
/-- R104: a guarded write leaves the lanes outside k1 (0x0F) as they were. -/
theorem test_guard : after (.mov 4 8) (words 1 5 0 0) 4 3 = some 5 ∧ after (.mov 4 8) (words 1 5 0 0) 4 4 = some 4 := by
  decide +kernel
/-- Lanes 0 to 7 hold their numbers: their sum is 28. -/
theorem test_redux : after (.reduxAdd 6 4) base 6 0 = some 28 := by decide +kernel
/-- The scan includes its own lane: 0 + 1 + 2 + 3. -/
theorem test_scan : after (.scanAdd 6 4) base 6 3 = some 6 := by decide +kernel
/-- R215: `call` leaves pc + 4 in its link and goes to pc + 4 + 4·2. -/
theorem test_call : (waveAfter (.call 36 2) base).map (fun w => ((w.reg 36).lane 0, w.pc)) = some (4, 12) := by decide +kernel
/-- R217, R229, R231: `trap 7` with the handler table at 0x400 goes to the entry of DEBUG, class 11; HDR has VALID, kind 3 and
code 1. -/
theorem test_trap : (waveAfter (.trap 7) (handled base)).map (fun w => (w.pc, w.trapMode, w.sb.getD 0 0, w.sb.getD 10 0)) =
    some (0x6C0, true, 0xB000010B, 7) := by decide +kernel
/-- CRC-32C of "123456789" (R265). -/
theorem test_crc32c : crc32c ((List.range 9).map fun i => BitVec.ofNat 8 (0x31 + i)) = 0xE3069283 := by decide +kernel

/-! ### Witnesses: races -/

/-- The same wave's access under a race mode, where granule 4 of its block's shared memory, or the granule at the start of
its scratchpad, has this watermark, and the interface has a buffer of four race records with `w` written. -/
def racing (s : State) (mode : RaceMode) (m : Watermark) (w : Nat) : State :=
  (({ s with ops := s.ops.map fun o => { o with race := mode } } : State).modBlock 0 fun b =>
    { b with wm := [(4, m), (16, m)] }).modVi 0 fun v => { v with raceBase := some 0x10002000, rblen := 4, raceW := w }

/-- Watermarks of another wave's write, of one whose order cannot be told, of a lost one, and of another wave's read. -/
def theirs : Watermark := { wid := 1, st := .plain }
def unsure : Watermark := { wid := 1, wclk := 9, st := .plain }
def gone : Watermark := { st := .lost }
def theirRead : Watermark := { st := .plain, wid := (base.wave 0).rid, wclk := (base.wave 0).clk0, rdr := 1 }

/-- What every clause about an access of the wave to granule 4 asks. -/
def raceable (s : State) : Bool :=
  let a := s.acc 0
  let h := s.homeOf a.wave a.space
  s.granules a.wave a.space a.lanes == [⟨some 0, 0, 4, 256⟩] && s.homeOk h && (s.rangeCheck h a.lanes).isNone &&
    (s.softCheck h a.lanes).isNone && s.inTurn 0 && decide (a.wave < s.waves.length)

/-- How its check against the recorded write comes out. -/
def wrote (s : State) : RaceOut :=
  let m := s.watermark ⟨some 0, 0, 4, 256⟩
  s.check 0 (some 0) (s.waveParty 0 (s.acc 0).clk) false false m.st m.write

theorem witness_RacesAct_stores :
    (racing (acting storeOp oneStore) .report theirs 2).memOk ∧
    (∀ x ∈ ([(theirs, .race), (unsure, .unknown), (gone, .unknown), ({}, .ordered), (theirRead, .ordered)] : List (Watermark × RaceOut)),
      ∀ mode ∈ [RaceMode.off, .report, .fault], ∀ st ∈ [AccState.queued, .block],
      let s := racing (acting storeOp { oneStore with st := st }) mode x.1 2
      raceable s = true ∧ wrote s = x.2 ∧ (s.op 0).race = mode ∧ (s.acc 0).kind = .store ∧ (s.acc 0).space = .shared ∧
      (st = .queued → s.mayLeave 0 = true) ∧ (st = .block → s.accs = [s.acc 0])) ∧
    (let s := racing (acting storeOp oneStore) .report theirs 4
     (s.vi 0).raceR + (s.vi 0).rblen ≤ (s.vi 0).raceW) ∧
    (let s := racing (acting storeOp oneStore) .report theirs 3
     (s.vi 0).raceBase = some 0x10002000 ∧ 0 < (s.vi 0).rblen ∧ (s.vi 0).raceW < (s.vi 0).raceR + (s.vi 0).rblen ∧
     0 < s.vis.length ∧ 0 < s.dies.length ∧ (s.wave 0).trace.on = false ∧
     ((List.range 64).map fun j => s.scratchPhys 0 0 (0x10002000 + 64 * (3 % 4) + j)).Nodup) ∧
    (let s := racing (acting storeOp oneStore) .fault theirs 0
     let w := s.wave 0
     w.ended = false ∧ w.trapMode = false ∧ w.trapHalt = false ∧ w.trapDue = false ∧ s.gatedCore 0 = false ∧ w.halted = false ∧
     w.exited = false ∧ s.handler 0 = some 0x400) :=
  ⟨memOk_of_memB (by decide +kernel), by decide +kernel, by decide +kernel, by decide +kernel, by decide +kernel⟩

/-- A load of a granule, and of one whose bytes stand in another wave's buffered store. -/
def buffered : State :=
  let s := acting loadOp { oneLoad with clk := 2 }
  ({ s with
      ops := [loadOp, { storeOp with wave := 1 }], waves := [s.wave 0, { s.wave 0 with idx := 1, slot := 1 }]
      accs := [{ oneLoad with clk := 2 }, { oneStore with op := 1, wave := 1, st := .block, entered := 3 }] } : State)

theorem witness_RacesAct_loads :
    (∀ x ∈ [theirs, gone, theirRead, { theirRead with rdr := 0xFFFFE, rclk := 5 }],
      let s := racing (acting loadOp oneLoad) .report x 0
      raceable s = true ∧ (s.acc 0).kind = .load ∧ s.mayLoad 0 = true ∧ s.allPresent 0 = true ∧
      s.seenBuf 0 (s.acc 0).lanes = none) ∧
    (let s := racing (acting loadOp oneLoad) .report theirRead 0
     let m := s.watermark ⟨some 0, 0, 4, 256⟩
     m.st ≠ .lost ∧ m.rdr ≠ 0xFFFFF ∧ m.rdr ≠ (s.wave 0).rid ∧ m.rdr % 2 ^ 15 < 12288 ∧
     s.check 0 (some 0) (s.waveParty 0 0) false false m.st m.read = .race ∧ (s.waveParty 0 0).blk = 0 ∧
     (s.waveParty 0 0).handle = (s.block 0).handle) ∧
    (let s := racing buffered .report theirs 0
     raceable s = true ∧ s.mayLoad 0 = true ∧ s.allPresent 0 = true ∧ (s.seenBuf 0 (s.acc 0).lanes).isSome = true) ∧
    (let s := racing (acting loadOp oneAtomic) .fault theirs 0
     raceable s = true ∧ s.mayAtomic 0 = true ∧ s.allPresent 0 = true) := by decide +kernel

/-- A start of a copy from main memory to one granule, of one from that granule to main memory. -/
def startOf (toShared : Bool) : State :=
  starting { plainTemplate with ctrl := plainTemplate.ctrl + (if toShared then 2 * 2 ^ 13 else 2 * 2 ^ 15) }

theorem witness_RacesAct_copies : ∀ writes ∈ [true, false], ∀ mode ∈ [RaceMode.off, .report],
    let s := racing (startOf writes) mode theirs 0
    s.startTemplate 0 = (s.die 0).templates[0]? ∧ ∀ u ∈ s.startTemplate 0,
      (s.acc 0).kind = .start ∧ (s.acc 0).late = false ∧ s.mayAccept 0 u.scope = true ∧
      (let f := u.fill (s.wave 0).args
       let c := s.newCopy 0 f
       s.startRefusal 0 f (u.holesOk (s.wave 0).args) = none ∧ s.lockConflict c = none ∧ f.mode ≠ .halo ∧
       (s.block 0).die < s.dies.length ∧ (s.wave 0).part.die < s.dies.length ∧ (s.wave 0).blk < s.blocks.length ∧
       (s.spanGranules c c.srcs, s.spanGranules c c.dsts) =
         if writes = true then ([], [⟨some 0, 0, 16, 1024⟩]) else ([⟨some 0, 0, 4, 256⟩], [])) := by decide +kernel

/-! ### Witnesses: clauses of several statements -/

/-- Floats in every lane, under F32 rounding to nearest; lanes 0 to 7 are present. -/
theorem witness_TypedComplete_F32 : let s := words 0x420 0x3F800000 0x7FC00000 0x80000000
    let w := s.wave 0
    s.laneReady 0 [10, 8, 9] [10] = true ∧ modeRound w.mode = 0 ∧ modeTrap w.mode = false ∧ modeType w.mode = 2 ∧
    w.takes 0 = true ∧ f32Fin ((w.reg 8).lane 0) = true ∧ f32Nan ((w.reg 9).lane 0) = true := by decide +kernel

/-- Present lanes of v5 that lie on a line, and that do not. -/
theorem witness_ShapeControl_line : ∀ k ∈ [1, 2], let s := put base [(5, .v ((List.range 32).map fun i => BitVec.ofNat 32 (i ^ k)))]
    let r := (s.wave 0).reg 5
    s.laneReady 0 [5] [5] = true ∧ r.isV = true ∧ bit (s.wave 0).pm 0 = true ∧ bit (s.wave 0).pm 1 = true ∧
    (∃ j < 32, bit (s.wave 0).pm j = true ∧ r.lane j ≠ r.lane 0) ∧
    ((∀ j < 32, bit (s.wave 0).pm j = true →
      r.lane j = r.lane 0 - BitVec.ofNat 32 0 * (r.lane 1 - r.lane 0) + BitVec.ofNat 32 j * (r.lane 1 - r.lane 0)) ↔ k = 1) := by
  decide +kernel

/-- No slot is left for v6, under a partial write, for a load, and for the blocks of a matrix instruction. -/
theorem witness_ShapeTraps_more :
    (let s : State := full.modWave 0 fun w => { w with mode := 1 }
     let w := s.wave 0
     s.canTrap 0 0x400 ([6, 4, 2] ++ block8 2 ++ block8 4 ++ block8 5) = true ∧
     [ExecUnit.uniform, .vector, .sfu, .mask].all (s.unitFree 0) = true ∧ w.hasSlot 6 = false ∧ w.qw < w.liveV + 1 ∧
     w.active ≠ w.pm ∧ w.active ≠ 0 ∧ (w.reg 2).isU = false ∧ w.ql < 24 ∧ w.accessLanes 2 0 ≠ [] ∧
     (block8 2).find? (fun r => !w.hasSlot r) = some 16 ∧ w.qt < 4 ∧
     w.qw < w.liveV + (block8 2).countP (fun r => !w.hasSlot r)) := by decide +kernel

/-- Two sums and a byte that trap, and a NaN that a compare meets, under XTRAP; and a tile whose output is invalid. -/
def overflowing : State := handled (words 0x820 0x7F7FFFFF 0x7F7FFFFF 0x7FC00000)
def infinite : Tile :=
  let k : Lanes := List.replicate 32 0x7F807F80
  { wave := 0, op := 0, part := ⟨0, 0, 0⟩, fn := .bf16, d := 2, st := .due 0, a := List.replicate 8 k, b := List.replicate 8 (List.replicate 32 0)
    c := List.replicate 8 (List.replicate 32 0) }

theorem witness_ArithTraps_more :
    (let s := overflowing
     let w := s.wave 0
     s.canTrap 0 0x400 [6, 8, 9] = true ∧ s.laneReady 0 [8, 9] [6] = true ∧ modeTrap w.mode = true ∧ modeType w.mode = 2 ∧
     bit w.active 0 = true ∧ bit w.pm 0 = true ∧ f32Nan ((w.reg 10).lane 0) = true ∧
     (∀ l < 32, bit w.active l = true → f32Fin ((w.reg 8).lane l) = true ∧ f32Fin ((w.reg 9).lane l) = true) ∧
     2 ^ 277 ≤ (f32Int ((w.reg 8).lane 0) + f32Int ((w.reg 9).lane 0)).natAbs ∧
     2 ^ 277 * 2 ^ 149 ≤ (f32Int ((w.reg 8).lane 0) * f32Int ((w.reg 9).lane 0)).natAbs ∧
     ∃ j < 4, 243 ≤ (((w.reg 8).lane 0).extractLsb' (8 * ((4 * (1 : BitVec 3).toNat + j) / 5)) 8).toNat) ∧
    (let s : State := { handled (tiling .zero (.due 0) 0x800) with tiles := [infinite] }
     let x := s.tile 0
     let w := s.wave 0
     x.st = .due 0 ∧ 0 ≤ s.partClk x.part ∧ modeTrap (s.op 0).mode = true ∧ 0 < s.ops.length ∧ (s.op 0).wave = 0 ∧
     0 < s.waves.length ∧ (s.op 0).cls = some .tile ∧ (s.op 0).counted = 1 ∧ w.trapMode = false ∧ w.trapHalt = false ∧
     w.trapDue = false ∧ w.halted = false ∧ w.exited = false ∧ w.trace.on = false ∧ s.gatedCore 0 = false ∧
     s.handler 0 = some 0x400 ∧ ∃ y ∈ x.outs (s.op 0).mode (s.op 0).got, y.2 / 16 % 2 = 1) := by decide +kernel

/-- A debugger is attached and goes on at the tag. -/
theorem witness_DebugInstructions_attached : let s : State := { base with attached := true, brkGo := [5] }
    s.ready 0 [] = true ∧ s.attached = true ∧ (5 : BitVec 16).toNat ∈ s.brkGo := by decide +kernel

/-- The operands of `atom.fadd`: NaN, an infinity, and finite values whose sum is and is not zero. -/
theorem witness_AtomicsIssue_fadd : f32Nan 0x7FC00000 = true ∧ (0x7F800000 : Word) &&& 0x7FFFFFFF = 0x7F800000 ∧
    f32Fin 0x3F800000 = true ∧ modeRound 0x20 = 0 ∧ f32Int 0x3F800000 + f32Int 0xBF800000 = 0 ∧
    f32Int 0x3F800000 + f32Int 0x3F800000 ≠ 0 := by decide +kernel

/-- Addresses that fail, for each shape of instruction, and queues that are full. -/
theorem witness_MemoryTraps_more :
    (let s := crowded (addressed 0x20000040 0x1000 0)
     let at_ := (s.wave 0).accessLanes 2 0
     s.canTrap 0 0x400 ([6, 7, 8, 9, 2, 4, 5] ++ block8 2 ++ block8 4 ++ block8 5) = true ∧ at_ ≠ [] ∧
     (∀ q ∈ at_, 0x20000000 ≤ q.2 ∧ q.2 < 0x20008000 ∧ q.2 % 4096 = 0x40) ∧
     8 < (s.wave 0).qx + (at_.map Prod.snd).eraseDups.length ∧ 4 ≤ (s.wave 0).qt) ∧
    (∀ x ∈ ([(0x101, 1, 7), (0x18001FF4, 8, 5), (0x16000000, 0, 4), (0x80000, 16, 3), (0x20000080, 0, 6)] : List (Word × Word × Nat)),
      let s := addressed x.1 x.2.1 0
      let w := s.wave 0
      s.canTrap 0 0x400 [6, 7, 8, 9, 2, 4, 5] = true ∧ w.ql < 24 ∧ w.room [6, 7, 8, 9] = true ∧ w.qs < 16 ∧
      (x.2.2 ≠ 3 → (∃ q ∈ w.accessLanes 2 0, s.memCode 0 q.2 4 false = some x.2.2) ∧
        (∀ q ∈ w.accessLanes 2 0, ∀ c, s.memCode 0 q.2 4 false = some c → x.2.2 ≤ c)) ∧
      ∀ q ∈ w.accessLanes 2 0, ¬ (0x20000000 ≤ q.2 ∧ q.2 < 0x20008000 ∧ q.2 % 4096 = 0x40)) ∧
    (let s := addressed 0x20000000 0x40 0
     let at_ := (s.wave 0).accessLanes 2 0
     let start (q : Nat × Nat) : Prop := 0x20000000 ≤ q.2 ∧ q.2 < 0x20008000 ∧ q.2 % 4096 = 0x40
     (∃ q ∈ at_, start q) ∧ (∃ q ∈ at_, ¬ start q) ∧ (s.wave 0).qs < 16 ∧ (s.wave 0).qx < 8 ∧
     ((at_.filter fun q => q.2 % 4096 = 0x40 && inAperture q.2).eraseDups.length + (s.wave 0).qx ≤ 8)) ∧
    (let s := put (handled base) [(7, .u 0x18000000), (9, .u 0x1020), (10, .u 0x801)]
     (s.wave 0).suspended = none ∧ s.memCode 0 (((s.wave 0).reg 7).lane (s.wave 0).l0).toNat 8 false = none ∧
     spaceOf (((s.wave 0).reg 7).lane (s.wave 0).l0).toNat = .spill ∧
     (∀ j < 384, s.memCode 0 (0x18000000 + j) 1 false = none) ∧ (∀ j < 384, s.memCode 0 (0x1020 + j) 1 false = none) ∧
     0x1020 % 64 ≠ 0 ∧ s.memCode 0 0x801 8 false = some 7) ∧
    (let s := put listing [(5, .v ((List.range 32).map fun i => BitVec.ofNat 32 (0x18000000 + 64 * i)))]
     let all := ((List.range 32).map fun l => (l, if bit (s.wave 0).pm l then (((s.wave 0).reg 5).lane l).toNat else 0xFFFFFFFF)).filter
       fun q => q.2 != 0xFFFFFFFF
     s.canTrap 0 0x400 ([5] ++ block8 2 ++ block8 4) = true ∧ (s.wave 0).qt < 4 ∧ (s.wave 0).room (block8 2) = true ∧
     (∀ q ∈ all, s.memCode 0 q.2 64 false = none) ∧ ∃ q ∈ all, spaceOf q.2 ≠ .shared) := by decide +kernel

/-- A fence that binds behind a queued store, a `pfence` behind a pending write, and a `waitc` in an SC region behind a
store. -/
theorem witness_FencesAndWaits_holds :
    (let s := (storing (handled base)).modWave 0 fun w => { w with holds := [.fence 1 1] }
     s.cur = some 0 ∧ 0 < s.waves.length ∧ Hold.fence 1 1 ∈ (s.wave 0).holds ∧ (s.wave 0).trapMode = false ∧
     ∃ x ∈ s.issuedBefore 0 1, x.st = .queued ∧ x.kind = .store) ∧
    (let s := draining.modWave 0 fun w => { w with holds := [.pfence 0 0 4] }
     s.cur = some 0 ∧ Hold.pfence 0 0 4 ∈ (s.wave 0).holds ∧
     ∃ p ∈ (s.die 0).persist, p.seq < 4 ∧ p.wave = some 0) ∧
    (let s := put (storing ((handled base).modVi 0 fun v => { v with
         regions := [[0x10000000, 0x1000, 0x80000001, 0]] })) [(7, .u 0x10000040)]
     let addr := (((s.wave 0).reg 7).lane (s.wave 0).l0).toNat
     s.ready 0 [7, 8, 9] = true ∧ s.memCode 0 addr 8 false = none ∧ spaceOf addr = .scratch ∧
     ∃ x ∈ s.issuedBefore 0 s.ops.length, x.kind = .store ∧ x.st ≠ .done) := by decide +kernel

/-- A copy's counter update in transit, and a store to the scratchpad in the block's buffer. -/
def bumping : State :=
  { acting storeOp { engineStore with lanes := [⟨0, 0x9000, []⟩], bump := some (5, 2, false) } with copies := [Copy.blank] }

theorem witness_StoresLand_more :
    (let a := bumping.acc 0
     a.kind = .engine ∧ a.st = .module_ ∧ a.dest = .main ∧ a.bump = some (5, 2, false) ∧ a.lanes = [⟨0, 0x9000, []⟩] ∧
     a.die < bumping.dies.length ∧ a.copy < bumping.copies.length ∧ bumping.accs.take 0 = []) ∧
    (let s := acting storeOp { oneStore with st := .block, space := .scratch, lanes := [⟨0, 0x10000000, [1, 2, 3, 4]⟩] }
     let h := s.homeOf 0 .scratch
     s.homeOk h = true ∧ (s.op 0).race = .off ∧ s.rangeCheck h (s.acc 0).lanes = none ∧ s.accs = [s.acc 0]) := by decide +kernel

/-- Both versions of the line committed, in either order of their SEQ, one of another generation, and no version at all. -/
def versioned (seq kind gen : Nat) : State :=
  let x : FeltSlot := { oldVersion with seq := seq, kind := kind, gen := gen, crc := 0 }
  draining.modDie 0 fun d => { d with felt := [{ key := .shared 0 4, a := some oldVersion
                                                 b := some { x with crc := crc32c (slotBytes x.data x.seq x.gen x.kind x.owner) } }] }

/-- SEQ, and whether it is valid and committed, of each version. -/
def versions (s : State) : List (Option (Nat × Bool × Bool)) :=
  let l := s.feltLine 0 (.shared 0 4)
  [l.a, l.b].map fun x => x.map fun y => (y.seq, y.valid, y.committed s)

theorem witness_DrainsInOrder_slots : versions (versioned 10 0 0) = [some (9, true, true), some (10, true, true)] ∧
    versions (versioned 8 0 0) = [some (9, true, true), some (8, true, true)] ∧
    versions (versioned 8 1 5) = [some (9, true, true), some (8, true, false)] ∧
    versions (draining.modDie 0 fun d => { d with felt := [{ key := .shared 0 4 }] }) = [none, none] := by decide +kernel

/-- The claim was issued under the guard and the MODE of now. -/
theorem witness_StopsEnd_claim : let s := (claiming 512).modWave 0 fun w => { w with stopGuard := w.guard, stopMode := w.mode }
    (s.wave 0).stopGuard = (s.wave 0).guard ∧ (s.wave 0).stopMode = (s.wave 0).mode ∧ (s.wave 0).stop = .claim 512 ∧
    (s.part ⟨0, 0, 0⟩).claims = [(0, 512)] := by decide +kernel

/-- A tile of bfloat16 elements with finite values, and one whose C holds a NaN. -/
def ones (c : Word) : State :=
  let k : Lanes := List.replicate 32 0x3F803F80
  let s := tiling .zero (.due 0) 0
  { s with tiles := [{ s.tile 0 with fn := .bf16, a := List.replicate 8 k, b := List.replicate 8 k, c := List.replicate 8 (List.replicate 32 c) }] }

theorem witness_TilesComplete_float :
    (floatForms.any fun x => x.1 == .bf16 && x.2.2.2 == none) = true ∧
    f32Fin 0x40000000 = true ∧ f32Nan 0x7FC00001 = true ∧
    (let s := ones 0x40000000
     let x := s.tile 0
     let o := s.op 0
     x.st = .due 0 ∧ x.voided = false ∧ modeRound o.mode = 0 ∧ modeTrap o.mode = false ∧ o.counted = 1 ∧ o.cls = some .tile ∧
     o.dst = block8 (BitVec.ofNat 4 x.d) ∧ (x.c.getD 0 []).getD 0 0 = 0x40000000 ∧ s.accs = []) := by decide +kernel

/-- A wave that is not halted, and one that focuses on a lane already. -/
theorem witness_DebugActs_more :
    ((base.wave 0).halted = false ∧ bit (base.wave 0).pm 9 = false) ∧
    (let w := (halted base fun w => { w with focus := some 3, path := [], pathOpen := true }).wave 0
     w.resident = true ∧ w.halted = true ∧ w.exited = false ∧ w.trapDue = false ∧ w.trapHalt = false ∧ w.stop = .run ∧
     bit w.pm 3 = true ∧ (w.focus == some 3) = true) ∧
    (let s : State := { traced true with clusters := (traced true).clusters.map fun c => { c with cyc := 2000000 } }
     (s.wave 0).resident = true ∧ (s.wave 0).trace.on = true ∧ (s.wave 0).trace.needSync = false ∧ s.lostPackets 0 = 0 ∧
     (s.wave 0).trace.packets < 512 ∧ (s.wave 0).trace.clkSync + 8192 ≤ s.waveClk 0) ∧
    modeType 5 ≠ 7 := by decide +kernel

end Sys2Proof.Machine.Test
end

section
/-!
SUPPORT. Control transfers (R70, R215): what the trace unit may change, what a wave that goes on at another PC leaves,
what a trap at issue leaves, and the statement O22.
-/

namespace Sys2Proof.Machine

/-! ### What the trace unit changes (R302 to R305) -/

/-- From `s` to `t` the trace unit has worked for wave `wi`: of the waves only that one's trace state may differ, of the
dies nothing in their persist buffers, and beyond waves, cores and dies nothing. -/
structure OnlyTrace (wi : Nat) (s t : State) : Prop where
  state : t = { s with waves := t.waves, cores := t.cores, dies := t.dies }
  waves : ∃ g : Wave → Trace, t.waves = s.waves.modify wi fun w => { w with trace := g w }
  persist : t.dies.map DieState.persist = s.dies.map DieState.persist

theorem OnlyTrace.refl (wi : Nat) (s : State) : OnlyTrace wi s s :=
  ⟨rfl, ⟨Wave.trace, (List.modify_id ..).symm⟩, rfl⟩

theorem OnlyTrace.trans {wi : Nat} {s t u : State} (h : OnlyTrace wi s t) (k : OnlyTrace wi t u) : OnlyTrace wi s u := by
  obtain ⟨g, hg⟩ := h.waves
  obtain ⟨g', hg'⟩ := k.waves
  refine ⟨?_, ⟨fun w => g' { w with trace := g w }, ?_⟩, k.persist.trans h.persist⟩
  · rw [k.state, h.state]
  · rw [hg', hg, List.modify_modify_eq]; rfl

theorem OnlyTrace.modWave (wi : Nat) (s : State) (g : Wave → Trace) :
    OnlyTrace wi s (s.modWave wi fun w => { w with trace := g w }) := ⟨rfl, ⟨g, rfl⟩, rfl⟩

theorem OnlyTrace.modCore (wi : Nat) (s : State) (d c : Nat) (f : CoreState → CoreState) :
    OnlyTrace wi s (s.modCore d c f) := ⟨rfl, ⟨Wave.trace, (List.modify_id ..).symm⟩, rfl⟩

theorem OnlyTrace.modScratch (wi : Nat) (s : State) (d : Nat) (f : DieState → Memory) :
    OnlyTrace wi s (s.modDie d fun x => { x with scratch := f x }) := by
  refine ⟨rfl, ⟨Wave.trace, (List.modify_id ..).symm⟩, ?_⟩
  apply List.ext_getElem?
  intro j
  simp only [State.modDie, List.getElem?_map, List.getElem?_modify]
  cases s.dies[j]? with
  | none => rfl
  | some x => by_cases hj : d = j <;> simp [hj]

theorem OnlyTrace.ite {wi : Nat} {s t u : State} {c : Prop} [Decidable c] (h : OnlyTrace wi s t) (k : OnlyTrace wi s u) :
    OnlyTrace wi s (if c then t else u) := by
  split
  · exact h
  · exact k

section
variable {wi : Nat} {s t : State}

theorem OnlyTrace.wave_ne (h : OnlyTrace wi s t) {j : Nat} (hj : j ≠ wi) : t.wave j = s.wave j := by
  obtain ⟨g, hg⟩ := h.waves
  simp only [State.wave, hg]; exact getD_modify_ne _ _ _ _ _ (Ne.symm hj)

theorem OnlyTrace.wave_self (h : OnlyTrace wi s t) (hl : wi < s.waves.length) :
    t.wave wi = { s.wave wi with trace := (t.wave wi).trace } := by
  obtain ⟨g, hg⟩ := h.waves
  have e : t.wave wi = { s.wave wi with trace := g (s.wave wi) } := by
    simp only [State.wave, hg]; exact getD_modify_self _ _ _ _ hl
  rw [e]

theorem OnlyTrace.length (h : OnlyTrace wi s t) : t.waves.length = s.waves.length := by
  obtain ⟨g, hg⟩ := h.waves
  rw [hg, List.length_modify]

/-- The holds that bind a wave do not look at its trace. -/
theorem OnlyTrace.unheld (h : OnlyTrace wi s t) (hl : wi < s.waves.length) : t.unheld wi = s.unheld wi := by
  have ha : t.accs = s.accs := by rw [h.state]
  have ho : t.ops = s.ops := by rw [h.state]
  have hp : t.dies.flatMap DieState.persist = s.dies.flatMap DieState.persist := by
    rw [List.flatMap_def, List.flatMap_def, h.persist]
  have hw : ∀ j, t.wave j = { s.wave j with trace := (t.wave j).trace } := fun j => by
    by_cases hj : j = wi
    · subst j; exact h.wave_self hl
    · rw [h.wave_ne hj]
  have hb : ∀ n a, t.bypassed n a = s.bypassed n a := fun n a => by simp only [State.bypassed]; rw [hw a.wave]
  have hi : ∀ n, t.issuedBefore wi n = s.issuedBefore wi n := fun n => by simp only [State.issuedBefore, ha, hb]
  have hc : ∀ x y, t.covered wi x y = s.covered wi x y := fun x y => by
    simp only [State.covered, hp]; rw [hw wi]
  have hover : ∀ x, t.holdOver wi x = s.holdOver wi x := fun x => by
    cases x <;> simp only [State.holdOver, hi, hc, State.op, ho]
  have hh : (t.wave wi).holds = (s.wave wi).holds := by rw [hw wi]
  simp only [State.unheld, hh]
  exact List.all_congr rfl hover

end

theorem scratchPut_onlyTrace (wi vi die : Nat) (bs : Bytes) :
    ∀ (s : State) (a : Nat), OnlyTrace wi s (s.scratchPut vi die a bs) := by
  induction bs with
  | nil => exact fun s _ => .refl wi s
  | cons b bs ih => exact fun s a => (OnlyTrace.modScratch wi s die _).trans (ih _ _)

theorem putPacket_onlyTrace (s : State) (wi : Nat) (bs : Bytes) : OnlyTrace wi s (putPacket s wi bs) := by
  unfold putPacket
  split
  · exact .refl wi s
  · exact .ite (.modCore ..) <| (scratchPut_onlyTrace ..).trans <| (scratchPut_onlyTrace ..).trans <|
      (scratchPut_onlyTrace ..).trans <| (OnlyTrace.modCore ..).trans (.modWave ..)

theorem putSync_onlyTrace (s : State) (wi : Nat) : OnlyTrace wi s (putSync s wi) :=
  (putPacket_onlyTrace ..).trans (.modWave ..)

theorem putTs_onlyTrace (s : State) (wi : Nat) : OnlyTrace wi s (putTs s wi) :=
  (putPacket_onlyTrace ..).trans (.modWave ..)

theorem syncFull_onlyTrace (s : State) (wi : Nat) : OnlyTrace wi s (syncFull s wi) :=
  .ite (putSync_onlyTrace s wi) (.refl wi s)

theorem stampFirst_onlyTrace (s : State) (wi : Nat) : OnlyTrace wi s (stampFirst s wi) :=
  (OnlyTrace.ite (putTs_onlyTrace s wi) (.refl wi s)).trans (syncFull_onlyTrace _ wi)

theorem putBranches_onlyTrace (s : State) (wi : Nat) : OnlyTrace wi s (putBranches s wi) :=
  .ite (.refl wi s) <| (stampFirst_onlyTrace s wi).trans <| (putPacket_onlyTrace ..).trans (.modWave ..)

theorem putLoss_onlyTrace (s : State) (wi : Nat) : OnlyTrace wi s (putLoss s wi) :=
  (putBranches_onlyTrace s wi).trans <| (OnlyTrace.modCore ..).trans <|
    (putPacket_onlyTrace ..).trans (putSync_onlyTrace _ wi)

theorem traceDue_onlyTrace (s : State) (wi : Nat) : OnlyTrace wi s (traceDue s wi) :=
  .ite (.refl wi s) <| .ite (putLoss_onlyTrace s wi) <| .ite (putSync_onlyTrace s wi) <|
    .ite ((putBranches_onlyTrace s wi).trans (putSync_onlyTrace _ wi)) (.refl wi s)

theorem flushBr_onlyTrace (s : State) (wi : Nat) : OnlyTrace wi s (flushBr s wi) :=
  .ite ((traceDue_onlyTrace s wi).trans (putBranches_onlyTrace _ wi)) (.refl wi s)

theorem emitTarget_onlyTrace (s : State) (wi : Nat) (pc : Word) : OnlyTrace wi s (emitTarget s wi pc) :=
  .ite ((flushBr_onlyTrace s wi).trans <| (stampFirst_onlyTrace _ wi).trans (putPacket_onlyTrace ..)) (.refl wi s)

theorem emitBranch_onlyTrace (s : State) (wi : Nat) (taken : Bool) : OnlyTrace wi s (emitBranch s wi taken) :=
  have held := (traceDue_onlyTrace s wi).trans
    (.modWave wi _ fun w => { w.trace with held := w.trace.held ++ [taken] })
  .ite (.ite held (held.trans (flushBr_onlyTrace _ wi))) (.refl wi s)

theorem emitTarget_untraced {s : State} {wi : Nat} (pc : Word) (h : (s.wave wi).trace.on = false) :
    emitTarget s wi pc = s := by
  simp [emitTarget, emit, h]

theorem emitBranch_untraced {s : State} {wi : Nat} (taken : Bool) (h : (s.wave wi).trace.on = false) :
    emitBranch s wi taken = s := by
  simp [emitBranch, h]

/-! ### No byte of memory changes -/

/-- Cores and what is no spill area of a wave hold no byte of memory. -/
theorem sameMem_of_spill {s t : State} (hb : t.blocks = s.blocks) (hd : t.dies = s.dies) (hv : t.vis = s.vis)
    (hh : t.hostMem = s.hostMem) (hp : t.procs = s.procs) (hw : ∀ j, (t.wave j).spill = (s.wave j).spill) :
    SameMem s t := by
  refine ⟨fun h a => ?_, fun d a => ?_, fun a => ?_, fun v a => ?_, fun p a => ?_⟩
  · cases h with
    | shared b => simp only [State.homeRead, State.block, hb]
    | scratch v d => simp only [State.homeRead, State.scratchPhys, State.owned, State.die, State.vi, hd, hv]
    | spill j => simp only [State.homeRead, hw]
  · simp only [State.die, hd]
  · rw [hh]
  · simp only [State.vi, hv]
  · simp only [State.proc, hp]

/-- An update of one wave that leaves its spill area changes no byte of memory. -/
theorem sameMem_modWave (s : State) (wi : Nat) (f : Wave → Wave) (hf : ∀ w, (f w).spill = w.spill) :
    SameMem s (s.modWave wi f) := by
  refine sameMem_of_spill rfl rfl rfl rfl rfl fun j => ?_
  by_cases hj : wi = j
  · subst hj
    by_cases hl : wi < s.waves.length
    · rw [State.modWave_self s wi f hl, hf]
    · simp [State.wave, State.modWave, List.getD_eq_getElem?_getD, List.getElem?_eq_none (Nat.le_of_not_lt hl)]
  · rw [State.modWave_ne s wi j f hj]

theorem SameMem.trans {s t u : State} (h : SameMem s t) (k : SameMem t u) : SameMem s u :=
  ⟨fun x a => (k.homes x a).trans (h.homes x a), fun d a => (k.hbm d a).trans (h.hbm d a),
    fun a => (k.host a).trans (h.host a), fun v a => (k.hdm v a).trans (h.hdm v a),
    fun p a => (k.procs p a).trans (h.procs p a)⟩

/-! ### A wave that goes on at another PC -/

theorem goto_unheld {s : State} {wi : Nat} (pc : Word) (h : s.unheld wi = true) :
    goto s wi pc = s.modWave wi fun w => { w.retired with pc := pc } := by
  rw [goto, advance_eq s wi h, State.modWave_modWave]

/-- An instruction that only traces before its wave goes on at `pc`. -/
theorem tracedWave_goto {i : Instr} {s t : State} {wi : Nat} {pc : Word} (he : exec i s = .next (goto t wi pc))
    (hl : wi < s.waves.length) (hu : s.unheld wi = true) (ht : OnlyTrace wi s t)
    (hoff : (s.wave wi).trace.on = false → t = s) : TracedWave i s wi { (s.wave wi).retired with pc := pc } := by
  have hlt : wi < t.waves.length := ht.length ▸ hl
  have hgoto : goto t wi pc = t.modWave wi fun w => { w.retired with pc := pc } :=
    goto_unheld pc ((ht.unheld hl).trans hu)
  have hwave : (goto t wi pc).wave wi = { (t.wave wi).retired with pc := pc } := by
    rw [hgoto, State.modWave_self t wi _ hlt]
  refine ⟨goto t wi pc, he, ?_, ?_, fun h => ?_⟩
  · rw [hwave, ht.wave_self hl]; rfl
  · obtain ⟨g, hg⟩ := ht.waves
    have hset : s.waves.set wi { (t.wave wi).retired with pc := pc } =
        (t.modWave wi fun w => { w.retired with pc := pc }).waves := by
      rw [State.modWave_eq_set t wi _ hlt]
      apply List.ext_getElem?
      intro j
      by_cases hj : wi = j
      · subst hj; simp [hl, hlt]
      · simp [hg, hj]
    rw [hwave, hset, hgoto]
    exact congrArg (fun u => State.modWave u wi fun w => { w.retired with pc := pc }) ht.state
  · rw [hoff h] at hgoto ⊢
    rw [hgoto]
    exact ⟨State.modWave_eq_set s wi _ hl, sameMem_modWave s wi _ fun _ => rfl⟩

/-! ### The link register -/

theorem freeSlot_frees (l : List Slot) (d : BitVec 7) : ((freeSlot l d).any fun x => x.reg == some d) = false := by
  simp only [freeSlot, List.any_map, List.any_eq_false, Function.comp]
  intro x _
  split <;> simp_all

theorem Wave.put_u_hasSlot (w : Wave) (d : BitVec 7) (x : Word) : (w.put d (.u x)).hasSlot d = false :=
  freeSlot_frees w.slots d

/-- An instruction that writes U to one register before its wave goes on at `pc`. -/
theorem writesU_goto {i : Instr} {s : State} {wi : Nat} {d : BitVec 7} {x pc : Word}
    (he : exec i s = .next (goto (putU s wi d x) wi pc)) (hl : wi < s.waves.length) (hu : s.unheld wi = true)
    (hr : (s.wave wi).regs.length = 128) : WritesU i s wi pc [(d, x)] := by
  have hputs : (s.wave wi).puts [(d, .u x)] = (s.wave wi).put d (.u x) := rfl
  obtain ⟨-, -, hregs, hphys, hslots, -⟩ := Wave.puts_keeps [(d, .u x)] (s.wave wi)
  rw [hputs] at hregs hphys hslots
  have hheld : (putU s wi d x).unheld wi = true :=
    (unheld_modWave s wi (fun w => w.put d (.u x)) hl ⟨rfl, rfl, rfl, rfl, rfl⟩ _ rfl rfl rfl rfl).trans hu
  have hgoto : goto (putU s wi d x) wi pc = s.modWave wi fun w => { (w.put d (.u x)).retired with pc := pc } := by
    rw [goto_unheld pc hheld, putU, State.modWave_modWave]
  have hwave : (goto (putU s wi d x) wi pc).wave wi = { ((s.wave wi).put d (.u x)).retired with pc := pc } := by
    rw [hgoto, State.modWave_self s wi _ hl]
  refine ⟨_, he, ?_, ?_, ?_, ?_, ?_, ?_, ?_⟩
  · rw [hwave, hgoto]; exact State.modWave_eq_set s wi _ hl
  · rw [hwave]; rfl
  · intro y hy
    obtain rfl : y = (d, x) := by simpa using hy
    rw [hwave]
    exact ⟨(s.wave wi).put_reg d (.u x) hr, (s.wave wi).put_u_hasSlot d x⟩
  · rw [hwave]; exact hregs
  · rw [hwave]; exact hphys
  · rw [hwave]; exact hslots
  · rw [hgoto]; exact sameMem_modWave s wi _ fun _ => rfl

/-! ### Branches, jumps and calls (R70, R215) -/

/-- The thirteen conditions of R70, in the order of their codes. -/
theorem condHolds_table (w : Wave) (n : Nat) (h : n ≤ 12) :
    condHolds w n = [true, w.z, !w.z, w.n != w.v, w.n == w.v, w.z || w.n != w.v, !w.z && w.n == w.v, !w.c, w.c, w.mz,
      !w.mz, w.mf, !w.mf].getD n false := by
  match n, h with
  | 0, _ | 1, _ | 2, _ | 3, _ | 4, _ | 5, _ | 6, _ | 7, _ | 8, _ | 9, _ | 10, _ | 11, _ | 12, _ => rfl
  | _ + 13, h => omega

theorem exec_br_tracedWave (c : BitVec 5) (off : BitVec 19) {s : State} {wi : Nat} {regs : List (BitVec 7)}
    (h : s.ready wi regs = true) : TracedWave (.br c off) s wi
      { (s.wave wi).retired with
        pc := if condHolds (s.wave wi) c.toNat then branchTarget (s.wave wi).pc off else (s.wave wi).pc + 4 } := by
  obtain ⟨-, hl, hu, -⟩ := State.ready_cur h
  refine tracedWave_goto (t := if c = 0 then s else emitBranch s wi (condHolds (s.wave wi) c.toNat))
    (begin_ready _ h (by simp)) hl hu (.ite (.refl wi s) (emitBranch_onlyTrace s wi _)) fun hoff => ?_
  rw [emitBranch_untraced _ hoff, ite_self]

/-- `jmp` and `ret`, where register `a` has suffered no error. -/
theorem jumpTo_tracedWave {i : Instr} {a : BitVec 7} {s : State} {wi : Nat} {regs : List (BitVec 7)}
    (he : exec i s = jumpTo s i a) (h : s.ready wi regs = true) (ha : a ∈ regs) : TracedWave i s wi
      { (s.wave wi).retired with pc := ((s.wave wi).reg a).lane (s.wave wi).l0 &&& 0xFFFFFFFC } := by
  obtain ⟨-, hl, hu, hregs⟩ := State.ready_cur h
  have hsoft : (s.wave wi).softReads [a] = false := by
    simpa [Wave.softReads] using fun x y hx => (hregs a ha).2 (x, y) hx
  have hrun : exec i s = .next (goto (emitTarget s wi (((s.wave wi).reg a).lane (s.wave wi).l0 &&& 0xFFFFFFFC)) wi
      (((s.wave wi).reg a).lane (s.wave wi).l0 &&& 0xFFFFFFFC)) := by
    rw [he, jumpTo, begin_ready _ h (by simpa using ha)]
    simp only [hsoft, Bool.false_eq_true, if_false]
  exact tracedWave_goto hrun hl hu (emitTarget_onlyTrace s wi _) (emitTarget_untraced _)

theorem exec_call_writesU (d : BitVec 7) (off : BitVec 17) {s : State} {wi : Nat} {regs : List (BitVec 7)}
    (h : s.ready wi regs = true) (hd : d ∈ regs) (hr : (s.wave wi).regs.length = 128) :
    WritesU (.call d off) s wi (branchTarget (s.wave wi).pc off) [(d, (s.wave wi).pc + 4)] := by
  obtain ⟨-, hl, hu, -⟩ := State.ready_cur h
  exact writesU_goto (begin_ready _ h (by simpa using hd)) hl hu hr

/-! ### A trap raised at issue (R218, R231, R232) -/

theorem State.canTrap_parts {s : State} {wi base : Nat} {regs : List (BitVec 7)} (h : s.canTrap wi base regs = true) :
    s.ready wi regs = true ∧ (s.wave wi).trapMode = false ∧ (s.wave wi).halted = false ∧ (s.wave wi).exited = false ∧
      (s.wave wi).stop = .run ∧ s.gatedCore wi = false ∧ s.handler wi = some base := by
  simpa [State.canTrap, and_assoc] using h

/-- Taking claims out of a queue changes no more of a core than what its partitions hold. -/
theorem dropClaims_core (s : State) (wi d c : Nat) :
    (dropClaims s wi).core d c = { s.core d c with parts := ((dropClaims s wi).core d c).parts } := by
  simp only [dropClaims, State.modPart, State.modCore, State.core, List.getD_eq_getElem?_getD, List.getElem?_modify]
  cases s.cores[96 * d + c]? with
  | none => rfl
  | some x => by_cases h : 96 * (s.wave wi).part.die + (s.wave wi).part.core = 96 * d + c <;> simp [h]

/-- A wave that is stopped on nothing leaves nothing to be taken up again. -/
theorem suspend_run {s : State} {wi : Nat} (h : (s.wave wi).stop = .run) :
    suspend s wi = (dropClaims s wi).modWave wi fun w =>
      { w with stop := .run, issued := false, suspended := suspendedOf (s.waveClk wi) w } := by
  simp [suspend, leaveStop, h]

section
variable {s : State} {wi base cls : Nat}

/-- Entering a handler adds a blank operation; beyond that it changes waves, cores and, by the trace, dies. -/
theorem enterHandler_state (h : (s.wave wi).stop = .run) :
    let t := enterHandler s wi base cls
    t = { s with waves := t.waves, cores := t.cores, dies := t.dies, ops := s.ops ++ [MemOp.blank] } := by
  have hs := suspend_run h
  have ht := (emitTarget_onlyTrace (suspend s wi) wi (BitVec.ofNat 32 (base + cls * 0x40))).state
  simp only [enterHandler]
  rw [ht, hs]
  rfl

/-- A wave that is stopped on nothing, once it has left its stop: its trace is as it was. -/
theorem suspend_wave (hl : wi < s.waves.length) (h : (s.wave wi).stop = .run) :
    (suspend s wi).wave wi =
      { s.wave wi with stop := .run, issued := false, suspended := ((suspend s wi).wave wi).suspended } := by
  have e : (suspend s wi).wave wi =
      { s.wave wi with stop := .run, issued := false, suspended := suspendedOf (s.waveClk wi) (s.wave wi) } := by
    rw [suspend_run h]; exact State.modWave_self (dropClaims s wi) wi _ hl
  rw [e]

theorem suspend_length (h : (s.wave wi).stop = .run) : (suspend s wi).waves.length = s.waves.length := by
  rw [suspend_run h]; exact State.modWave_length ..

theorem enterHandler_wave (hl : wi < s.waves.length) (h : (s.wave wi).stop = .run) :
    let t := enterHandler s wi base cls
    t.wave wi =
      { s.wave wi with
        trapMode := true, pc := BitVec.ofNat 32 (base + cls * 0x40), stop := .run, issued := false
        suspended := (t.wave wi).suspended, trapOp := s.ops.length, holdsOut := (s.wave wi).holds, holds := []
        trapDue := false, trace := (t.wave wi).trace } := by
  have htrace := emitTarget_onlyTrace (suspend s wi) wi (BitVec.ofNat 32 (base + cls * 0x40))
  have hls := (suspend_length h).symm ▸ hl
  have e : (enterHandler s wi base cls).wave wi = _ := State.modWave_self _ wi _ (htrace.length ▸ hls)
  intro t
  rw [e, htrace.wave_self hls, suspend_wave hl h]

theorem enterHandler_wave_ne (h : (s.wave wi).stop = .run) {j : Nat} (hj : j ≠ wi) :
    (enterHandler s wi base cls).wave j = s.wave j := by
  have htrace := emitTarget_onlyTrace (suspend s wi) wi (BitVec.ofNat 32 (base + cls * 0x40))
  calc (enterHandler s wi base cls).wave j
      _ = (emitTarget (suspend s wi) wi (BitVec.ofNat 32 (base + cls * 0x40))).wave j :=
        State.modWave_ne _ wi j _ (Ne.symm hj)
      _ = (suspend s wi).wave j := htrace.wave_ne hj
      _ = s.wave j := by rw [suspend_run h]; exact State.modWave_ne (dropClaims s wi) wi j _ (Ne.symm hj)

theorem enterHandler_untraced (hl : wi < s.waves.length) (h : (s.wave wi).stop = .run)
    (hoff : (s.wave wi).trace.on = false) :
    let t := enterHandler s wi base cls
    (t.wave wi).trace = (s.wave wi).trace ∧ t.dies = s.dies ∧
      ∀ d c, t.core d c = { s.core d c with parts := (t.core d c).parts } := by
  have hquiet : emitTarget (suspend s wi) wi (BitVec.ofNat 32 (base + cls * 0x40)) = suspend s wi :=
    emitTarget_untraced _ (by rw [suspend_wave hl h]; exact hoff)
  have e : (enterHandler s wi base cls).wave wi = _ :=
    State.modWave_self _ wi _ (hquiet.symm ▸ (suspend_length h).symm ▸ hl)
  refine ⟨?_, ?_, fun d c => ?_⟩
  · rw [e, hquiet, suspend_wave hl h]
  · simp only [enterHandler, hquiet]; rw [suspend_run h]; rfl
  · simp only [enterHandler, hquiet]; rw [suspend_run h]; exact dropClaims_core s wi d c

theorem enterHandler_sameMem (hl : wi < s.waves.length) (h : (s.wave wi).stop = .run)
    (hoff : (s.wave wi).trace.on = false) : SameMem s (enterHandler s wi base cls) := by
  obtain ⟨-, hdies, -⟩ := enterHandler_untraced (base := base) (cls := cls) hl h hoff
  have hstate := enterHandler_state (base := base) (cls := cls) h
  refine sameMem_of_spill (by rw [hstate]) hdies (by rw [hstate]) (by rw [hstate]) (by rw [hstate]) fun j => ?_
  by_cases hj : j = wi
  · subst hj; rw [enterHandler_wave hl h]
  · rw [enterHandler_wave_ne h hj]

end

theorem State.waveBlock_modWave (s : State) (wi : Nat) (f : Wave → Wave) (hl : wi < s.waves.length)
    (hf : ∀ w, (f w).blk = w.blk) : (s.modWave wi f).waveBlock wi = s.waveBlock wi := by
  simp only [State.waveBlock, State.modWave_self s wi f hl, hf, State.modWave_get_block]

theorem State.handler_modWave (s : State) (wi : Nat) (f : Wave → Wave) (hl : wi < s.waves.length)
    (hf : ∀ w, (f w).blk = w.blk) : (s.modWave wi f).handler wi = s.handler wi := by
  have hk : (s.modWave wi f).waveKernel wi = s.waveKernel wi := by
    simp only [State.waveKernel, State.waveLaunch, State.waveBlock_modWave s wi f hl hf, State.modWave_get_launch,
      State.modWave_get_kernel]
  rw [State.handler, hk, State.handler]

/-- A wave whose side buffer holds the entry of a trap, before the wave enters its handler. -/
def Wave.recordTrap (t : TrapInfo) (gen : Nat) (w : Wave) : Wave :=
  { w with unissued := t.failsCheck, sb := t.words gen, what := t.what }

/-- A wave that can trap records the trap and enters its handler. -/
theorem takeTrap_enters {s : State} {wi base : Nat} {regs : List (BitVec 7)} (t : TrapInfo)
    (h : s.canTrap wi base regs = true) :
    takeTrap s wi t =
      enterHandler (s.modWave wi (Wave.recordTrap t (s.waveBlock wi).gen)) wi base t.cls.code := by
  obtain ⟨hr, hmode, hhalt, hexit, -, hgate, hhand⟩ := State.canTrap_parts h
  obtain ⟨-, hl, -, -⟩ := State.ready_cur hr
  have hmark := State.modWave_self s wi (fun w => { w with unissued := t.failsCheck }) hl
  have hblock := State.waveBlock_modWave s wi (fun w => { w with unissued := t.failsCheck }) hl fun _ => rfl
  have henter : ∀ u, u = s.modWave wi (Wave.recordTrap t (s.waveBlock wi).gen) →
      enterTrap u wi t.cls t.code = enterHandler u wi base t.cls.code := by
    rintro u rfl
    have hh := (State.handler_modWave s wi (Wave.recordTrap t (s.waveBlock wi).gen) hl fun _ => rfl).trans hhand
    have he : ((s.modWave wi (Wave.recordTrap t (s.waveBlock wi).gen)).wave wi).exited = false := by
      rw [State.modWave_self s wi _ hl]; exact hexit
    simp [enterTrap, hh, he]
  rw [← henter _ rfl]
  simp only [takeTrap, hmark, hblock, hmode, hhalt, State.modWave_modWave, State.modWave_get_core]
  simp only [State.gatedCore] at hgate
  simp only [hgate, Bool.false_eq_true, if_false]
  rfl

theorem TrapInfo.words_getD (t : TrapInfo) (gen : Nat) :
    (t.words gen).getD 0 0 = BitVec.ofNat 32 t.hdr ∧ (t.words gen).getD 1 0 = t.tpc ∧ (t.words gen).getD 2 0 = t.rpc ∧
      (t.words gen).getD 4 0 = t.iword ∧ (t.words gen).getD 6 0 = t.guard ∧
      (t.words gen).getD 7 0 = t.mode.zeroExtend 32 ∧ (t.words gen).getD 9 0 = BitVec.ofNat 32 gen :=
  ⟨rfl, rfl, rfl, rfl, rfl, BitVec.ofNat_toNat .., rfl⟩

/-- A trap of class `cls` raised at issue, in a wave that can trap. -/
theorem issueTrap_trapped {s : State} {wi base : Nat} {regs : List (BitVec 7)} (word : Word) (cls : TrapClass) {code : Nat}
    (lanes : Word) (detail : List Nat) (laneDetail : List (Nat × Nat)) (h : s.canTrap wi base regs = true)
    (hc : code < 256) :
    Trapped s (issueTrap s wi word cls code lanes detail laneDetail) wi base cls code 0 (s.wave wi).pc (s.wave wi).pc
      word := by
  obtain ⟨hr, -, -, -, hstop, -, -⟩ := State.canTrap_parts h
  obtain ⟨-, hl, -, -⟩ := State.ready_cur hr
  rw [issueTrap, takeTrap_enters _ h]
  generalize hi : TrapInfo.mk .. = info
  generalize hrr : s.modWave wi (Wave.recordTrap info (s.waveBlock wi).gen) = r
  have hself : r.wave wi = (s.wave wi).recordTrap info (s.waveBlock wi).gen := hrr ▸ State.modWave_self s wi _ hl
  have hne : ∀ j, j ≠ wi → r.wave j = s.wave j := fun j hj => hrr ▸ State.modWave_ne s wi j _ (Ne.symm hj)
  have hlr : wi < r.waves.length := by rw [← hrr, State.modWave_length]; exact hl
  have hrun : (r.wave wi).stop = .run := by rw [hself]; exact hstop
  have hwave := enterHandler_wave (base := base) (cls := info.cls.code) hlr hrun
  have hstate := enterHandler_state (base := base) (cls := info.cls.code) hrun
  rw [hself] at hwave
  have hsb : ((enterHandler r wi base info.cls.code).wave wi).sb = info.words (s.waveBlock wi).gen := by rw [hwave]; rfl
  obtain ⟨w0, w1, w2, w4, w6, w7, w9⟩ := info.words_getD (s.waveBlock wi).gen
  rw [← hsb] at w0 w1 w2 w4 w6 w7 w9
  have hmem := sameMem_modWave s wi (Wave.recordTrap info (s.waveBlock wi).gen) fun _ => rfl
  subst hi
  refine ⟨?_, ?_, ?_, w1, w2, w4, w6, w7, w9, fun j hj => (enterHandler_wave_ne hrun hj).trans (hne j hj), ?_,
    fun hoff => ?_⟩
  · rw [hwave]; simp [Wave.recordTrap, ← hrr, Nat.mul_comm]
  · rw [hsb, words_length]
  · rw [w0]; simp [TrapInfo.hdr, TrapKind.code, Nat.mod_eq_of_lt hc]
  · rw [hstate, ← hrr]; exact ⟨rfl, rfl, rfl, rfl, rfl, rfl, rfl, rfl⟩
  · have hoffr : (r.wave wi).trace.on = false := by rw [hself]; exact hoff
    obtain ⟨htrace, hdies, hcores⟩ := enterHandler_untraced (base := base) (cls := cls.code) hlr hrun hoffr
    rw [hself] at htrace
    rw [hrr] at hmem
    exact ⟨htrace, hdies.trans (by rw [← hrr]; rfl), hmem.trans (enterHandler_sameMem hlr hrun hoffr),
      fun d c => (hcores d c).trans (by rw [← hrr]; rfl)⟩

/-! ### The word of no branch (R70, R86) -/

/-- A `br` whose COND is no condition of R70 is no instruction. -/
theorem decode_br_badCond {word : Word} (hop : opOf word = 0x02) (hc : 12 < (cond word).toNat) :
    decode word = .error .subop := by
  simp [decode, hop, decodeControl, chk, hc]

/-- A word that decode refuses raises ILL with the code of the refusal. -/
theorem illWord_issueTraps {word : Word} {e : DecodeError} {s : State} {wi base : Nat} (hd : decode word = .error e)
    (hp : e ≠ .portable) (h : s.canTrap wi base [] = true) :
    IssueTraps (.illWord word) s wi base .ill (errorCode e) word := by
  have hr := (State.canTrap_parts h).1
  have hcode : illCode (s.wave wi) word = errorCode e := by
    rw [illCode, hd]
    cases e
    case portable => exact absurd rfl hp
    all_goals rfl
  have hlt : errorCode e < 256 := by cases e <;> decide
  have hrun : exec (.illWord word) s = .next (issueTrap s wi word .ill (errorCode e)) := by
    rw [← hcode]; exact begin_ready _ hr (by simp)
  exact ⟨_, hrun, issueTrap_trapped word .ill 0 [] [] h hlt⟩

/-! ### The statement -/

/-- Settles O22: branches and jumps trace and go on, `call` writes its link first, and a COND of 13 or more traps. -/
theorem controlTransfers : Obligations.ControlTransfers := by
  unfold Obligations.ControlTransfers
  refine ⟨fun c off far d a s wi hready hregs => ?_, fun word s wi base hop hcond => ?_⟩
  · refine ⟨fun hc => ?_, ?_, ?_, ?_⟩
    · rw [← condHolds_table (s.wave wi) c.toNat hc, BitVec.mul_comm 4]
      exact exec_br_tracedWave c off hready
    · exact jumpTo_tracedWave rfl hready (by simp)
    · exact jumpTo_tracedWave rfl hready (by simp)
    · rw [BitVec.mul_comm 4]
      exact exec_call_writesU d far hready (by simp) hregs
  · have hd := decode_br_badCond hop hcond
    exact ⟨hd, illWord_issueTraps hd (by decide)⟩

end Sys2Proof.Machine
end

section
/-!
SUPPORT. Logic, shifts and bit fields (R110 to R112): the word functions of the model in terms of the operations on bit
vectors that the rules name, and the statements O1 and O2.
-/

namespace Sys2Proof.Machine

/-! ### Masks, bit counts and leading zeros (R2, R112) -/

/-- A sum of the powers of two below `2 ^ n` that `f` picks has the bits of `f`. -/
theorem sumPow_testBit (f : Nat → Bool) (n : Nat) :
    let m := (List.range n).foldl (fun acc i => if f i then acc + 2 ^ i else acc) 0
    m < 2 ^ n ∧ ∀ j, m.testBit j = (decide (j < n) && f j) := by
  induction n with
  | zero => simp
  | succ n ih =>
    obtain ⟨hlt, hbit⟩ := ih
    simp only [List.range_succ, List.foldl_append, List.foldl_cons, List.foldl_nil]
    have hpow : 2 ^ (n + 1) = 2 ^ n + 2 ^ n := by omega
    have hsucc : ∀ j, j ≠ n → decide (j < n + 1) = decide (j < n) := fun j hj => decide_eq_decide.2 (by omega)
    cases hf : f n with
    | false =>
      simp only [Bool.false_eq_true, if_false]
      refine ⟨by omega, fun j => ?_⟩
      by_cases hj : j = n
      · rw [hbit, hj, hf, Bool.and_false, Bool.and_false]
      · rw [hbit, hsucc j hj]
    | true =>
      simp only [if_true]
      refine ⟨by omega, fun j => ?_⟩
      have hor := Nat.two_pow_add_eq_or_of_lt hlt 1
      rw [Nat.mul_one, Nat.add_comm] at hor
      rw [hor, Nat.testBit_or, hbit]
      by_cases hj : j = n
      · rw [hj, hf, Nat.testBit_two_pow_self, decide_eq_true (Nat.lt_succ_self n), Bool.true_or, Bool.and_self]
      · rw [Nat.testBit_two_pow_of_ne (Ne.symm hj), hsucc j hj, Bool.false_or]

@[simp] theorem maskOf_getLsbD (f : Nat → Bool) (j : Nat) : (maskOf f).getLsbD j = (decide (j < 32) && f j) := by
  rw [maskOf, BitVec.getLsbD_ofNat, (sumPow_testBit f 32).2, ← Bool.and_assoc, Bool.and_self]

/-- The number of leading zeros follows from the place of the highest set bit (R112). -/
theorem clz_eq_log2 {x : Word} (h : x ≠ 0) : x.clz = BitVec.ofNat 32 (31 - Nat.log2 x.toNat) := by
  have hlo := BitVec.two_pow_sub_clz_le_toNat_of_ne_zero (by decide) h
  have hhi := BitVec.toNat_lt_two_pow_sub_clz (x := x)
  have hlt : x.clz.toNat < 32 := BitVec.lt_def.1 (BitVec.clz_lt_iff_ne_zero.2 h)
  have hne : x.toNat ≠ 0 := fun e => h (BitVec.eq_of_toNat_eq e)
  have hlog : Nat.log2 x.toNat = 31 - x.clz.toNat :=
    (Nat.log2_eq_iff hne).2 ⟨hlo, by rwa [show 31 - x.clz.toNat + 1 = 32 - x.clz.toNat by omega]⟩
  apply BitVec.eq_of_toNat_eq
  rw [BitVec.toNat_ofNat, hlog]
  omega

theorem clz_word (x : Word) : (if x = 0 then 32 else BitVec.ofNat 32 (31 - Nat.log2 x.toNat)) = x.clz := by
  split
  · subst x; rfl
  · exact (clz_eq_log2 ‹_›).symm

theorem maskOf_reverse (x : Word) : (maskOf fun i => bit x (31 - i)) = x.reverse := by
  apply BitVec.eq_of_getLsbD_eq
  intro i hi
  rw [maskOf_getLsbD, BitVec.getLsbD_reverse, BitVec.getMsbD]
  rfl

theorem popcount_eq_countP (x : Word) : popcount x = (List.range 32).countP x.getLsbD :=
  List.countP_eq_length_filter.symm

/-! ### Shift amounts and fields (R110, R111) -/

theorem and_31_toNat (x : Word) : (x &&& 31).toNat = x.toNat % 32 := by
  rw [BitVec.toNat_and]; exact Nat.and_two_pow_sub_one_eq_mod x.toNat 5

theorem rotateLeft_eq_shifts (x y : Word) :
    x.rotateLeft (y.toNat % 32) = (x <<< (y &&& 31)) ||| (x >>> (32 - (y &&& 31))) := by
  have hle : (32 - (y &&& 31)).toNat = 32 - y.toNat % 32 := by
    have hn : y.toNat % 32 < 32 := Nat.mod_lt _ (by decide)
    rw [BitVec.toNat_sub, and_31_toNat, show (32 : Word).toNat = 32 from rfl]
    omega
  rw [BitVec.rotateLeft_def, BitVec.shiftLeft_eq', BitVec.ushiftRight_eq', hle, and_31_toNat, Nat.mod_mod]

theorem fieldPos_eq (y : Word) : fieldPos y = (y &&& 31).toNat := by
  rw [and_31_toNat]; simp [fieldPos, bitsOf]

/-- The ones of a bit field whose length is read from bits 13 to 8, capped at 32 (R111). -/
theorem fieldMask_eq (y : Word) :
    fieldMask y = if Nat.min (y.extractLsb' 8 6).toNat 32 = 32 then (0xFFFFFFFF : Word)
      else ((1 : Word) <<< Nat.min (y.extractLsb' 8 6).toNat 32) - 1 := by
  have hlen : bitsOf y.toNat 8 6 = (y.extractLsb' 8 6).toNat := by
    simp [bitsOf, Nat.shiftRight_eq_div_pow]
  rcases Nat.lt_or_ge (y.extractLsb' 8 6).toNat 32 with hlt | hge
  · have hmin : Nat.min (y.extractLsb' 8 6).toNat 32 = (y.extractLsb' 8 6).toNat := Nat.min_eq_left (Nat.le_of_lt hlt)
    have hone : (1 : Word) <<< (y.extractLsb' 8 6).toNat = BitVec.ofNat 32 (2 ^ (y.extractLsb' 8 6).toNat) :=
      BitVec.eq_of_toNat_eq (by simp [Nat.shiftLeft_eq])
    rw [fieldMask, hlen, if_neg (Nat.not_le.2 hlt), hmin, if_neg (Nat.ne_of_lt hlt), hone]
    exact (BitVec.ofNat_sub_ofNat_of_le _ _ (by decide) Nat.one_le_two_pow).symm
  · have hmin : Nat.min (y.extractLsb' 8 6).toNat 32 = 32 := Nat.min_eq_right hge
    rw [fieldMask, hlen, if_pos hge, hmin, if_pos rfl]

/-! ### The shape of a left shift (R37, R110) -/

/-- A line shifted left by a uniform amount is the line of the shifted values. -/
theorem shlShape_lane {x y r : Reg} (h : shlShape x y = some r) (l : Nat) :
    r.lane l = x.lane l <<< ((y.lane l).toNat % 32) := by
  cases x with
  | a b t =>
    cases y with
    | u k =>
      obtain rfl : .a (b <<< (k.toNat % 32)) (t <<< (k.toNat % 32)) = r := by simpa [shlShape] using h
      simp only [Reg.lane, BitVec.shiftLeft_eq_mul_twoPow, BitVec.add_mul, BitVec.mul_assoc]
    | a => simp [shlShape] at h
    | v => simp [shlShape] at h
  | u => simp [shlShape] at h
  | v => simp [shlShape] at h

/-- Whether `shlShape` gives the line or leaves `r`, which is computed lane by lane, the lanes are those of the shift. -/
theorem shlShape_getD_lane {x y r : Reg} {l : Nat} (hr : r.lane l = x.lane l <<< ((y.lane l).toNat % 32)) :
    ((shlShape x y).getD r).lane l = x.lane l <<< ((y.lane l).toNat % 32) := by
  cases h : shlShape x y with
  | none => exact hr
  | some q => exact shlShape_lane h l

theorem exec_shl (d a b : BitVec 7) (s : State) : exec (.shl d a b) s = laneFree s (.shl d a b) [d, a, b] fun w =>
    { reads := [a, b], unit := .vector
      writes := [(d, (shlShape (w.reg a) (w.reg b)).getD
        (mapR [w.reg a, w.reg b] fun xs => (on2 0 (fun x y : Word => x <<< (y.toNat % 32)) xs, 0)).reg)] } := by
  show execShl d a b s = _
  unfold execShl
  congr 1
  funext w
  cases shlShape (w.reg a) (w.reg b) <;> rfl

theorem exec_shli (d a : BitVec 7) (n : BitVec 5) (s : State) :
    exec (.shli d a n) s = laneFree s (.shli d a n) [d, a] fun w =>
      { reads := [a], unit := .vector
        writes := [(d, (shlShape (w.reg a) (.u (immZ n))).getD
          (mapR [w.reg a] fun xs => (on1 0 (fun x : Word => x <<< n.toNat) xs, 0)).reg)] } := by
  show execShli d a n s = _
  unfold execShli
  congr 1
  funext w
  cases shlShape (w.reg a) (.u (immZ n)) <;> rfl

theorem shl_writesLane (d a b : BitVec 7) :
    WritesLane (.shl d a b) [a, b] d fun w l => (w.reg a).lane l <<< ((w.reg b).lane l &&& 31) := by
  refine reg_writes _ [d, a, b] [a, b] d _ .vector _ (exec_shl d a b) (by simp) (by simp) fun w l hl => ?_
  rw [BitVec.shiftLeft_eq', and_31_toNat]
  exact shlShape_getD_lane (mapR_lane _ _ l hl)

theorem shli_writesLane (d a : BitVec 7) (n : BitVec 5) :
    WritesLane (.shli d a n) [a] d fun w l => (w.reg a).lane l <<< n := by
  have hn : (immZ n).toNat % 32 = n.toNat := by
    have := n.isLt
    simp only [immZ, BitVec.toNat_setWidth]
    omega
  refine reg_writes _ [d, a] [a] d _ .vector _ (exec_shli d a n) (by simp) (by simp) fun w l hl => ?_
  have hshift := shlShape_getD_lane (x := w.reg a) (y := .u (immZ n)) (l := l)
    (r := (mapR [w.reg a] fun xs => (on1 0 (fun x : Word => x <<< n.toNat) xs, 0)).reg)
  simp only [Reg.lane, hn] at hshift
  exact hshift (mapR_lane _ _ l hl)

/-! ### Functions of the words in a lane -/

theorem word1_writes {i : Instr} {d a : BitVec 7} {f : Word → Word} {F : Wave → Nat → Word}
    (he : ∀ s, exec i s = laneFree s i [d, a] fun w => wordOp d [a] [w.reg a] (on1 0 f))
    (hF : ∀ w l, f ((w.reg a).lane l) = F w l) : WritesLane i [a] d F :=
  word_writes i [d, a] [a] d (fun w => [w.reg a]) (on1 0 f) F he (by simp) hF

theorem word2_writes {i : Instr} {d a b : BitVec 7} {f : Word → Word → Word} {F : Wave → Nat → Word}
    (he : ∀ s, exec i s = laneFree s i [d, a, b] fun w => wordOp d [a, b] [w.reg a, w.reg b] (on2 0 f))
    (hF : ∀ w l, f ((w.reg a).lane l) ((w.reg b).lane l) = F w l) : WritesLane i [a, b] d F :=
  word_writes i [d, a, b] [a, b] d (fun w => [w.reg a, w.reg b]) (on2 0 f) F he (by simp) hF

theorem word3_writes {i : Instr} {d a b : BitVec 7} {f : Word → Word → Word → Word} {F : Wave → Nat → Word}
    (he : ∀ s, exec i s = laneFree s i [d, a, b] fun w => wordOp d [d, a, b] [w.reg d, w.reg a, w.reg b] (on3 0 f))
    (hF : ∀ w l, f ((w.reg d).lane l) ((w.reg a).lane l) ((w.reg b).lane l) = F w l) : WritesLane i [d, a, b] d F :=
  word_writes i [d, a, b] [d, a, b] d (fun w => [w.reg d, w.reg a, w.reg b]) (on3 0 f) F he (by simp) hF

/-- A function of two words where the second is an immediate. -/
theorem wordImm_writes {i : Instr} {d a : BitVec 7} {x : Word} {f : Word → Word → Word} {F : Wave → Nat → Word}
    (he : ∀ s, exec i s = laneFree s i [d, a] fun w => wordOp d [a] [w.reg a, .u x] (on2 0 f))
    (hF : ∀ w l, f ((w.reg a).lane l) x = F w l) : WritesLane i [a] d F :=
  word_writes i [d, a] [a] d (fun w => [w.reg a, .u x]) (on2 0 f) F he (by simp) hF

/-! ### The words of no immediate shift (R86, R110) -/

/-- An immediate shift with a one in IMM10[9:5] is no instruction. -/
theorem decode_immShift_wide {word : Word} (hop : (opOf word).toNat ∈ [0x2E, 0x2F, 0x30])
    (himm : word.extractLsb' 5 5 ≠ 0) : decode word = .error .zero := by
  simp only [List.mem_cons, List.not_mem_nil, or_false] at hop
  rcases hop with hop | hop | hop <;> simpa [decode, hop, decodeLogic, chk] using himm

/-! ### The statements -/

/-- Settles O1: each instruction is a function of whole words, but for the left shifts, which keep the A shape; the
words of wide immediate shifts are refused. -/
theorem logicAndShiftLanes : Obligations.LogicAndShiftLanes := by
  unfold Obligations.LogicAndShiftLanes
  refine ⟨fun d a b imm n => ⟨?and, ?or, ?xor, ?andn, ?not, ?andi, ?ori, ?xori, shl_writesLane d a b, ?shr, ?sra, ?rol,
    shli_writesLane d a n, ?shri, ?srai⟩, fun word s wi base hop himm => ?wide⟩
  case and => exact word2_writes (fun _ => rfl) fun _ _ => rfl
  case or => exact word2_writes (fun _ => rfl) fun _ _ => rfl
  case xor => exact word2_writes (fun _ => rfl) fun _ _ => rfl
  case andn => exact word2_writes (fun _ => rfl) fun _ _ => rfl
  case not => exact word1_writes (fun _ => rfl) fun _ _ => rfl
  case andi => exact wordImm_writes (fun _ => rfl) fun _ _ => rfl
  case ori => exact wordImm_writes (fun _ => rfl) fun _ _ => rfl
  case xori => exact wordImm_writes (fun _ => rfl) fun _ _ => rfl
  case shr => exact word2_writes (fun _ => rfl) fun _ _ => by rw [BitVec.ushiftRight_eq', and_31_toNat]
  case sra => exact word2_writes (fun _ => rfl) fun _ _ => by rw [BitVec.sshiftRight', and_31_toNat]
  case rol => exact word2_writes (fun _ => rfl) fun _ _ => rotateLeft_eq_shifts _ _
  case shri => exact word1_writes (fun _ => rfl) fun _ _ => rfl
  case srai => exact word1_writes (fun _ => rfl) fun _ _ => rfl
  case wide =>
    have hd := decode_immShift_wide hop himm
    exact ⟨hd, illWord_issueTraps hd (by decide)⟩

/-- Settles O2: each instruction is a function of whole words, and the model's field, count and reversal of a word are
those of the rules. -/
theorem bitFieldLanes : Obligations.BitFieldLanes := by
  unfold Obligations.BitFieldLanes
  intro d a b pos len m
  have hpos : ∀ y, fieldPos y = (pos y).toNat := fieldPos_eq
  have hmask : ∀ y, fieldMask y = m y := fieldMask_eq
  refine ⟨?bfe, ?bfi, ?popc, ?clz, ?brev⟩
  case bfe => exact word2_writes (fun _ => rfl) fun _ _ => by rw [hpos, hmask]; rfl
  case bfi => exact word3_writes (fun _ => rfl) fun _ _ => by rw [hpos, hmask]; rfl
  case popc => exact word1_writes (fun _ => rfl) fun _ _ => congrArg _ (popcount_eq_countP _)
  case clz => exact word1_writes (fun _ => rfl) fun w l => clz_word ((w.reg a).lane l)
  case brev => exact word1_writes (fun _ => rfl) fun _ _ => maskOf_reverse _

end Sys2Proof.Machine
end

section
/-!
SUPPORT. Mask instructions (R117 to R119, R125): what an instruction that writes masks or codes leaves, and the
statement O12.
-/

namespace Sys2Proof.Machine

/-! ### The trace of a mask write (R304) -/

theorem emitMask_onlyTrace (s : State) (wi : Nat) (k : BitVec 4) (m : Word) : OnlyTrace wi s (emitMask s wi k m) :=
  have stamped := (flushBr_onlyTrace s wi).trans (stampFirst_onlyTrace _ wi)
  .ite (.ite (stamped.trans <| (putPacket_onlyTrace ..).trans (.modWave ..)) stamped) (.refl wi s)

theorem emitMask_untraced {s : State} {wi : Nat} (k : BitVec 4) (m : Word) (h : (s.wave wi).trace.on = false) :
    emitMask s wi k m = s := by
  simp [emitMask, h]

/-- A wave put in the place of the one that the trace unit has worked for. -/
theorem OnlyTrace.set {wi : Nat} {s t : State} (h : OnlyTrace wi s t) (w : Wave) : t.waves.set wi w = s.waves.set wi w := by
  obtain ⟨g, hg⟩ := h.waves
  rw [hg]
  apply List.ext_getElem?
  intro j
  by_cases hj : wi = j
  · subst hj; simp [List.getElem?_set]
  · simp [hj]

/-- A wave with the spill area that it had, and other cores, hold the same bytes of memory. -/
theorem sameMem_setWave {s : State} {wi : Nat} {w : Wave} (hl : wi < s.waves.length) (cores : List CoreState)
    (hw : w.spill = (s.wave wi).spill) : SameMem s { s with waves := s.waves.set wi w, cores := cores } := by
  refine sameMem_of_spill rfl rfl rfl rfl rfl fun j => ?_
  by_cases hj : wi = j
  · subst hj; simpa [State.wave, List.getD_eq_getElem?_getD, hl] using hw
  · simp [State.wave, List.getD_eq_getElem?_getD, hj]

/-! ### Masks and codes of a wave (R69, R125) -/

/-- MZ and MF of a mask. -/
def Wave.withFlags (m : Word) (w : Wave) : Wave := { w with mz := (m &&& w.pm) = 0, mf := (m &&& w.pm) = w.pm }

/-- A mask register written, with MZ and MF. -/
def Wave.withMask (k : BitVec 4) (m : Word) (w : Wave) : Wave := Wave.withFlags m { w with k := w.k.set k.toNat m }

def Wave.withHelper (m : Word) (w : Wave) : Wave := { w with hm := m }

theorem Wave.withMask_mask (k : BitVec 4) (m : Word) (w : Wave) (h : w.k.length = 16) : (w.withMask k m).mask k = m := by
  have hk : k.toNat < w.k.length := h ▸ k.isLt
  simp [Wave.withMask, Wave.withFlags, Wave.mask, List.getD_eq_getElem?_getD, hk]

theorem Wave.withMask_mask_ne {k j : BitVec 4} (m : Word) (w : Wave) (h : j ≠ k) : (w.withMask k m).mask j = w.mask j := by
  have hk : k.toNat ≠ j.toNat := fun e => h (BitVec.eq_of_toNat_eq e.symm)
  simp [Wave.withMask, Wave.withFlags, Wave.mask, List.getD_eq_getElem?_getD, hk]

/-- From `s` to `t` the trace unit has worked for wave `wi`, if that is traced; `f` then updates masks and codes of the
wave and nothing else, and of the masks at most `k`. -/
structure CodesStep (s t : State) (wi : Nat) (k : Option (BitVec 4)) (f : Wave → Wave) : Prop where
  trace : OnlyTrace wi s t
  untraced : (s.wave wi).trace.on = false → t = s
  codes : ∀ w, f w = { w with k := (f w).k, mz := (f w).mz, mf := (f w).mf, hm := (f w).hm }
  masks : ∀ w j, some j ≠ k → (f w).mask j = w.mask j

theorem codesStep_withMask (s : State) (wi : Nat) (k : BitVec 4) (m : Word) :
    CodesStep s (emitMask s wi k m) wi (some k) (Wave.withMask k m) :=
  ⟨emitMask_onlyTrace s wi k m, emitMask_untraced k m, fun _ => rfl,
    fun w _ hj => w.withMask_mask_ne m fun e => hj (congrArg some e)⟩

theorem codesStep_withFlags (s : State) (wi : Nat) (m : Word) : CodesStep s s wi none (Wave.withFlags m) :=
  ⟨.refl wi s, fun _ => rfl, fun _ => rfl, fun _ _ _ => rfl⟩

theorem codesStep_withHelper (s : State) (wi : Nat) (m : Word) : CodesStep s s wi none (Wave.withHelper m) :=
  ⟨.refl wi s, fun _ => rfl, fun _ => rfl, fun _ _ _ => rfl⟩

/-! ### The effect of an instruction that writes no register -/

theorem orFstat_zero (s : State) (wi : Nat) : orFstat s wi 0 = s := by
  have : (fun w : Wave => { w with fstat := w.fstat ||| BitVec.ofNat 32 0 }) = id := funext fun w => by simp
  rw [orFstat, this, State.modWave, List.modify_id]

/-- Codes written, then occupancy of a unit and retirement. -/
theorem codes_done {s t : State} {wi : Nat} {k : Option (BitVec 4)} {f : Wave → Wave} (u : ExecUnit) (n : Nat)
    (hl : wi < s.waves.length) (hu : s.unheld wi = true) (h : CodesStep s t wi k f) :
    let r := advance (occupy (t.modWave wi f) wi u n) wi
    CodesDone s r wi k ∧ ∃ tr, r.wave wi = (f { s.wave wi with trace := tr }).retired := by
  obtain ⟨ht, hoff, hf, hk⟩ := h
  have hlt : wi < t.waves.length := ht.length ▸ hl
  have hsame : SameHolds f (t.wave wi) := by constructor <;> rw [hf]
  have hself := ht.wave_self hl
  obtain ⟨b, c, e⟩ := occupy_advance t wi f u n false hlt ((ht.unheld hl).trans hu) hsame
  intro r
  replace e : r = _ := e
  have hwave : r.wave wi = (f (t.wave wi)).retired := by
    rw [e]; simp [State.modCore, State.wave, List.getD_eq_getElem?_getD, hlt]
  have hretired : r.wave wi = { (s.wave wi).retired with
      k := (r.wave wi).k, mz := (r.wave wi).mz, mf := (r.wave wi).mf, hm := (r.wave wi).hm
      trace := (r.wave wi).trace } := by
    rw [hwave, hf, hself]; rfl
  have hstate : r = { t with waves := s.waves.set wi (r.wave wi), cores := r.cores } := by
    rw [← ht.set, hwave, e]; rfl
  have hdies : r.dies = t.dies := by rw [hstate]
  refine ⟨⟨?_, ?_, fun j hj => ?_, ?_, fun h => ?_⟩, (t.wave wi).trace, by rw [hwave, ← hself]⟩
  · rw [hdies]
    exact hstate.trans (congrArg (fun x => { x with waves := s.waves.set wi (r.wave wi), cores := r.cores }) ht.state)
  · rw [hretired]
  · calc (r.wave wi).mask j
        _ = (f (t.wave wi)).mask j := by rw [hwave]; rfl
        _ = (t.wave wi).mask j := hk _ j hj
        _ = (s.wave wi).mask j := by rw [hself]; rfl
  · rw [hretired]; exact BitVec.and_self
  · have hts := hoff h
    refine ⟨?_, hdies.trans (by rw [hts]), ?_, ?_⟩
    · rw [hwave, hf, hts]; rfl
    · have hbusy := onlyBusy_modCore s (s.wave wi).part b c
      rw [hts] at e
      rw [e]
      exact ⟨hbusy.others, hbusy.core, hbusy.parts, hbusy.part⟩
    · rw [hts] at hstate
      rw [hstate]
      exact sameMem_setWave hl r.cores (by rw [hretired]; rfl)

/-- An unguarded instruction of the mask unit, which writes no register and sets no flag. -/
def codesOp (reads : List (BitVec 7)) (mask : Option (BitVec 4 × Word)) (test hm : Option Word) : LaneOp :=
  { reads := reads, guarded := false, unit := .mask, mask := mask, test := test, hm := hm }

section
variable (s : State) (wi : Nat) (rd : List (BitVec 7))

theorem codesOp_orFstat (mask : Option (BitVec 4 × Word)) (test hm : Option Word) (w : Wave) :
    orFstat s wi ((codesOp rd mask test hm).fstat w) = s := by
  rw [LaneOp.fstat_nil _ _ rfl, orFstat_zero]

/-- A mask written; which unit is occupied, and for how long, changes no mask and no code. -/
theorem laneEffect_mask (k : BitVec 4) (m : Word) :
    ∃ u n, laneEffect s wi (codesOp rd (some (k, m)) none none) =
      advance (occupy ((emitMask s wi k m).modWave wi (Wave.withMask k m)) wi u n) wi := by
  refine ⟨_, _, congrArg (fun t => advance (occupy t wi _ _) wi) ?_⟩
  show writeMask (orFstat s wi ((codesOp rd (some (k, m)) none none).fstat (s.wave wi))) wi k m = _
  rw [codesOp_orFstat]
  exact State.modWave_modWave ..

theorem laneEffect_test (m : Word) :
    ∃ u n, laneEffect s wi (codesOp rd none (some m) none) =
      advance (occupy (s.modWave wi (Wave.withFlags m)) wi u n) wi := by
  refine ⟨_, _, congrArg (fun t => advance (occupy t wi _ _) wi) ?_⟩
  show setMaskFlags (orFstat s wi ((codesOp rd none (some m) none).fstat (s.wave wi))) wi m = _
  rw [codesOp_orFstat]
  rfl

theorem laneEffect_helper (m : Word) :
    ∃ u n, laneEffect s wi (codesOp rd none none (some m)) =
      advance (occupy (s.modWave wi (Wave.withHelper m)) wi u n) wi := by
  refine ⟨_, _, congrArg (fun t => advance (occupy t wi _ _) wi) ?_⟩
  show (orFstat s wi ((codesOp rd none none (some m)).fstat (s.wave wi))).modWave wi (Wave.withHelper m) = _
  rw [codesOp_orFstat]

end

/-- An instruction of the mask unit that can issue sets its codes. -/
theorem codesOp_done {i : Instr} {s t : State} {wi : Nat} {rd : List (BitVec 7)}
    {mask : Wave → Option (BitVec 4 × Word)} {test hm : Wave → Option Word} {k : Option (BitVec 4)} {f : Wave → Wave}
    (he : exec i s = laneFree s i rd fun w => codesOp rd (mask w) (test w) (hm w)) (h : s.laneReady wi rd [] = true)
    (heff : ∃ u n, laneEffect s wi (codesOp rd (mask (s.wave wi)) (test (s.wave wi)) (hm (s.wave wi))) =
      advance (occupy (t.modWave wi f) wi u n) wi)
    (hf : CodesStep s t wi k f) :
    ∃ r, exec i s = .next r ∧ CodesDone s r wi k ∧ ∃ tr, r.wave wi = (f { s.wave wi with trace := tr }).retired := by
  obtain ⟨hready, -, -, -, -⟩ := State.laneReady_parts h
  obtain ⟨-, hl, hu, -⟩ := State.ready_cur hready
  obtain ⟨u, n, heff⟩ := heff
  have hrun : exec i s =
      .next (laneEffect s wi (codesOp rd (mask (s.wave wi)) (test (s.wave wi)) (hm (s.wave wi)))) := by
    rw [he, laneFree, laneInstr, begin_ready _ hready (by simp)]
    exact congrArg _ (laneOp_ready s wi i _ rd [] h rfl (fun _ h => h) (by simp [codesOp])
      (.inr (LaneOp.fstat_nil _ _ rfl)))
  exact ⟨_, heff ▸ hrun, codes_done u n hl hu hf⟩

/-! ### Mask instructions, mask queries, `ktest` and `helper` -/

/-- An instruction that writes a mask with a function of the wave. -/
theorem mask_writes {i : Instr} {rd : List (BitVec 7)} {k : BitVec 4} {f : Wave → Word}
    (he : ∀ s, exec i s = laneFree s i rd fun w => codesOp rd (some (k, f w)) none none) : WritesMask i rd k f := by
  intro s wi h
  obtain ⟨r, hrun, hdone, tr, hw⟩ := codesOp_done (mask := fun w => some (k, f w)) (he s) h (laneEffect_mask s wi rd k _)
    (codesStep_withMask s wi k _)
  obtain ⟨-, -, -, hlen, -⟩ := State.laneReady_parts h
  refine ⟨r, hrun, hdone, ?_, ?_, ?_, ?_, ?_⟩ <;> rw [hw]
  · exact Wave.withMask_mask k _ { s.wave wi with trace := tr } hlen
  · exact ⟨rfl, rfl⟩
  · exact ⟨rfl, rfl, rfl, rfl⟩
  · rfl
  · rfl

/-- A query of a mask, whose result is the same in every lane. -/
theorem query_writes {i : Instr} {v : BitVec 7} {x : Wave → Word}
    (he : ∀ s, exec i s = laneFree s i [v] fun w => { reads := [], writes := [(v, .u (x w))], unit := .mask }) :
    WritesLane i [] v fun w _ => x w :=
  reg_writes i [v] [] v (fun w => .u (x w)) .mask _ he (by simp) (by simp) fun _ _ _ => rfl

theorem ktest_done {a b : BitVec 4} {s : State} {wi : Nat} (h : s.laneReady wi [] [] = true) :
    ∃ t, exec (.ktest a b) s = .next t ∧ CodesDone s t wi none ∧
      MaskCodes (t.wave wi) ((s.wave wi).mask a &&& (s.wave wi).mask b) ∧ SameCodes (s.wave wi) (t.wave wi) ∧
      (t.wave wi).fstat = (s.wave wi).fstat ∧ (t.wave wi).hm = (s.wave wi).hm := by
  obtain ⟨r, hrun, hdone, tr, hw⟩ := codesOp_done (i := .ktest a b) (mask := fun _ => none)
    (test := fun w => some (w.mask a &&& w.mask b)) (hm := fun _ => none) rfl h (laneEffect_test s wi [] _)
    (codesStep_withFlags s wi _)
  refine ⟨r, hrun, hdone, ?_⟩
  rw [hw]
  exact ⟨⟨rfl, rfl⟩, ⟨rfl, rfl, rfl, rfl⟩, rfl, rfl⟩

theorem helper_done {a : BitVec 4} {s : State} {wi : Nat} (h : s.laneReady wi [] [] = true) :
    ∃ t, exec (.helper a) s = .next t ∧ CodesDone s t wi none ∧
      (t.wave wi).hm = (s.wave wi).mask a &&& ~~~(s.wave wi).pm ∧ SameCodes (s.wave wi) (t.wave wi) ∧
      (t.wave wi).mz = (s.wave wi).mz ∧ (t.wave wi).mf = (s.wave wi).mf ∧ (t.wave wi).fstat = (s.wave wi).fstat := by
  obtain ⟨r, hrun, hdone, tr, hw⟩ := codesOp_done (i := .helper a) (mask := fun _ => none) (test := fun _ => none)
    (hm := fun w => some (w.mask a &&& ~~~w.pm)) rfl h (laneEffect_helper s wi [] _) (codesStep_withHelper s wi _)
  refine ⟨r, hrun, hdone, ?_⟩
  rw [hw]
  exact ⟨rfl, ⟨rfl, rfl, rfl, rfl⟩, rfl, rfl, rfl⟩

/-! ### The statement -/

/-- Settles O12: mask writes go through the trace unit to one mask register and MZ and MF; the queries write U. -/
theorem maskInstructions : Obligations.MaskInstructions := by
  unfold Obligations.MaskInstructions
  refine ⟨fun d a b v => ⟨mask_writes fun _ => rfl, mask_writes fun _ => rfl, mask_writes fun _ => rfl,
    mask_writes fun _ => rfl, mask_writes fun _ => rfl, mask_writes fun _ => rfl, mask_writes fun _ => rfl⟩,
    fun a b v => ?queries⟩
  intro count
  refine ⟨query_writes fun _ => rfl, ?kpop, ?kfirst, fun s wi h => ⟨ktest_done h, helper_done h⟩⟩
  case kpop =>
    have hcount : ∀ m, popcount m = count m := popcount_eq_countP
    simp only [← hcount]
    exact query_writes fun _ => rfl
  case kfirst =>
    have hfirst : ∀ m : Word, (lanesOf m).headD 32 = ((List.range 32).find? m.getLsbD).getD 32 := fun m => by
      rw [List.headD_eq_head?_getD, lanesOf, List.head?_filter]; rfl
    simp only [← hfirst]
    exact query_writes fun _ => rfl

end Sys2Proof.Machine
end
